-- ==== Sys2Proof/Word.lean ====
section
/-! DEFINITION. The word types of the machine (R112, R41, R55). -/

namespace Sys2Proof

/-- An instruction word, an x-register, an address (R112, R56). -/
abbrev Word := BitVec 64
/-- One byte of memory. -/
abbrev Byte := BitVec 8
/-- A lane mask: bit `i` is lane `i` (R55). -/
abbrev Mask := BitVec 32
/-- A 14-bit operand field of an S or W frame (R116, R121). -/
abbrev Field := BitVec 14

end Sys2Proof
end

