-- ==== Sys2Proof/Syntax.lean ====
section
/-! DEFINITION. The instructions, commands and events of the table of operations: one constructor per row. -/

namespace Sys2Proof

/-- The causes of R324. -/
inductive Cause
  | illegal | priv | pcrange | budget | latch | owner | align | addr | page | splits | shapefmt | copyflt
  | scope | yokemis | binbusy | yieldovr | bartimeout | arena | user | rngwrap | legacy
  | memecc | integrity | diverge | sensor | collmis | netrefuse | netdown | transl
  | nobucket | bindfail | launchfmt | loadfmt | feature | hint | pinrej | quota
deriving DecidableEq, Repr

/-- An operand of an S or W frame (R11, R12, R54, R56, R117), or a field left out or raw (R116, R132, R227). -/
inductive Operand
  | none
  | slice (start : BitVec 10) (w : BitVec 3)
  | latch (k : BitVec 3)
  | latchOnly
  | imm (v : BitVec 11)
  | xreg (idx : BitVec 6) (size : BitVec 2) (elem : BitVec 3)
  | mask (k : BitVec 4)
  | lane
  | gw
  | plotid
  | furrow
  | raw (v : Field)
deriving DecidableEq, Repr

/-- The fields of an S or W frame (R116, R121, R122) other than its opcode. In an S frame the W-only fields are zero
and `ext` is the mod bit; in a W frame `ext` is EXT. `fmt` is the S frame's fmt or the W frame's F0. -/
structure Args where
  wide  : Bool := false
  guard : BitVec 4 := 0
  fmt   : BitVec 5 := 0
  ext   : Bool := false
  a     : Operand := .none
  b     : Operand := .none
  c     : Operand := .none
  d     : Operand := .none
  e     : Operand := .none
  g1    : BitVec 4 := 0
  f1    : BitVec 5 := 0
  cache : BitVec 4 := 0
  delay : BitVec 3 := 0
  rnd   : BitVec 3 := 0
  scope : BitVec 3 := 0
  ord   : BitVec 2 := 0
  ua    : Bool := false
  lu    : Bool := false
  xmod  : BitVec 3 := 0
deriving DecidableEq, Repr

/-- A P slice operand (R119): bank bit, start within the bank, width code. -/
structure PSlice where
  bank  : Bool
  start : BitVec 8
  w     : BitVec 2
deriving DecidableEq, Repr

/-- A P half with a slice source (R118). -/
structure PArgs where
  half  : Bool := false
  guard : BitVec 3 := 0
  dst   : PSlice
  src   : PSlice
deriving DecidableEq, Repr

/-- A P half with an immediate source (R120). -/
structure PImm where
  half  : Bool := false
  guard : BitVec 3 := 0
  dst   : PSlice
  imm   : BitVec 11
deriving DecidableEq, Repr

/-- Why a fetched word names no instruction (R131). -/
inductive Reject
  /-- order 1: a word of the frame lies outside the code range (R113) -/
  | outsideRange
  /-- order 3: a continuation word as a first word (R114) -/
  | continuation
  /-- order 3: a W word without its continuation (R114) -/
  | noContinuation
  /-- orders 4 and 5: an unclaimed or reserved opcode of the privileged block (R128, R131) -/
  | privBlock (op : Nat)
  /-- order 5: a reserved, unclaimed or rung-4 opcode (R125, R126, R129) -/
  | unclaimed (op : Nat)
  /-- order 7: a field check of a privileged-block instruction failed (R128, R131) -/
  | privField (op : Nat)
  /-- order 7: a field check failed (R131) -/
  | field (op : Nat)
deriving DecidableEq, Repr

/-- A command as it is received (R313): the fields of its header, those that must be zero among them, and its body. -/
structure CmdHdr where
  magic   : BitVec 32 := 0x7E100440
  version : BitVec 8 := 1
  type    : BitVec 8
  resp    : Bool := false
  zero1   : BitVec 7 := 0
  rstat   : BitVec 8 := 0
  slot    : BitVec 32
  length  : BitVec 32
  seq     : Word
  asid    : BitVec 16
  zero2   : BitVec 48 := 0
  tag     : BitVec 128
  zero3   : BitVec 128 := 0
  body    : List Word
deriving DecidableEq, Repr

/-- A region of JOBNEW (R318). -/
structure RegionDesc where
  base : Word
  len  : Nat
  rd   : Bool
  wr   : Bool
  near : Bool
  die  : BitVec 2
deriving DecidableEq, Repr

/-- The body of JOBNEW (R318). -/
structure JobBody where
  arenaN  : Nat
  arenaVa : Word
  ctableVa : Word
  ctableN : BitVec 12
  regions : List RegionDesc
deriving DecidableEq, Repr

/-- The body of WINOPEN (R319). -/
structure WinBody where
  index : Nat
  base  : Word
  len   : Nat
  rd    : Bool
  wr    : Bool
  host  : Bool
  any   : Bool
  peer  : BitVec 16
deriving DecidableEq, Repr

/-- A one-sided transfer as its target sees it (R319): the job and window it names, and who initiates it. -/
structure Transfer where
  asid   : BitVec 16
  window : Nat
  offset : Nat
  slot   : Nat
  isHost : Bool
  peer   : BitVec 16
deriving DecidableEq, Repr

/-- What a run of a sampled plot comes to at its commit point: the digest of its stores since the last agreed one, or a fault that
ends the job (R39, R325). -/
inductive RunEnd
  | stores (digest : BitVec 512)
  | fault (c : Cause)
deriving DecidableEq, Repr

/-- A kernel image (R336): its version, its bytes, and whether its signature verifies. -/
structure KernelImage where
  version : Nat
  bytes   : List Byte
  signed  : Bool
deriving DecidableEq, Repr

/-- The units of R334 and R359. -/
inductive UnitId
  | core (n : Nat) | homeSlice (n : Nat) | channel (n : Nat) | bridge (n : Nat) | port (n : Nat)
  | sensor (zone n : Nat)
deriving DecidableEq, Repr

/-- The event classes of R334's table, row by row. -/
inductive EventClass
  | coreFault | coreCorrected | sliceUncorrectable | channelUncorrectable | channelCorrected | bridgeRetry
  | portFcs | sensorImplausible
deriving DecidableEq, Repr

/-- What the ECC of a far-memory sector finds (R333). -/
inductive Ecc
  | clean | corrected | uncorrectable
deriving DecidableEq, Repr

/-- One reading of a zone's sensors (R353, R355): temperatures in degrees, pressure drop in units of 10 kPa, flow in tenths
of a mL/min, pressure in percent of the expected value, and the sensors whose sample lies outside their physical range, which the spec
does not give (log entry 36). -/
structure ZoneReading where
  tin         : Nat
  tout        : Nat
  diodes      : List Nat
  dp          : Nat
  flow        : Nat
  pressurePct : Nat
  outOfRange  : List Nat
deriving DecidableEq, Repr

/-- What the outside world, or the schedule, hands an event: one constructor per event that takes something. The
events' own constructors carry no fields; an event reads this from the state (log entry 1). -/
inductive Input
  /-- Nothing is handed over. -/
  | idle
  /-- A die returns to its reset values (R4). -/
  | dieReset (die : Nat)
  /-- A port trains with its link partner (R311). -/
  | portLinkTrain (port : Nat) (offers800 : Bool)
  /-- The peer table takes an entry (R312; log entry 79). -/
  | peerEntry (module_ : BitVec 16) (fabric : Word)
  /-- A far-memory channel trains with its device (R311): `ok` where it meets 12.8 Gb/s. -/
  | channelTrain (channel : Nat) (ok : Bool)
  /-- The first packet of an unsupported flow is refused (R311). -/
  | unsupportedFlowRefuse (port : Nat)
  /-- SLOTSET (R316). -/
  | slotset (c : CmdHdr)
  /-- JOBNEW (R318). -/
  | jobnew (c : CmdHdr)
  /-- JOBDEL (R316). -/
  | jobdel (c : CmdHdr)
  /-- LOAD (R284). -/
  | load (c : CmdHdr)
  /-- LAUNCH (R288). -/
  | launch (c : CmdHdr)
  /-- CANCEL as a command (R316, R17). -/
  | cancelCommand (c : CmdHdr)
  /-- PREEMPT (R316, R33). -/
  | preempt (c : CmdHdr)
  /-- WINOPEN (R319). -/
  | winopen (c : CmdHdr)
  /-- WINCLOSE (R316). -/
  | winclose (c : CmdHdr)
  /-- TRAPREPLY (R327). -/
  | trapreply (c : CmdHdr)
  /-- QUERY (R316). -/
  | query (c : CmdHdr)
  /-- QUOTE (R337). -/
  | quote (c : CmdHdr)
  /-- SEASON (R291). -/
  | season (c : CmdHdr)
  /-- UPDSVC (R338); `starts`: the new image starts. -/
  | updsvc (c : CmdHdr) (starts : Bool)
  /-- UPDKERN (R339); `signed`: the signature of the image verifies. -/
  | updkern (c : CmdHdr) (signed : Bool)
  /-- The handover to the new kernel (R339); `accepts`: it takes the state given. -/
  | kernelSwap (accepts : Bool)
  /-- RETIRE (R335). -/
  | retire (c : CmdHdr)
  /-- THRESH (R334). -/
  | thresh (c : CmdHdr)
  /-- CLOCKCFG (R340). -/
  | clockcfg (c : CmdHdr)
  /-- PROVISION (R315). -/
  | provision (c : CmdHdr)
  /-- A command of a TYPE that names none (R317). -/
  | otherCommand (c : CmdHdr)
  /-- ZDRAIN (R357). -/
  | zdrain (c : CmdHdr)
  /-- ZFILL (R357). -/
  | zfill (c : CmdHdr)
  /-- RECAL (R359), with the sensor's current reading. -/
  | recal (c : CmdHdr) (reading : Int)
  /-- Ten seconds after RECAL (R359). -/
  | recalSuspendEnd (zone sensor : Nat)
  /-- A one-sided write into a window (R319). -/
  | hostWindowWrite (x : Transfer) (bytes : List Byte)
  /-- A one-sided read from a window (R319). -/
  | hostWindowRead (x : Transfer) (len : Nat)
  /-- A PTP synchronisation (R340): the estimated offset in ns (positive: this counter is behind), and whether its estimate lies within 20 ns. -/
  | ptpSyncReceive (offset : Int) (within : Bool)
  /-- The head dispatcher sends a batch (R22, R261). -/
  | headDispatch (launch : Nat)
  /-- The die dispatcher places a plot (R22). -/
  | dieDispatchPlace (plot : Nat)
  /-- A swap between the files (R23). -/
  | furrowSwap (core : Nat)
  /-- The shares of stages (R29). -/
  | graphRebalance (die : Nat)
  /-- A stage instance starts (R28, R290). -/
  | stageInstanceStart (graph stage : Nat)
  /-- A launch ends (R16, R100). -/
  | launchEnd (launch : Nat)
  /-- A plot has left its core (R33). -/
  | preemptionSave (plot : Nat)
  /-- A saved plot is restored (R25). -/
  | plotRestore (plot : Nat)
  /-- A launch leaves a die (R25). -/
  | plotMoveDie (launch die : Nat)
  /-- A datapath check failed inside a region (R37). -/
  | regionRestart (fur : Nat)
  /-- A plot rolls back (R38). -/
  | plotRollback (plot : Nat)
  /-- A rolled-back plot is relaunched (R38). -/
  | plotRelaunch (plot : Nat)
  /-- The second run of a sampled plot does not come to what the first comes to (R39, R325). -/
  | secondApart (plot : Nat) (end_ : RunEnd)
  /-- The second run of a sampled plot rolls back (R40), and has caught up again. -/
  | secondRollback (plot : Nat)
  | secondBack (plot : Nat)
  /-- The third run of a sampled plot, on its core, decides (R39). -/
  | cruiseThirdRun (plot : Nat) (third : RunEnd) (core3 : Nat)
  /-- A load, gather or fill returns (R51). -/
  | loadReturn (ret : Nat)
  /-- A returning atomic is answered (R203). -/
  | atomicReply (ret : Nat)
  /-- A YIELD.W wait is met (R146). -/
  | yieldWReactivate (fur : Nat)
  /-- A WAITV wait is met (R206). -/
  | waitvSatisfied (fur : Nat)
  /-- A watch slot fires (R207). -/
  | watchFire (fur slot : Nat)
  /-- TIMEN has reached t (R147). -/
  | waittReady (fur : Nat)
  /-- A barrier or yoke was held too long (R27, R342). -/
  | barTimeout (plot : Nat)
  /-- A queued callee furrow is granted (R139, R294). -/
  | calleeGrant (core : Nat)
  /-- A queued continuation is granted (R140). -/
  | continuationGrant (core : Nat)
  /-- A queued spawned furrow is granted (R143). -/
  | spawnedFurrowGrant (core : Nat)
  /-- A walk for a waiting furrow (R322). -/
  | translationWalk (fur : Nat)
  /-- The services answered a walk request (R322). -/
  | walkRetry (fur : Nat)
  /-- A trap record that waited for room is written (R328). -/
  | trapRecordWrite (fur : Nat)
  /-- No TRAPREPLY within 5 s (R327). -/
  | trapreplyTimeout (fur : Nat)
  /-- An engine job starts (R102). -/
  | engineJobStart (job : Nat)
  /-- An engine job writes its status and stamp (R104). -/
  | engineStampWrite (job : Nat)
  /-- A copy is performed (R214). -/
  | copyComplete (job : Nat)
  /-- One hop of a relay chain (R215). -/
  | relayHop (job : Nat)
  /-- A store to bytes 0 to 7 of an aperture channel (R212). -/
  | copyApertureIndexStore (ch : BitVec 4) (v : Word)
  /-- A store completing bytes 8 to 15 of an aperture channel (R212). -/
  | copyApertureStartStore (ch : BitVec 4) (v : Word)
  /-- A collective is complete (R218): whether the parties agree, and each rank's source elements. -/
  | collComplete (job : Nat) (agree : Bool) (data : List (List Word))
  /-- The target side of an NWR (R219). -/
  | nwrTargetWrite (x : Transfer) (bytes : List Byte) (stampOff stampV : Word) (stampAdd : Bool)
  /-- An NWR is acknowledged or refused (R219). -/
  | nwrAck (job : Nat) (refused : Bool)
  /-- An NRD is answered or refused (R219). -/
  | nrdComplete (job : Nat) (refused : Bool) (bytes : List Byte)
  /-- An uncorrectable, or a corrected, error of a group of a lane's slice file (R43, R331). -/
  | sliceError (fur lane group : Nat) (corrected : Bool)
  /-- An uncorrectable error in a plot's tiles, bins, harrow records or uncommitted stores (R331). -/
  | plotError (plot : Nat)
  /-- A parity error in a line of a core's L1 (R331). -/
  | l1Error (core line : Nat)
  /-- An uncorrectable error in L2 or near memory (R331). -/
  | memError (sector : Nat)
  /-- What a channel returns for a sector of far memory (R333): the ECC's finding, the ciphertext and the tag. -/
  | farRead (sector : Nat) (ecc : Ecc) (cipher : BitVec 512) (tag : BitVec 56) (furrow : Nat)
  /-- A flit of a die bridge is replayed (R331). -/
  | bridgeRetry (bridge : Nat)
  /-- A frame of a port fails its check and is resent (R331). -/
  | portFcs (port : Nat)
  /-- A lost packet is resent (R312). -/
  | transportRetransmit (job : Nat)
  /-- The transport hears an acknowledgement of a transfer that is still under way (R312). -/
  | transportAck (job : Nat)
  /-- The transport abandons a transfer (R312). -/
  | transportAbandon (job : Nat)
  /-- The sequencer starts a step (R240). -/
  | sequencerStep (core : Nat)
  /-- A step completes, or its residue check fails (R237, R241). -/
  | sequencerStepDone (core : Nat) (residueOk : Bool)
  /-- Words of a row write, or elements of a bin write, of the furrow's next instruction land before it is performed, each
  named by its tile or bin, row and place (R256). -/
  | furrowWords (furrow : Nat) (words elems : List (Nat × Nat × Nat))
  /-- The same of the operation that a core's sequencer runs (R256). -/
  | operationWords (core : Nat) (words elems : List (Nat × Nat × Nat))
  /-- The same of a copy or of a relay's next hop (R256). -/
  | copyWords (job : Nat) (words : List (Nat × Nat × Nat))
  /-- A valve's timer ends (R351). -/
  | sluiceSettle (zone : Nat)
  /-- A zone samples its sensors (R353). -/
  | zoneSample (zone : Nat) (x : ZoneReading)
  /-- The services' next response step (R354). -/
  | sensorResponseStep (zone : Nat)
  /-- A drain-down step finishes, or times out (R358). -/
  | drainDownStep (zone : Nat) (ok : Bool)
  /-- A measurement of the module's power (R356). -/
  | powerSample (milliwatts : Nat)
  /-- The fused minimum of a slot is raised (R339). -/
  | fusedMinimumRaise (c : CmdHdr)
  /-- Fetching a word that names no instruction (R131). -/
  | reservedOpcode (r : Reject)
deriving DecidableEq, Repr

/-- The machine's operations and events: one constructor per row of the table. -/
inductive Instr
  /-- Uniform branch that always moves the issuing split to the target (R133). -/
  | br (f : Args)
  /-- Uniform branch taken when every active lane has its bit set in the mask (R133). -/
  | brall (f : Args)
  /-- Uniform branch taken when some active lane has its bit set (R133). -/
  | brany (f : Args)
  /-- Uniform branch taken when no active lane has its bit set (R133). -/
  | brnone (f : Args)
  /-- Divergent branch that splits the lanes between the target and the next frame (R134). -/
  | brd (f : Args)
  /-- Decrements an x-register and branches while it is nonzero (R133). -/
  | brdec (f : Args)
  /-- Uniform jump to the absolute address in an x-register (R135). -/
  | jmp (f : Args)
  /-- Per-lane indirect jump that divides the split by destination (R135). -/
  | jmpd (f : Args)
  /-- Saves live state to a new frame, ends the caller split and queues a callee furrow (R139). -/
  | call (f : Args)
  /-- Per-lane indirect call that gleans lanes into one callee furrow per distinct target (R139). -/
  | calli (f : Args)
  /-- W form of CALLI that raises BUDGET for a target above the budget ceiling (R139). -/
  | calliBudget (f : Args)
  /-- Performs a plot-scope boundary and queues a new furrow of the plot at a label with a given logical index (R143). -/
  | spawn (f : Args)
  /-- Yields and waits until a stamp meets a value, continuing at a label (R146). -/
  | yieldW (f : Args)
  /-- W form of YIELD.W with a slice value, a .ge or .eq comparison and a scope (R146). -/
  | yieldWWide (f : Args)
  /-- Makes the furrow not ready until TIMEN reaches t and clears DETRES (R147). -/
  | waitt (f : Args)
  /-- W form of WAITT that skips the wait beyond a horizon and reports the lateness or lead (R147). -/
  | waittD (f : Args)
  /-- Plot barrier whose arrival performs a plot-scope boundary and whose departure, once all participants arrive, performs an acquire (R148). -/
  | bar (f : Args)
  /-- Cancels the unit whose completion record it names, at a level, by R17 (R150). -/
  | cancel (f : Args)
  /-- Integer add modulo 2^w (R152). -/
  | addInt (f : Args)
  /-- Integer subtract modulo 2^w (R152). -/
  | subInt (f : Args)
  /-- Low w bits of an integer product (R152). -/
  | mulInt (f : Args)
  /-- High w bits of an integer product (R152). -/
  | mulh (f : Args)
  /-- Smaller of two integers by type (R152). -/
  | minInt (f : Args)
  /-- Larger of two integers by type (R152). -/
  | maxInt (f : Args)
  /-- Integer absolute value (R152). -/
  | absInt (f : Args)
  /-- Integer negation (R152). -/
  | negInt (f : Args)
  /-- Saturating integer add (R152). -/
  | adds (f : Args)
  /-- Saturating integer subtract (R152). -/
  | subs (f : Args)
  /-- Saturating integer multiply (R152). -/
  | muls (f : Args)
  /-- Bitwise AND (R153). -/
  | and (f : Args)
  /-- Bitwise OR (R153). -/
  | or (f : Args)
  /-- Bitwise XOR (R153). -/
  | xor (f : Args)
  /-- Bitwise AND with the complement of the second source (R153). -/
  | andn (f : Args)
  /-- Bitwise complement (R153). -/
  | not (f : Args)
  /-- Shift left, zero for counts of w or more (R153). -/
  | shl (f : Args)
  /-- Logical shift right (R153). -/
  | shr (f : Args)
  /-- Arithmetic shift right (R153). -/
  | sar (f : Args)
  /-- Rotate left by c mod w (R153). -/
  | rotl (f : Args)
  /-- Rotate right by c mod w (R153). -/
  | rotr (f : Args)
  /-- Count of 1 bits (R153). -/
  | popc (f : Args)
  /-- Count of leading zero bits at width w (R153). -/
  | clz (f : Args)
  /-- Count of trailing zero bits (R153). -/
  | ctz (f : Args)
  /-- Moves a source extended to the operation width (R154). -/
  | mov (f : Args)
  /-- Extracts a bit field of the destination's width from a position (R154). -/
  | ext (f : Args)
  /-- Inserts a source into the destination at a position (R154). -/
  | ins (f : Args)
  /-- Integer multiply-add modulo 2^w (R155). -/
  | mad (f : Args)
  /-- Extracts len bits from pos, extended by type (R155). -/
  | bfx (f : Args)
  /-- Selects per lane between two sources by a mask (R155). -/
  | sel (f : Args)
  /-- Inserts the low len bits of a source at pos (R155). -/
  | bfi (f : Args)
  /-- Integer equality compare into a mask (R156). -/
  | cmpEqInt (f : Args)
  /-- Integer inequality compare into a mask (R156). -/
  | cmpNeInt (f : Args)
  /-- Integer less-than compare into a mask (R156). -/
  | cmpLtInt (f : Args)
  /-- Integer less-or-equal compare into a mask (R156). -/
  | cmpLeInt (f : Args)
  /-- Integer greater-than compare into a mask (R156). -/
  | cmpGtInt (f : Args)
  /-- Integer greater-or-equal compare into a mask (R156). -/
  | cmpGeInt (f : Args)
  /-- Address arithmetic with scale 2^k (R157). -/
  | ixa (k : BitVec 3) (f : Args)
  /-- Scalar-side add (R158). -/
  | xadd (f : Args)
  /-- Scalar-side subtract (R158). -/
  | xsub (f : Args)
  /-- Scalar-side multiply (R158). -/
  | xmul (f : Args)
  /-- Scalar-side AND (R158). -/
  | xand (f : Args)
  /-- Scalar-side OR (R158). -/
  | xior (f : Args)
  /-- Scalar-side shift left (R158). -/
  | xshl (f : Args)
  /-- Scalar-side shift right, logical or arithmetic by type (R158). -/
  | xshr (f : Args)
  /-- Scalar-side move (R158). -/
  | xmov (f : Args)
  /-- Legacy rung-1 address add B + C × 8 (R159). -/
  | lea (f : Args)
  /-- Legacy rung-1 high half of a 32-bit product (R159). -/
  | mulhi (f : Args)
  /-- Legacy microcoded bit reversal (R159). -/
  | brev (f : Args)
  /-- Legacy microcoded integer divide truncating toward zero (R159). -/
  | divInt (f : Args)
  /-- Mask AND (R160). -/
  | mand (f : Args)
  /-- Mask OR (R160). -/
  | mor (f : Args)
  /-- Mask XOR (R160). -/
  | mxor (f : Args)
  /-- Mask AND NOT (R160). -/
  | mandn (f : Args)
  /-- Mask complement (R160). -/
  | mnot (f : Args)
  /-- Mask move (R160). -/
  | mmov (f : Args)
  /-- Sets a mask from an immediate or x-register (R160). -/
  | mset (f : Args)
  /-- Copies a mask into an x-register (R160). -/
  | mget (f : Args)
  /-- Writes the set-bit count of a mask to each active lane (R160). -/
  | mpopc (f : Args)
  /-- Writes the index of a mask's lowest set bit, or 32, to each active lane (R160). -/
  | mffs (f : Args)
  /-- Shuffle from a per-lane source index (R162). -/
  | shflIdx (f : Args)
  /-- Shuffle from lane i − k (R162). -/
  | shflUp (f : Args)
  /-- Shuffle from lane i + k (R162). -/
  | shflDown (f : Args)
  /-- Shuffle from lane i XOR k (R162). -/
  | shflXor (f : Args)
  /-- Shuffle by lane and sub-element over the furrow's elements (R163). -/
  | shfe (f : Args)
  /-- In-lane byte permute with zero, ones and sign-fill controls (R164). -/
  | permB (f : Args)
  /-- In-lane nibble permute (R164). -/
  | permN (f : Args)
  /-- Nibble table lookup through a broadcast x-register (R164). -/
  | lut (f : Args)
  /-- Add reduction over active lanes by the fixed tree (R165). -/
  | reduceAdd (f : Args)
  /-- Minimum reduction over active lanes (R165). -/
  | reduceMin (f : Args)
  /-- Maximum reduction over active lanes (R165). -/
  | reduceMax (f : Args)
  /-- AND reduction over active lanes (R165). -/
  | reduceAnd (f : Args)
  /-- OR reduction over active lanes (R165). -/
  | reduceOr (f : Args)
  /-- XOR reduction over active lanes (R165). -/
  | reduceXor (f : Args)
  /-- Inclusive add scan over active lanes (R165). -/
  | scanAdd (f : Args)
  /-- Inclusive minimum scan (R165). -/
  | scanMin (f : Args)
  /-- Inclusive maximum scan (R165). -/
  | scanMax (f : Args)
  /-- Inclusive AND scan (R165). -/
  | scanAnd (f : Args)
  /-- Inclusive OR scan (R165). -/
  | scanOr (f : Args)
  /-- Inclusive XOR scan (R165). -/
  | scanXor (f : Args)
  /-- Moves mask-selected values down to the lowest active lanes and zeroes the rest (R166). -/
  | compact (f : Args)
  /-- Floating-point add rounded by the mode (R171). -/
  | addFloat (f : Args)
  /-- Floating-point subtract (R171). -/
  | subFloat (f : Args)
  /-- Floating-point multiply (R171). -/
  | mulFloat (f : Args)
  /-- IEEE minimumNumber (R171). -/
  | minFloat (f : Args)
  /-- IEEE maximumNumber (R171). -/
  | maxFloat (f : Args)
  /-- IEEE minimum propagating NaN (R171). -/
  | minp (f : Args)
  /-- IEEE maximum propagating NaN (R171). -/
  | maxp (f : Args)
  /-- Clears the sign bit (R171). -/
  | absFloat (f : Args)
  /-- Inverts the sign bit (R171). -/
  | negFloat (f : Args)
  /-- Magnitude of a with the sign of b (R171). -/
  | sgn (f : Args)
  /-- Rounds to an integral value by the mode (R171). -/
  | rint (f : Args)
  /-- Fused a × b + c rounded once (R172). -/
  | fma (f : Args)
  /-- Fused a × b − c rounded once (R172). -/
  | fms (f : Args)
  /-- Fused −(a × b) + c rounded once (R172). -/
  | fnma (f : Args)
  /-- Fused −(a × b) − c rounded once (R172). -/
  | fnms (f : Args)
  /-- Float equality compare into a mask (R173). -/
  | cmpEqFloat (f : Args)
  /-- Float inequality compare into a mask (R173). -/
  | cmpNeFloat (f : Args)
  /-- Float less-than compare into a mask (R173). -/
  | cmpLtFloat (f : Args)
  /-- Float less-or-equal compare into a mask (R173). -/
  | cmpLeFloat (f : Args)
  /-- Float greater-than compare into a mask (R173). -/
  | cmpGtFloat (f : Args)
  /-- Float greater-or-equal compare into a mask (R173). -/
  | cmpGeFloat (f : Args)
  /-- Unordered float compare into a mask (R173). -/
  | cmpUn (f : Args)
  /-- Ordered float compare into a mask (R173). -/
  | cmpOrd (f : Args)
  /-- Writes the one-hot class of a float element (R174). -/
  | fclass (f : Args)
  /-- Sets mask bits for lanes whose class is selected by an immediate (R174). -/
  | ftest (f : Args)
  /-- Packed dot product of two 64-bit sources with one rounding (R175). -/
  | dot (f : Args)
  /-- Packed dot product with accumulator (R175). -/
  | dota (f : Args)
  /-- Microcoded 2^x correctly rounded (R176). -/
  | exp2 (f : Args)
  /-- Microcoded log2 x (R176). -/
  | log2 (f : Args)
  /-- Microcoded reciprocal (R176). -/
  | rcp (f : Args)
  /-- Microcoded reciprocal square root (R176). -/
  | rsqrt (f : Args)
  /-- Microcoded sin(πx) (R176). -/
  | sinpi (f : Args)
  /-- Microcoded cos(πx) (R176). -/
  | cospi (f : Args)
  /-- Microcoded tanh x (R176). -/
  | tanh (f : Args)
  /-- Microcoded correctly rounded float divide (R177). -/
  | divFloat (f : Args)
  /-- Microcoded correctly rounded square root (R177). -/
  | sqrt (f : Args)
  /-- Conversion from fmt `src` (R178). -/
  | cvt (src : BitVec 5) (f : Args)
  /-- Conversion with a clamp bound and an explicit source or destination scale (R180). -/
  | cvtx (f : Args)
  /-- Chooses a block scale from a block maximum and clamp bound (R181). -/
  | esel (f : Args)
  /-- Interleaves the low halves of two sources (R182). -/
  | zipLo (f : Args)
  /-- Interleaves the high halves of two sources (R182). -/
  | zipHi (f : Args)
  /-- De-interleaves even elements (R182). -/
  | unzipEv (f : Args)
  /-- De-interleaves odd elements (R182). -/
  | unzipOd (f : Args)
  /-- Packs eight T6 byte codes into the dense 6-bit form (R183). -/
  | pk6 (f : Args)
  /-- Unpacks eight dense T6 codes into bytes (R183). -/
  | upk6 (f : Args)
  /-- Draws bits [63:0] of a sower output under the launch seed (R186). -/
  | rngLo (f : Args)
  /-- Draws bits [127:64] of a sower output (R186). -/
  | rngHi (f : Args)
  /-- Draws uniform floats in [0, 1) (R185). -/
  | rngu (f : Args)
  /-- Draws uniform floats in (0, 1] (R185). -/
  | rnguOc (f : Args)
  /-- Draws bits [63:0] of a sower output under an explicit key (R187). -/
  | rngkLo (f : Args)
  /-- Draws bits [127:64] under an explicit key (R187). -/
  | rngkHi (f : Args)
  /-- Draws uniform floats in [0, 1) under an explicit key (R187). -/
  | rngku (f : Args)
  /-- Draws uniform floats in (0, 1] under an explicit key (R187). -/
  | rngkuOc (f : Args)
  /-- Legacy table reciprocal (R188). -/
  | rcpa (f : Args)
  /-- Loads bytes per lane through the silo, caches or home slice, optionally as an acquire (R195). -/
  | ld (f : Args)
  /-- Places each active lane's data in the plot's silo, optionally as a release (R196). -/
  | st (f : Args)
  /-- Gathers n elements per lane from indexed addresses (R197). -/
  | gath (f : Args)
  /-- Scatters n elements per lane as stores (R197). -/
  | scat (f : Args)
  /-- Prefetches lines into L1 without faulting (R198). -/
  | pref (f : Args)
  /-- Phase boundary at a scope (R199). -/
  | phase (sc : BitVec 3) (f : Args)
  /-- Phase boundary followed by a checkpoint (R199). -/
  | phaseK (sc : BitVec 3) (f : Args)
  /-- Boundary and snapshot refresh at a scope without reading (R199). -/
  | fence (sc : BitVec 3) (f : Args)
  /-- Drops silo entries and dirty copies in a sector range (R200). -/
  | discard (f : Args)
  /-- Stores slice groups and their poison to the spill area (R201). -/
  | spill (f : Args)
  /-- Loads slice groups and their poison from the spill area (R201). -/
  | fill (f : Args)
  /-- Returning atomic add at the home slice (R203). -/
  | atomAddRet (f : Args)
  /-- Returning atomic minimum (R203). -/
  | atomMinRet (f : Args)
  /-- Returning atomic maximum (R203). -/
  | atomMaxRet (f : Args)
  /-- Returning atomic AND (R203). -/
  | atomAndRet (f : Args)
  /-- Returning atomic OR (R203). -/
  | atomOrRet (f : Args)
  /-- Returning atomic XOR (R203). -/
  | atomXorRet (f : Args)
  /-- Atomic exchange returning the old value (R203). -/
  | atomXchg (f : Args)
  /-- Non-returning atomic add, buffered in a determinate launch (R203). -/
  | atomAdd (f : Args)
  /-- Non-returning atomic minimum (R203). -/
  | atomMin (f : Args)
  /-- Non-returning atomic maximum (R203). -/
  | atomMax (f : Args)
  /-- Non-returning atomic AND (R203). -/
  | atomAnd (f : Args)
  /-- Non-returning atomic OR (R203). -/
  | atomOr (f : Args)
  /-- Non-returning atomic XOR (R203). -/
  | atomXor (f : Args)
  /-- Atomic compare-and-swap returning the old value (R204). -/
  | atomCas (f : Args)
  /-- Legacy rung-3 wrapping atomic increment (R205). -/
  | atomwinc (f : Args)
  /-- Waits until a word at its home slice meets a comparison, then acquires (R206). -/
  | waitv (f : Args)
  /-- Arms a watch slot with an address, value, comparison and scope (R207). -/
  | watch (f : Args)
  /-- Waits for the lowest fired watch slot in a mask, disarms it, acquires and writes its index (R207). -/
  | waitvW (f : Args)
  /-- Checks a shape-record draft and stores the record (R211). -/
  | shape (f : Args)
  /-- Checks a copy-template draft and stores it at a template entry (R211). -/
  | trec (f : Args)
  /-- Starts a memory or tile copy on a channel from a template and a source record (R212). -/
  | cpy (f : Args)
  /-- Starts a relay-chain copy on a channel (R212). -/
  | cpym (f : Args)
  /-- Issues a collective job card to the collective engine (R218). -/
  | coll (f : Args)
  /-- Issues a network write of local bytes into a remote window (R219). -/
  | nwr (f : Args)
  /-- Issues a network read of remote bytes into local memory (R219). -/
  | nrd (f : Args)
  /-- Reads a system register into an x-register (R223). -/
  | mfs (f : Args)
  /-- Waits as YIELD, ends a region and takes a precise USER trap (R224). -/
  | trap (f : Args)
  /-- Privileged resume of a trapped furrow from its trap record (R224). -/
  | tret (f : Args)
  /-- Privileged write of CRUISE, BARTO, TRAPQ or FAULTQ for later plots (R223). -/
  | mts (f : Args)
  /-- Privileged whole write of a zone's sluice entry after its checks (R350). -/
  | sluice (f : Args)
  /-- Drops translations of a virtual address for an ASID module-wide (R226). -/
  | xlinvVa (f : Args)
  /-- Drops every translation of an ASID (R226). -/
  | xlinvAsid (f : Args)
  /-- Drops every translation (R226). -/
  | xlinvAll (f : Args)
  /-- Completes when earlier invalidations have taken effect and no old translation can be used (R226). -/
  | xlsync (f : Args)
  /-- Writes a tile's control word after earlier operations on the tile (R231). -/
  | tcfg (f : Args)
  /-- Sets, confirms or, as a yoke, clears the plot's team register (R233). -/
  | team (f : Args)
  /-- Sequencer operation that clears a bin, its header and its records (R242). -/
  | bclr (f : Args)
  /-- Queues bin += A × B on the sequencer (R235). -/
  | mma (f : Args)
  /-- Queues bin += A × Bᵀ on the sequencer (R235). -/
  | mmat (f : Args)
  /-- Queues the dual product dX += dY·Wᵀ and dW += Xᵀ·dY from tiles (R239). -/
  | dmma (f : Args)
  /-- W form of DMMA that streams X or W from shape records (R258). -/
  | dmmaStreamed (f : Args)
  /-- Reads bin elements or harrow record words into lanes, with an optional step-count second destination (R243). -/
  | bget (f : Args)
  /-- Writes bin elements or record TAU and AUX from lanes, or raises BINBUSY (R243). -/
  | bset (f : Args)
  /-- Reads a tile row or its scales into lanes (R232). -/
  | tget (f : Args)
  /-- Writes a tile row or its scales from lanes (R232). -/
  | tset (f : Args)
  /-- Queues a projection of bin rows onto a set, narrowed into tiles, with harrow records and support sizes (R246). -/
  | drain (f : Args)
  /-- Queues computation of long-row statistics into the harrow records (R253). -/
  | prjsum (f : Args)
  /-- Queues the vector–Jacobian product of the drained projection into a tile (R252). -/
  | prjadj (f : Args)
  /-- Legacy rung-3 16 × 16 tile multiply emulated by the services (R255). -/
  | mma16 (f : Args)
  /-- Legacy microcoded tile transpose run on the sequencer (R255). -/
  | ttrans (f : Args)
  /-- P half `nop` (R120); `h`: half 1. -/
  | pNop (h : Bool) (g : BitVec 3)
  /-- P-frame half executing mov.n32 d, v (R120). -/
  | pMovN32 (p : PArgs)
  /-- P-frame half executing mov.n64 d, v (R120). -/
  | pMovN64 (p : PArgs)
  /-- P-frame half executing add.i32 d, d, v (R120). -/
  | pAddI32 (p : PArgs)
  /-- P-frame half executing add.i64 d, d, v (R120). -/
  | pAddI64 (p : PArgs)
  /-- P-frame half executing sub.i32 d, d, v (R120). -/
  | pSubI32 (p : PArgs)
  /-- P-frame half executing sub.i64 d, d, v (R120). -/
  | pSubI64 (p : PArgs)
  /-- P-frame half executing mul.i32 d, d, v (R120). -/
  | pMulI32 (p : PArgs)
  /-- P-frame half executing and.n64 d, d, v (R120). -/
  | pAndN64 (p : PArgs)
  /-- P-frame half executing or.n64 d, d, v (R120). -/
  | pOrN64 (p : PArgs)
  /-- P-frame half executing xor.n64 d, d, v (R120). -/
  | pXorN64 (p : PArgs)
  /-- P-frame half executing add.i32 d, d, imm (R120). -/
  | pAddI32Imm (p : PImm)
  /-- P-frame half executing shl.n32 d, d, imm (R120). -/
  | pShlN32Imm (p : PImm)
  /-- P-frame half executing shr.n32 d, d, imm (R120). -/
  | pShrN32Imm (p : PImm)
  /-- P-frame half executing sar.i32 d, d, imm (R120). -/
  | pSarI32Imm (p : PImm)
  /-- P-frame half executing add.f32 d, d, v (R120). -/
  | pAddF32 (p : PArgs)
  /-- P-frame half executing sub.f32 d, d, v (R120). -/
  | pSubF32 (p : PArgs)
  /-- P-frame half executing mul.f32 d, d, v (R120). -/
  | pMulF32 (p : PArgs)
  /-- P-frame half executing max.f32 d, d, v (R120). -/
  | pMaxF32 (p : PArgs)
  /-- P-frame half executing min.f32 d, d, v (R120). -/
  | pMinF32 (p : PArgs)
  /-- P-frame half executing mov.n8 d, v (R120). -/
  | pMovN8 (p : PArgs)
  /-- P-frame half executing mov.n16 d, v (R120). -/
  | pMovN16 (p : PArgs)
  /-- P-frame half executing add.i16 d, d, v (R120). -/
  | pAddI16 (p : PArgs)
  /-- P-frame half 0 executing add.f64 d, d, v (R120). -/
  | pAddF64 (p : PArgs)
  /-- P-frame half 0 executing mul.f64 d, d, v (R120). -/
  | pMulF64 (p : PArgs)
  /-- P-frame half 0 executing packed add.bf16 on 64-bit operands (R120). -/
  | pAddBf16 (p : PArgs)
  /-- P-frame half 0 executing packed mul.bf16 on 64-bit operands (R120). -/
  | pMulBf16 (p : PArgs)
  /-- P-frame half 0 executing packed add.f16 on 64-bit operands (R120). -/
  | pAddF16 (p : PArgs)
  /-- P-frame half 0 executing packed mul.f16 on 64-bit operands (R120). -/
  | pMulF16 (p : PArgs)
  /-- P-frame half 0 executing mov.i32 d, imm (R120). -/
  | pMovI32Imm (p : PImm)
  /-- At power-on each die boots (R336); the epoch rises (R315). -/
  | powerOn
  /-- A die returns to its reset values (R4). -/
  | dieReset
  /-- A port trains with its link partner (R311). -/
  | portLinkTrain
  /-- The first packet of an unsupported flow is refused (R311). -/
  | unsupportedFlowRefuse
  /-- SLOTSET (R316); quotas in 64 KiB pages. -/
  | slotset
  /-- JOBNEW (R318). -/
  | jobnew
  /-- JOBDEL (R316). -/
  | jobdel
  /-- LOAD (R284). -/
  | load
  /-- LAUNCH (R288). -/
  | launch
  /-- CANCEL as a command (R316, R17). -/
  | cancelCommand
  /-- PREEMPT (R316, R33). -/
  | preempt
  /-- WINOPEN (R319). -/
  | winopen
  /-- WINCLOSE (R316). -/
  | winclose
  /-- TRAPREPLY (R327): `finish` is reply 1. -/
  | trapreply
  /-- QUERY (R316). -/
  | query
  /-- QUOTE (R337). -/
  | quote
  /-- SEASON (R291). -/
  | season
  /-- UPDSVC (R338); `starts`: the new image starts. -/
  | updsvc
  /-- The old services image ends after 100 ms (R338). -/
  | updsvcOldTimeout
  /-- UPDKERN (R339). -/
  | updkern
  /-- The handover to the new kernel (R339); `accepts`: it takes the state given. -/
  | kernelSwap
  /-- RETIRE (R335). -/
  | retire
  /-- THRESH (R334); W in nanoseconds. -/
  | thresh
  /-- CLOCKCFG (R340); the interval in nanoseconds. -/
  | clockcfg
  /-- PROVISION (R315); `secret` is what the module decapsulates. -/
  | provision
  /-- ZDRAIN (R357). -/
  | zdrain
  /-- ZFILL (R357). -/
  | zfill
  /-- RECAL (R359): the reference and the current reading. -/
  | recal
  /-- Ten seconds after RECAL (R359). -/
  | recalSuspendEnd
  /-- A one-sided write into a window (R319). -/
  | hostWindowWrite
  /-- A one-sided read from a window (R319). -/
  | hostWindowRead
  /-- A PTP synchronisation (R340): the estimated offset in ns (positive: this counter is behind), and whether its estimate lies within 20 ns. -/
  | ptpSyncReceive
  /-- No time transmitter heard for 10 s (R340). -/
  | clockFreeTimeout
  /-- Three synchronisation intervals missed (R340). -/
  | clockHoldover
  /-- One second after HOLDOVER (R340). -/
  | clockReacquire
  /-- The head dispatcher sends a batch (R22, R261). -/
  | headDispatch
  /-- The die dispatcher places a plot (R22). -/
  | dieDispatchPlace
  /-- A swap between the files (R23). -/
  | furrowSwap
  /-- The shares of stages (R29). -/
  | graphRebalance
  /-- A stage instance starts (R28, R290). -/
  | stageInstanceStart
  /-- A launch ends (R16, R100). -/
  | launchEnd
  /-- A plot has left its core (R33). -/
  | preemptionSave
  /-- A saved plot is restored (R25). -/
  | plotRestore
  /-- A launch leaves a die (R25). -/
  | plotMoveDie
  /-- A datapath check failed inside a region (R37). -/
  | regionRestart
  /-- A plot rolls back (R38). -/
  | plotRollback
  /-- A rolled-back plot is relaunched (R38). -/
  | plotRelaunch
  /-- A third cruise run decides (R39): the digests and cores of the three runs. -/
  | cruiseThirdRun
  /-- A load, gather or fill returns (R51). -/
  | loadReturn
  /-- A returning atomic is answered (R203). -/
  | atomicReply
  /-- A YIELD.W wait is met (R146). -/
  | yieldWReactivate
  /-- A WAITV wait is met (R206). -/
  | waitvSatisfied
  /-- A watch slot fires (R207). -/
  | watchFire
  /-- TIMEN has reached t (R147). -/
  | waittReady
  /-- A barrier or yoke was held too long (R27, R342). -/
  | barTimeout
  /-- A queued callee furrow is granted (R139, R294). -/
  | calleeGrant
  /-- A queued continuation is granted (R140). -/
  | continuationGrant
  /-- A queued spawned furrow is granted (R143). -/
  | spawnedFurrowGrant
  /-- A walk for a waiting furrow (R322). -/
  | translationWalk
  /-- The services answered a walk request (R322). -/
  | walkRetry
  /-- A trap record that waited for room is written (R328). -/
  | trapRecordWrite
  /-- No TRAPREPLY within 5 s (R327). -/
  | trapreplyTimeout
  /-- An engine job starts (R102). -/
  | engineJobStart
  /-- An engine job writes its status and stamp (R104). -/
  | engineStampWrite
  /-- A copy is performed (R214). -/
  | copyComplete
  /-- One hop of a relay chain (R215). -/
  | relayHop
  /-- A store to bytes 0 to 7 of an aperture channel (R212). -/
  | copyApertureIndexStore
  /-- A store completing bytes 8 to 15 of an aperture channel (R212). -/
  | copyApertureStartStore
  /-- A collective is complete (R218): whether the parties agree, and each rank's source elements. -/
  | collComplete
  /-- The target side of an NWR (R219). -/
  | nwrTargetWrite
  /-- An NWR is acknowledged or refused (R219). -/
  | nwrAck
  /-- An NRD is answered or refused (R219). -/
  | nrdComplete
  /-- A lost packet is resent (R312). -/
  | transportRetransmit
  /-- The transport abandons a transfer (R312). -/
  | transportAbandon
  /-- The sequencer starts a step (R240). -/
  | sequencerStep
  /-- A step completes, or its residue check fails (R237, R241). -/
  | sequencerStepDone
  /-- A valve's timer ends (R351). -/
  | sluiceSettle
  /-- A zone samples its sensors (R353). -/
  | zoneSample
  /-- The services' next response step (R354). -/
  | sensorResponseStep
  /-- A drain-down step finishes, or times out (R358). -/
  | drainDownStep
  /-- The module's 10 ms average power (R356). -/
  | powerSample
  /-- Kernel call that allocates a zeroed frame from the slot's quota and installs the leaf (R323). -/
  | kmap
  /-- Kernel call that clears a leaf, invalidates, waits and frees the frame (R323). -/
  | kunmap
  /-- Kernel call that copies a page to a new frame, swaps the leaf and frees the old frame (R323). -/
  | kmove
  /-- Kernel call that ends a job by R326 (R323). -/
  | kend
  /-- Kernel call that sends EVTRAP or EVJOBEND to the job's slot (R323). -/
  | kevent
  /-- Kernel call that retires a unit (R323). -/
  | kretire
  /-- Writes the argument block back, performs a plot-scope boundary, ends the furrow and decrements the frame's JOIN (R140). -/
  | ret
  /-- Ends the issuing split and, for the last split, releases the furrow's resources after marking its silo entries plot-visible (R137). -/
  | exit
  /-- Ends every split of the furrow at once (R137). -/
  | endAll
  /-- Waits for pending write-backs, empties the latch window, resets the yield count and leaves for a pending cancel or pre-emption (R145). -/
  | yield
  /-- Opens an idempotent region, recording the state for a restart (R149). -/
  | region
  /-- Moves the plot's buffered reductions to staging (R199). -/
  | flushred
  /-- Hint with no effect (R127). -/
  | nop
  /-- Hint that operands will be reused; no visible effect (R127). -/
  | hreuse
  /-- Hint that the next branch is likely taken; no visible effect (R127). -/
  | hlikely
  /-- Loss of power (R315). -/
  | powerOff
  /-- The fused minimum of a slot is raised (R339). -/
  | fusedMinimumRaise
  /-- Fetching a word that names no instruction (R131). -/
  | reservedOpcode
deriving DecidableEq, Repr

end Sys2Proof
end

