-- ==== Sys2Proof/Decode.lean ====
section
/-! DEFINITION. From words to instructions and back: frames (R112 to R124), operand forms (R11, R12, R54, R56, R117),
the opcode map (R125 to R129) and the field checks of R131, order 7. -/

namespace Sys2Proof

/-! ### Formats and widths (R63, R11) -/

/-- A set of fmt codes as a 32-bit number with one bit per code. -/
def bits (l : List Nat) : Nat := l.foldr (fun k acc => acc ||| (1 <<< k)) 0

def fmtClass : Nat := 0xFFFF
def fmtIntN : Nat := 0xFFC00000
def fmtInt : Nat := fmtIntN ||| fmtClass
def fmtFlt : Nat := 0x3C0000 ||| fmtClass
def fmtAll : Nat := 0xFFFFFFFF
def fmtMem : Nat := fmtAll
def fmtW64 : Nat := bits [28, 29]
def fmtW32 : Nat := bits [26, 27]
def fmtAtom : Nat := bits [20, 21, 26, 27, 28, 29] ||| fmtClass
def fmtAtomInt : Nat := bits [26, 27, 28, 29] ||| fmtClass

/-- Bits of an element of a native fmt code (R63); 0 for a value class. -/
def fmtBits (f : BitVec 5) : Nat :=
  match f.toNat with
  | 16 => 6 | 17 => 8 | 18 => 16 | 19 => 16 | 20 => 32 | 21 => 64
  | 22 => 8 | 23 => 8 | 24 => 16 | 25 => 16 | 26 => 32 | 27 => 32 | 28 => 64 | 29 => 64 | 30 => 4 | 31 => 4
  | _ => 0

/-- Whether a fmt code is an integer type (R63). -/
def fmtIsInt (f : BitVec 5) : Bool := decide (22 ≤ f.toNat)
/-- Whether an integer fmt code is signed (R63: the even codes). -/
def fmtSigned (f : BitVec 5) : Bool := f.getLsbD 0 == false
/-- Whether a fmt code names a value class (R63). -/
def fmtIsClass (f : BitVec 5) : Bool := decide (f.toNat < 16)

/-- Bits of a slice operand by its width code (R11). -/
def codeBits (w : BitVec 3) : Nat :=
  match w.toNat with
  | 0 => 4 | 1 => 8 | 2 => 12 | 3 => 16 | 4 => 24 | 5 => 32 | 6 => 48 | _ => 64

/-- The width of an operand where its own form fixes one: slices (R11) and x-register elements (R56). -/
def Operand.width : Operand → Option Nat
  | .slice _ w => some (codeBits w)
  | .xreg _ sz _ => some (64 >>> sz.toNat)
  | _ => Option.none

/-- The width of a slice operand. -/
def Operand.sliceWidth : Operand → Option Nat
  | .slice _ w => some (codeBits w)
  | _ => Option.none

/-! ### Operand fields -/

/-- The operand forms that a slot of an instruction accepts. -/
structure Slot where
  none      : Bool := false
  slice     : Bool := false
  /-- width codes accepted for slices, one bit per code -/
  widths    : Nat := 0xFF
  latch     : Bool := false
  latchOnly : Bool := false
  imm       : Bool := false
  xreg      : Bool := false
  /-- x-registers narrower than 64 bits accepted -/
  elems     : Bool := false
  /-- the x-register is read (R57 counts it) -/
  isSource  : Bool := true
  special   : Bool := false
  mask      : Bool := false
  /-- `m0` not accepted (R55) -/
  noM0      : Bool := false
  /-- a raw field whose bits lie in this set (R132, R212, R227) -/
  raw       : Option Field := Option.none

namespace Slot
def empty : Slot := { none := true }
def src : Slot := { slice := true, latch := true, imm := true, xreg := true, elems := true, special := true, mask := true }
def dst : Slot := { slice := true, latchOnly := true, xreg := true, isSource := false }
/-- A destination that is read as well. `l0`, which supplies nothing to read, is not accepted (log entry 75). -/
def dstRW : Slot := { slice := true, xreg := true, isSource := true }
def dst64 : Slot := { dst with widths := 0x80 }
def dst48 : Slot := { dst with widths := 0x40 }
def dst32 : Slot := { dst with widths := 0x20 }
def dst64s : Slot := { slice := true, widths := 0x80, latchOnly := true }
def fsrc : Slot := { slice := true, latch := true, imm := true, xreg := true, elems := true, special := true, mask := true }
def vec : Slot := fsrc
def vec64 : Slot := { slice := true, widths := 0x80, latch := true, imm := true, xreg := true, special := true, mask := true }
def vec48 : Slot := { vec64 with widths := 0x40 }
def vec32 : Slot := { slice := true, widths := 0x20, latch := true, imm := true, xreg := true, elems := true, special := true, mask := true }
def optVec : Slot := { vec with none := true }
def optSrc : Slot := { fsrc with none := true }
def maskS : Slot := { mask := true }
def maskD : Slot := { mask := true, noM0 := true }
def x : Slot := { xreg := true }
def xe : Slot := { xreg := true, elems := true }
def xd : Slot := { xreg := true, isSource := false }
def xOrNone : Slot := { xreg := true, none := true }
def xdOrNone : Slot := { xreg := true, none := true, isSource := false }
def s64 : Slot := { slice := true, widths := 0x80 }
def s64OrNone : Slot := { slice := true, widths := 0x80, none := true }
def xOrS64 : Slot := { slice := true, widths := 0x80, xreg := true }
def imm' : Slot := { imm := true }
def immOrX : Slot := { imm := true, xreg := true }
def immOrXe : Slot := { imm := true, xreg := true, elems := true }
def immOrSlice : Slot := { imm := true, slice := true }
def immOrS16 : Slot := { imm := true, slice := true, widths := 0x08 }
def base : Slot := { slice := true, widths := 0x80, latch := true, xreg := true }
def offs : Slot := { none := true, slice := true, widths := 0xAA, latch := true, imm := true, xreg := true, elems := true }
def index : Slot := { slice := true, latch := true, xreg := true, elems := true }
def value : Slot := { imm := true, slice := true, widths := 0x80, xreg := true }
def stream : Slot := { imm := true, slice := true, widths := 0x80, xreg := true }
def data64 : Slot := { slice := true, widths := 0x80, latch := true }
def group : Slot := { slice := true, widths := 0x80 }
def off14 : Slot := { raw := some 0x3FFF }
def rawM (m : Field) : Slot := { raw := some m }
def tileOrX : Slot := { raw := some 0xF, xreg := true }

/-- Whether the slot accepts an operand. -/
def admits (s : Slot) : Operand → Bool
  | .none => s.none
  | .slice st w => s.slice && s.widths.testBit w.toNat && (!s.none || st != 0 || w != 0)
  | .latch _ => s.latch
  | .latchOnly => s.latchOnly
  | .imm _ => s.imm
  | .xreg _ sz el => s.xreg && (s.elems || sz == 0) && decide (el.toNat < 1 <<< sz.toNat)
  | .mask k => (s.mask || s.special) && (!s.noM0 || k != 0)
  | .lane => s.special
  | .gw => s.special
  | .plotid => s.special
  | .furrow => s.special
  | .raw v => match s.raw with | some m => v &&& ~~~m == 0 | Option.none => false

/-- The operand that a field holds in this slot (R11, R12, R54, R56, R117); `none` where no form fits. -/
def parse (s : Slot) (v : Field) : Option Operand :=
  if s.raw.isSome && (v &&& ~~~(s.raw.getD 0) == 0) then some (.raw v)
  else if s.none && v == 0 then some .none
  else if v.getLsbD 13 == false then some (.slice (v.extractLsb' 3 10) (v.extractLsb' 0 3))
  else
    match (v.extractLsb' 11 2).toNat with
    | 0 =>
      if s.latchOnly then (if v.extractLsb' 0 11 == 0 then some .latchOnly else Option.none)
      else if v.extractLsb' 3 8 == 0 then some (.latch (v.extractLsb' 0 3)) else Option.none
    | 1 => some (.xreg (v.extractLsb' 5 6) (v.extractLsb' 3 2) (v.extractLsb' 0 3))
    | 2 => some (.imm (v.extractLsb' 0 11))
    | _ =>
      if v.extractLsb' 4 4 != 0 then Option.none
      else match (v.extractLsb' 8 3).toNat with
        | 0 => some (.mask (v.extractLsb' 0 4))
        | 1 => if v.extractLsb' 0 4 == 0 then some .lane else Option.none
        | 2 => if v.extractLsb' 0 4 == 0 then some .gw else Option.none
        | 3 => if v.extractLsb' 0 4 == 0 then some .plotid else Option.none
        | 4 => if v.extractLsb' 0 4 == 0 then some .furrow else Option.none
        | _ => Option.none

end Slot

/-- The 14-bit field of an operand (R11, R12, R54, R56, R117). -/
def Operand.field : Operand → Field
  | .none => 0
  | .slice st w => (0#1 ++ st ++ w : BitVec 14)
  | .latch k => (0b100#3 ++ 0#8 ++ k : BitVec 14)
  | .latchOnly => 0x2000
  | .imm v => (0b110#3 ++ v : BitVec 14)
  | .xreg i sz el => (0b101#3 ++ i ++ sz ++ el : BitVec 14)
  | .mask k => (0b111#3 ++ 0#3 ++ 0#4 ++ k : BitVec 14)
  | .lane => 0x3900
  | .gw => 0x3A00
  | .plotid => 0x3B00
  | .furrow => 0x3C00
  | .raw v => v

/-! ### What one opcode accepts -/

/-- The SCOPE values an entry accepts in its W form. -/
inductive ScopeRule
  | zero      -- 0 only
  | withOrd   -- 0 when plain, 0 to 4 with an acquire or a release (R194)
  | any       -- 0 to 4 (R202)
  | wide24    -- 2 to 4 (R146, R206)
  | module    -- 0, or 3, the entry's own scope (R205; log entry 76)

/-- The field rules of one opcode (R121, R122, R131 order 7). -/
structure OpSpec where
  a : Slot := .empty
  b : Slot := .empty
  c : Slot := .empty
  d : Slot := .empty
  e : Slot := .empty
  wideOnly : Bool := false
  guard0   : Bool := false
  fmt      : Nat := 1
  f1       : Nat := 1
  sExt     : Bool := false
  wExt     : Bool := false
  rnd      : Nat := 1
  /-- E is the nonce when RND is SR (R169) -/
  nonce    : Bool := false
  ords     : Nat := 1
  scope    : ScopeRule := .zero
  xmods    : Nat := 1
  g1       : Bool := false
  ua       : Bool := false
  lu       : Bool := false
  extra    : Args → Bool := fun _ => true

/-- The slot of operand E: the nonce of R169, where the entry has one. -/
def OpSpec.slotE (s : OpSpec) (f : Args) : Slot :=
  if s.nonce then (if f.rnd == 5 then { Slot.src with none := true } else .empty) else s.e

def ScopeRule.ok : ScopeRule → Args → Bool
  | .zero, f => f.scope == 0
  | .withOrd, f => if f.ord == 0 then f.scope == 0 else decide (f.scope.toNat ≤ 4)
  | .any, f => decide (f.scope.toNat ≤ 4)
  | .wide24, f => decide (2 ≤ f.scope.toNat ∧ f.scope.toNat ≤ 4)
  | .module, f => f.scope == 0 || f.scope == 3

/-- The x-register an operand in a slot reads. -/
def readsX (s : Slot) : Operand → Option (BitVec 6)
  | .xreg i _ _ => if s.isSource then some i else Option.none
  | _ => Option.none

/-- At most one x-register among the sources (R57). -/
def oneX (s : OpSpec) (f : Args) : Bool :=
  let l := [readsX s.a f.a, readsX s.b f.b, readsX s.c f.c, readsX s.d f.d, readsX (s.slotE f) f.e].filterMap id
  match l with
  | [] => true
  | i :: rest => rest.all (· == i)

/-- An S frame has none of the W-only fields. -/
def Args.sFrame (f : Args) : Bool :=
  f.d == .none && f.e == .none && f.g1 == 0 && f.f1 == 0 && f.cache == 0 && f.delay == 0 && f.rnd == 0
    && f.scope == 0 && f.ord == 0 && !f.ua && !f.lu && f.xmod == 0

/-- The field checks of one opcode (R131, order 7). -/
def OpSpec.ok (s : OpSpec) (f : Args) : Bool :=
  s.a.admits f.a && s.b.admits f.b && s.c.admits f.c
    && (!s.guard0 || f.guard == 0)
    && s.fmt.testBit f.fmt.toNat
    && oneX s f && s.extra f
    && (if f.wide then
          s.d.admits f.d && (s.slotE f).admits f.e
            && (s.wExt || !f.ext)
            && s.f1.testBit f.f1.toNat && s.rnd.testBit f.rnd.toNat
            && s.ords.testBit f.ord.toNat && s.scope.ok f && s.xmods.testBit f.xmod.toNat
            && (s.g1 || f.g1 == 0) && (s.ua || !f.ua) && (s.lu || !f.lu)
        else f.sFrame && !s.wideOnly && (s.sExt || !f.ext))

/-! ### Checks of single entries -/

/-- A signed immediate (R12). -/
def immInt (v : BitVec 11) : Int := v.toInt

/-- An immediate operand lies in a range; other forms are checked at execution. -/
def immIn (lo hi : Int) : Operand → Bool
  | .imm v => decide (lo ≤ immInt v ∧ immInt v ≤ hi)
  | _ => true

/-- The first width that slice operands of a list fix. -/
def firstWidth (l : List Operand) : Option Nat := (l.filterMap Operand.sliceWidth).head?

/-- Slices all have width `w`; an x-register element is at least as wide (R167). -/
def widthsAgree (w : Nat) (l : List Operand) : Bool :=
  l.all fun o => match o with
    | .slice _ c => codeBits c == w
    | .xreg _ sz _ => decide (w ≤ 64 >>> sz.toNat)
    | _ => true

/-- The width W of a float entry of element width `e` (R167); one element where no operand is slices, for which R167 gives no
count (the model's choice, log entry 81). -/
def fltW (e : Nat) (l : List Operand) : Nat := (firstWidth l).getD e

/-- W is a whole multiple of the element width that R167 lists. -/
def fltWidthOk (e w : Nat) : Bool := decide (e ∣ w ∧ w ≤ 64 ∧ e ≤ w)

/-- R167 for a native format; a value class is checked when it issues. -/
def fltOk (f : Args) : Bool :=
  let e := fmtBits f.fmt
  fmtIsClass f.fmt ||
    (let l := [f.a, f.b, f.c, f.d]
     fltWidthOk e (fltW e l) && widthsAgree (fltW e l) [f.a, f.b, f.c, f.d])

/-- R173: B and C carry one element each. -/
def fltOk1 (f : Args) : Bool :=
  fmtIsClass f.fmt || widthsAgree (fmtBits f.fmt) [f.b, f.c]

/-- R174: B carries one element. -/
def fltOk1B (f : Args) : Bool :=
  fmtIsClass f.fmt || widthsAgree (fmtBits f.fmt) [f.b]

/-- R163 and R182: A, B and C share a width that is a multiple of `e`. Where none of them is slices the width is 64 bits, which
the spec does not say, so that a narrower x-register element is refused (the model's choice, log entry 81). -/
def sameVec (f : Args) (e : Nat) : Bool :=
  let w := (firstWidth [f.a, f.b, f.c]).getD 64
  decide (e ∣ w) && decide (e ≤ w) &&
    [f.a, f.b, f.c].all fun o => match o.width with | some k => k == w | Option.none => true

/-- R182: the interleaves' common width, with an even count of elements. -/
def zipOk (f : Args) : Bool :=
  let w := (firstWidth [f.a, f.b, f.c]).getD 64
  sameVec f (fmtBits f.fmt) && decide (2 ∣ w / fmtBits f.fmt) && decide (2 ≤ w / fmtBits f.fmt)

/-- The element count of a conversion side of width `w` (R48, R178); `none` where the width does not fit. -/
def convCount (f : BitVec 5) (w : Nat) : Option Nat :=
  if f == 16 then
    match w with
    | 8 => some 1 | 12 => some 2 | 24 => some 4 | 48 => some 8 | 64 => some 10 | _ => Option.none
  else if fmtBits f = 0 then Option.none
  else if w % fmtBits f = 0 ∧ 0 < w then some (w / fmtBits f) else Option.none

/-- The width of `n` elements of a format (R178). -/
def convWidth (f : BitVec 5) (n : Nat) : Nat :=
  if f == 16 then (if n = 1 then 8 else if n = 10 then 64 else 6 * n) else fmtBits f * n

/-- Counts that a conversion side can hold: T6 packs 1, 2, 4, 8 or 10 elements (R48). -/
def convFits (f : BitVec 5) (n : Nat) : Bool := f != 16 || [1, 2, 4, 8, 10].contains n

/-- Whether a shape suits both sides (R48, R178). -/
def shapeFits (d s : BitVec 5) (x : Nat × Nat × Nat) : Option (Nat × Nat × Nat) :=
  if convFits d x.1 && convFits s x.1 then some x else Option.none

/-- The element count and widths of a conversion from `s` to `d` by the widths that its sides give (R178). Where one side
gives no width of its own, it takes the width of the other side's count; where neither does, there is one element. -/
def convShapeOf (d s : BitVec 5) (a b : Operand) : Option (Nat × Nat × Nat) :=
  match a.sliceWidth, b.width with
  | some wa, some wb =>
    match convCount d wa, convCount s wb with
    | some n, some m => if n = m then some (n, wa, wb) else if b.sliceWidth = Option.none ∧ convWidth s n ≤ wb then some (n, wa, convWidth s n) else Option.none
    | some n, Option.none => if b.sliceWidth = Option.none ∧ convWidth s n ≤ wb then some (n, wa, convWidth s n) else Option.none
    | _, _ => Option.none
  | some wa, Option.none =>
    match convCount d wa with
    | some n => if convWidth s n ≤ 64 then some (n, wa, convWidth s n) else Option.none
    | Option.none => Option.none
  | Option.none, some wb =>
    match convCount s wb with
    | some n => if convWidth d n ≤ 64 then some (n, convWidth d n, wb) else Option.none
    | Option.none => Option.none
  | Option.none, Option.none => some (1, convWidth d 1, convWidth s 1)

/-- The element count and widths of a conversion, where R178 and R48 have one. -/
def convShape (d s : BitVec 5) (a b : Operand) : Option (Nat × Nat × Nat) := (convShapeOf d s a b).bind (shapeFits d s)

def cvtOk (s : BitVec 5) (f : Args) : Bool :=
  fmtIsClass f.fmt || fmtIsClass s || (convShape f.fmt s f.a f.b).isSome

/-- A format that block scales apply to (R78). -/
def fmtScalable (f : BitVec 5) : Bool := decide (16 ≤ f.toNat ∧ f.toNat ≤ 19)

/-- R180's decode checks. A scale operand whose field is `0x0000` is `s0:4` (R11). -/
def cvtxOk (f : Args) : Bool :=
  let clampOn := f.xmod.getLsbD 0
  let sc := f.xmod.extractLsb' 1 2
  (clampOn == (f.c != .none)) && (sc != 0 || f.d == .none) && sc != 3
    && (!clampOn || fmtIsClass f.fmt || !(fmtIsInt f.fmt))
    && (sc != 1 || fmtIsClass f.f1 || fmtScalable f.f1)
    && (sc != 2 || fmtIsClass f.fmt || fmtScalable f.fmt)
    && widthsAgree 32 [f.c]
    && cvtOk f.f1 f

/-- R181: M and C are read as FP32. -/
def eselOk (f : Args) : Bool := widthsAgree 32 [f.b, f.c]

/-- R184: `.adv` needs a 64-bit slice counter; a float result follows R167. -/
def rngOk (f : Args) : Bool :=
  (!f.ext || f.c.sliceWidth.isSome)
    && (fmtIsInt f.fmt || fmtIsClass f.fmt ||
        fltWidthOk (fmtBits f.fmt) (fltW (fmtBits f.fmt) [f.a]))

/-- R187. -/
def rngkOk (f : Args) : Bool :=
  rngOk f && (if f.xmod.toNat < 2 then fmtW64.testBit f.fmt.toNat else fmtFlt.testBit f.fmt.toNat)

/-- The access size in bits of a load or store (R191). -/
def accessBits (f : Args) (o : Operand) : Nat := (o.sliceWidth).getD (fmtBits f.fmt)

/-- R191: the access size is 8, 16, 32 or 64 bits and a multiple of the element width; T6 only 64. -/
def sizeOk (fm : BitVec 5) (w : Nat) : Bool :=
  (w == 8 || w == 16 || w == 32 || w == 64) &&
    (if fm == 16 then w == 64 else decide (0 < fmtBits fm) && decide (fmtBits fm ∣ w))

def memOk (f : Args) : Bool := fmtIsClass f.fmt || sizeOk f.fmt (accessBits f f.a)

/-- Element count and index width of a gather or scatter (R197). A data operand that is no slices carries one element of width
`e`, which R197 does not say (the model's choice, log entry 81). -/
def gathShape (e : Nat) (a c : Operand) : Option (Nat × Nat) :=
  let w := (a.sliceWidth).getD e
  if !(e == 8 || e == 16 || e == 32 || e == 64) || w % e != 0 || w == 0 then Option.none
  else
    let n := w / e
    let ei := (c.width.getD (64 / n * n)) / n
    if (c.width.getD (64 / n * n)) % n == 0 && (ei == 8 || ei == 16 || ei == 32 || ei == 64) then some (n, ei) else Option.none

def gathOk (f : Args) : Bool := fmtIsClass f.fmt || (gathShape (fmtBits f.fmt) f.a f.c).isSome

/-- R201: the first group starts at a multiple of 16 slices. -/
def groupOk : Operand → Bool
  | .slice st _ => st.toNat % 16 == 0
  | _ => false

/-- R202: a float operand has exactly the format's width (R47); RND belongs to the float add. An immediate, a mask or a special
source has no such width, and the model refuses it (the model's choice, log entry 83). -/
def atomOk (f : Args) : Bool :=
  fmtIsClass f.fmt ||
    (if fmtIsInt f.fmt then f.rnd == 0
     else [f.c, f.d].all fun o => match o with
       | .imm _ => false | .mask _ => false | .lane => false | .gw => false | .plotid => false | .furrow => false
       | .slice _ w => codeBits w == fmtBits f.fmt
       | .xreg _ sz _ => 64 >>> sz.toNat == fmtBits f.fmt
       | _ => true)

/-- A matrix operand is an x-register exactly when XMOD says it is streamed (R236). -/
def streamAgrees (bit : Bool) : Operand → Bool
  | .xreg _ _ _ => bit
  | .raw _ => !bit
  | _ => false

def mmaOk (f : Args) : Bool :=
  streamAgrees (f.xmod.getLsbD 0) f.b && streamAgrees (f.xmod.getLsbD 1) f.c && (f.wide || f.f1 == 0)
def dmmaOk (f : Args) : Bool :=
  streamAgrees (f.xmod.getLsbD 0) f.d && streamAgrees (f.xmod.getLsbD 1) f.e

/-- The raw bits of a raw operand. -/
def Operand.rawBits : Operand → Field
  | .raw v => v
  | _ => 0

/-- R245: selectors 0 to 5; BOX needs the W form's parameters; given mode belongs to SIMPLEX, BALL2 and ENT. -/
def drainOk (f : Args) : Bool :=
  let sel := (f.c.rawBits.extractLsb' 0 3).toNat
  decide (sel ≤ 5) && (sel != 3 || (f.wide && f.d != .none))
    && (f.xmod == 0 || sel == 1 || sel == 2 || sel == 5) && (f.e != .none || f.g1 == 0)

/-- R253: modes 0 to 4. -/
def prjsumOk (f : Args) : Bool := decide ((f.c.rawBits.extractLsb' 0 3).toNat ≤ 4)

/-! ### Opcodes that name several instructions -/

/-- `TRAP k` names the kernel call with its number (R323). -/
def mkTrap (f : Args) : Instr :=
  match f.c with
  | .imm v =>
    if v == 512 then .kmap else if v == 513 then .kunmap else if v == 514 then .kmove
    else if v == 515 then .kend else if v == 516 then .kevent else if v == 517 then .kretire else .trap f
  | _ => .trap f

/-- XMOD [1:0] of `RNGK` names its result (R187). -/
def mkRngk (f : Args) : Instr :=
  if f.xmod == 0 then .rngkLo f else if f.xmod == 1 then .rngkHi f else if f.xmod == 2 then .rngku f else .rngkuOc f

/-! ### The field rules, entry by entry (files 07 to 10) -/

def spec_br : OpSpec := { a := .off14, b := .empty }
def spec_brall : OpSpec := { a := .off14, b := .maskS }
def spec_brany : OpSpec := { a := .off14, b := .maskS }
def spec_brnone : OpSpec := { a := .off14, b := .maskS }
def spec_brd : OpSpec := { a := .off14, b := .maskS }
def spec_brdec : OpSpec := { a := .off14, b := .x }
def spec_jmp : OpSpec := { b := .x }
def spec_jmpd : OpSpec := { b := .s64 }
def spec_call : OpSpec := { a := .off14, b := .x }
def spec_calli : OpSpec := { a := .off14, b := .s64 }
def spec_calliBudget : OpSpec := { a := .off14, b := .s64, d := .imm', wideOnly := true, extra := fun f => immIn 1 16 f.d }
def spec_ret : OpSpec := {}
def spec_spawn : OpSpec := { a := .off14, c := .imm', extra := fun f => immIn 0 31 f.c }
def spec_exit : OpSpec := {}
def spec_endAll : OpSpec := {}
def spec_yield : OpSpec := {}
def spec_yieldW : OpSpec := { a := .off14, b := .x, c := .imm', scope := .wide24 }
def spec_yieldWWide : OpSpec := { a := .off14, b := .x, c := .s64, wideOnly := true, scope := .wide24, xmods := 0b11 }
def spec_waitt : OpSpec := { b := .xOrS64 }
def spec_waittD : OpSpec := { a := .s64, b := .xOrS64, c := .s64, wideOnly := true }
def spec_bar : OpSpec := { b := .xOrNone, c := .imm', extra := fun f => immIn 0 7 f.c }
def spec_region : OpSpec := {}
def spec_cancel : OpSpec := { b := .x, c := .imm', extra := fun f => immIn 0 3 f.c }
def spec_addInt : OpSpec := { a := .dst, b := .src, c := .src, fmt := fmtInt, sExt := true, wExt := true }
def spec_subInt : OpSpec := { a := .dst, b := .src, c := .src, fmt := fmtInt, sExt := true, wExt := true }
def spec_mulInt : OpSpec := { a := .dst, b := .src, c := .src, fmt := fmtInt, sExt := true, wExt := true }
def spec_mulh : OpSpec := { a := .dst, b := .src, c := .src, fmt := fmtInt, sExt := true, wExt := true }
def spec_minInt : OpSpec := { a := .dst, b := .src, c := .src, fmt := fmtInt, sExt := true, wExt := true }
def spec_maxInt : OpSpec := { a := .dst, b := .src, c := .src, fmt := fmtInt, sExt := true, wExt := true }
def spec_absInt : OpSpec := { a := .dst, b := .src, c := .empty, fmt := fmtInt, sExt := true, wExt := true }
def spec_negInt : OpSpec := { a := .dst, b := .src, c := .empty, fmt := fmtInt, sExt := true, wExt := true }
def spec_adds : OpSpec := { a := .dst, b := .src, c := .src, fmt := fmtInt, sExt := true, wExt := true }
def spec_subs : OpSpec := { a := .dst, b := .src, c := .src, fmt := fmtInt, sExt := true, wExt := true }
def spec_muls : OpSpec := { a := .dst, b := .src, c := .src, fmt := fmtInt, sExt := true, wExt := true }
def spec_and : OpSpec := { a := .dst, b := .src, c := .src, fmt := fmtInt, sExt := true, wExt := true }
def spec_or : OpSpec := { a := .dst, b := .src, c := .src, fmt := fmtInt, sExt := true, wExt := true }
def spec_xor : OpSpec := { a := .dst, b := .src, c := .src, fmt := fmtInt, sExt := true, wExt := true }
def spec_andn : OpSpec := { a := .dst, b := .src, c := .src, fmt := fmtInt, sExt := true, wExt := true }
def spec_not : OpSpec := { a := .dst, b := .src, c := .empty, fmt := fmtInt, sExt := true, wExt := true }
def spec_shl : OpSpec := { a := .dst, b := .src, c := .src, fmt := fmtInt, sExt := true, wExt := true }
def spec_shr : OpSpec := { a := .dst, b := .src, c := .src, fmt := fmtInt, sExt := true, wExt := true }
def spec_sar : OpSpec := { a := .dst, b := .src, c := .src, fmt := fmtInt, sExt := true, wExt := true }
def spec_rotl : OpSpec := { a := .dst, b := .src, c := .src, fmt := fmtInt, sExt := true, wExt := true }
def spec_rotr : OpSpec := { a := .dst, b := .src, c := .src, fmt := fmtInt, sExt := true, wExt := true }
def spec_popc : OpSpec := { a := .dst, b := .src, c := .empty, fmt := fmtInt, sExt := true, wExt := true }
def spec_clz : OpSpec := { a := .dst, b := .src, c := .empty, fmt := fmtInt, sExt := true, wExt := true }
def spec_ctz : OpSpec := { a := .dst, b := .src, c := .empty, fmt := fmtInt, sExt := true, wExt := true }
def spec_mov : OpSpec := { a := .dst, b := .src, fmt := fmtInt, sExt := true, wExt := true }
def spec_ext : OpSpec := { a := .dst, b := .src, c := .src, fmt := fmtInt, sExt := true, wExt := true }
def spec_ins : OpSpec := { a := .dstRW, b := .src, c := .src, fmt := fmtInt, sExt := true, wExt := true }
def spec_mad : OpSpec := { a := .dst, b := .src, c := .src, d := .src, wideOnly := true, fmt := fmtInt, sExt := true, wExt := true }
def spec_bfx : OpSpec := { a := .dst, b := .src, c := .src, d := .src, wideOnly := true, fmt := fmtInt, sExt := true, wExt := true }
def spec_sel : OpSpec := { a := .dst, b := .src, c := .src, d := .maskS, wideOnly := true, fmt := fmtInt, sExt := true, wExt := true }
def spec_bfi : OpSpec := { a := .dstRW, b := .src, c := .src, d := .src, wideOnly := true, fmt := fmtInt, sExt := true, wExt := true }
def spec_cmpEqInt : OpSpec := { a := .maskD, b := .src, c := .src, fmt := fmtInt, sExt := true, wExt := true }
def spec_cmpNeInt : OpSpec := { a := .maskD, b := .src, c := .src, fmt := fmtInt, sExt := true, wExt := true }
def spec_cmpLtInt : OpSpec := { a := .maskD, b := .src, c := .src, fmt := fmtInt, sExt := true, wExt := true }
def spec_cmpLeInt : OpSpec := { a := .maskD, b := .src, c := .src, fmt := fmtInt, sExt := true, wExt := true }
def spec_cmpGtInt : OpSpec := { a := .maskD, b := .src, c := .src, fmt := fmtInt, sExt := true, wExt := true }
def spec_cmpGeInt : OpSpec := { a := .maskD, b := .src, c := .src, fmt := fmtInt, sExt := true, wExt := true }
def spec_ixa : OpSpec := { a := .dst, b := .src, c := .src, fmt := fmtInt, sExt := true, wExt := true }
def spec_xadd : OpSpec := { a := .xd, b := .xe, c := .immOrXe, fmt := fmtW64, sExt := true, wExt := true }
def spec_xsub : OpSpec := { a := .xd, b := .xe, c := .immOrXe, fmt := fmtW64, sExt := true, wExt := true }
def spec_xmul : OpSpec := { a := .xd, b := .xe, c := .immOrXe, fmt := fmtW64, sExt := true, wExt := true }
def spec_xand : OpSpec := { a := .xd, b := .xe, c := .immOrXe, fmt := fmtW64, sExt := true, wExt := true }
def spec_xior : OpSpec := { a := .xd, b := .xe, c := .immOrXe, fmt := fmtW64, sExt := true, wExt := true }
def spec_xshl : OpSpec := { a := .xd, b := .xe, c := .immOrXe, fmt := fmtW64, sExt := true, wExt := true }
def spec_xshr : OpSpec := { a := .xd, b := .xe, c := .immOrXe, fmt := fmtW64, sExt := true, wExt := true }
def spec_xmov : OpSpec := { a := .xd, b := .immOrXe, fmt := fmtW64, sExt := true, wExt := true }
def spec_lea : OpSpec := { a := .dst, b := .src, c := .src, fmt := fmtW64, sExt := true, wExt := true }
def spec_mulhi : OpSpec := { a := .dst, b := .src, c := .src, fmt := fmtW32, sExt := true, wExt := true }
def spec_brev : OpSpec := { a := .dst, b := .src, fmt := fmtInt, sExt := true, wExt := true }
def spec_divInt : OpSpec := { a := .dst, b := .src, c := .src, fmt := fmtInt, sExt := true, wExt := true }
def spec_mand : OpSpec := { a := .maskD, b := .maskS, c := .maskS, guard0 := true }
def spec_mor : OpSpec := { a := .maskD, b := .maskS, c := .maskS, guard0 := true }
def spec_mxor : OpSpec := { a := .maskD, b := .maskS, c := .maskS, guard0 := true }
def spec_mandn : OpSpec := { a := .maskD, b := .maskS, c := .maskS, guard0 := true }
def spec_mnot : OpSpec := { a := .maskD, b := .maskS, c := .empty, guard0 := true }
def spec_mmov : OpSpec := { a := .maskD, b := .maskS, c := .empty, guard0 := true }
def spec_mset : OpSpec := { a := .maskD, b := .immOrXe, guard0 := true }
def spec_mget : OpSpec := { a := .xd, b := .maskS, guard0 := true }
def spec_mpopc : OpSpec := { a := .dst, b := .maskS, fmt := fmtIntN }
def spec_mffs : OpSpec := { a := .dst, b := .maskS, fmt := fmtIntN }
def spec_shflIdx : OpSpec := { a := .dst, b := .src, c := .src, fmt := fmtIntN }
def spec_shflUp : OpSpec := { a := .dst, b := .src, c := .imm', fmt := fmtIntN, extra := fun f => immIn 0 31 f.c }
def spec_shflDown : OpSpec := { a := .dst, b := .src, c := .imm', fmt := fmtIntN, extra := fun f => immIn 0 31 f.c }
def spec_shflXor : OpSpec := { a := .dst, b := .src, c := .imm', fmt := fmtIntN, extra := fun f => immIn 0 31 f.c }
def spec_shfe : OpSpec := { a := .dst, b := .vec, c := .vec, fmt := bits [22,23,24,25,26,27], extra := fun f => sameVec f (fmtBits f.fmt) }
def spec_permB : OpSpec := { a := .dst64, b := .vec64, c := .vec64, fmt := bits [29] }
def spec_permN : OpSpec := { a := .dst64, b := .vec64, c := .vec64, fmt := bits [29] }
def spec_lut : OpSpec := { a := .dst64, b := .vec64, c := .x, wideOnly := true, fmt := bits [31] }
def spec_reduceAdd : OpSpec := { a := .dst, b := .src, fmt := fmtIntN ||| fmtFlt, rnd := 0b111111, extra := fun f => f.rnd == 0 || !(fmtIsInt f.fmt) }
def spec_scanAdd : OpSpec := { a := .dst, b := .src, fmt := fmtIntN ||| fmtFlt, rnd := 0b111111, extra := fun f => f.rnd == 0 || !(fmtIsInt f.fmt) }
def spec_reduceMin : OpSpec := { a := .dst, b := .src, fmt := fmtIntN ||| fmtFlt }
def spec_scanMin : OpSpec := { a := .dst, b := .src, fmt := fmtIntN ||| fmtFlt }
def spec_reduceMax : OpSpec := { a := .dst, b := .src, fmt := fmtIntN ||| fmtFlt }
def spec_scanMax : OpSpec := { a := .dst, b := .src, fmt := fmtIntN ||| fmtFlt }
def spec_reduceAnd : OpSpec := { a := .dst, b := .src, fmt := fmtIntN }
def spec_scanAnd : OpSpec := { a := .dst, b := .src, fmt := fmtIntN }
def spec_reduceOr : OpSpec := { a := .dst, b := .src, fmt := fmtIntN }
def spec_scanOr : OpSpec := { a := .dst, b := .src, fmt := fmtIntN }
def spec_reduceXor : OpSpec := { a := .dst, b := .src, fmt := fmtIntN }
def spec_scanXor : OpSpec := { a := .dst, b := .src, fmt := fmtIntN }
def spec_compact : OpSpec := { a := .dst, b := .src, c := .maskS, fmt := fmtIntN }
def spec_addFloat : OpSpec := { a := .dst, b := .fsrc, c := .fsrc, fmt := fmtFlt, rnd := 0b111111, nonce := true, extra := fltOk }
def spec_subFloat : OpSpec := { a := .dst, b := .fsrc, c := .fsrc, fmt := fmtFlt, rnd := 0b111111, nonce := true, extra := fltOk }
def spec_mulFloat : OpSpec := { a := .dst, b := .fsrc, c := .fsrc, fmt := fmtFlt, rnd := 0b111111, nonce := true, extra := fltOk }
def spec_minFloat : OpSpec := { a := .dst, b := .fsrc, c := .fsrc, fmt := fmtFlt, extra := fltOk }
def spec_maxFloat : OpSpec := { a := .dst, b := .fsrc, c := .fsrc, fmt := fmtFlt, extra := fltOk }
def spec_minp : OpSpec := { a := .dst, b := .fsrc, c := .fsrc, fmt := fmtFlt, extra := fltOk }
def spec_maxp : OpSpec := { a := .dst, b := .fsrc, c := .fsrc, fmt := fmtFlt, extra := fltOk }
def spec_absFloat : OpSpec := { a := .dst, b := .fsrc, c := .empty, fmt := fmtFlt, extra := fltOk }
def spec_negFloat : OpSpec := { a := .dst, b := .fsrc, c := .empty, fmt := fmtFlt, extra := fltOk }
def spec_sgn : OpSpec := { a := .dst, b := .fsrc, c := .fsrc, fmt := fmtFlt, extra := fltOk }
def spec_rint : OpSpec := { a := .dst, b := .fsrc, c := .empty, fmt := fmtFlt, rnd := 0b111111, nonce := true, extra := fltOk }
def spec_fma : OpSpec := { a := .dst, b := .fsrc, c := .fsrc, d := .fsrc, wideOnly := true, fmt := fmtFlt, rnd := 0b111111, nonce := true, extra := fltOk }
def spec_fms : OpSpec := { a := .dst, b := .fsrc, c := .fsrc, d := .fsrc, wideOnly := true, fmt := fmtFlt, rnd := 0b111111, nonce := true, extra := fltOk }
def spec_fnma : OpSpec := { a := .dst, b := .fsrc, c := .fsrc, d := .fsrc, wideOnly := true, fmt := fmtFlt, rnd := 0b111111, nonce := true, extra := fltOk }
def spec_fnms : OpSpec := { a := .dst, b := .fsrc, c := .fsrc, d := .fsrc, wideOnly := true, fmt := fmtFlt, rnd := 0b111111, nonce := true, extra := fltOk }
def spec_cmpEqFloat : OpSpec := { a := .maskD, b := .fsrc, c := .fsrc, fmt := fmtFlt, extra := fltOk1 }
def spec_cmpNeFloat : OpSpec := { a := .maskD, b := .fsrc, c := .fsrc, fmt := fmtFlt, extra := fltOk1 }
def spec_cmpLtFloat : OpSpec := { a := .maskD, b := .fsrc, c := .fsrc, fmt := fmtFlt, extra := fltOk1 }
def spec_cmpLeFloat : OpSpec := { a := .maskD, b := .fsrc, c := .fsrc, fmt := fmtFlt, extra := fltOk1 }
def spec_cmpGtFloat : OpSpec := { a := .maskD, b := .fsrc, c := .fsrc, fmt := fmtFlt, extra := fltOk1 }
def spec_cmpGeFloat : OpSpec := { a := .maskD, b := .fsrc, c := .fsrc, fmt := fmtFlt, extra := fltOk1 }
def spec_cmpUn : OpSpec := { a := .maskD, b := .fsrc, c := .fsrc, fmt := fmtFlt, extra := fltOk1 }
def spec_cmpOrd : OpSpec := { a := .maskD, b := .fsrc, c := .fsrc, fmt := fmtFlt, extra := fltOk1 }
def spec_fclass : OpSpec := { a := .dst, b := .fsrc, fmt := fmtFlt, extra := fltOk1B }
def spec_ftest : OpSpec := { a := .maskD, b := .fsrc, c := .imm', fmt := fmtFlt, extra := fltOk1B }
def spec_dot : OpSpec := { a := .dst32, b := .vec64, c := .vec64, fmt := bits [16,17,18,19,22,23,24,25,30,31] ||| fmtClass, rnd := 0b111111, nonce := true, extra := fun f => f.rnd == 0 || !(fmtIsInt f.fmt) }
def spec_dota : OpSpec := { a := .dst32, b := .vec64, c := .vec64, d := .vec32, wideOnly := true, fmt := bits [16,17,18,19,22,23,24,25,30,31] ||| fmtClass, rnd := 0b111111, nonce := true, extra := fun f => (f.rnd == 0 || !(fmtIsInt f.fmt)) && widthsAgree 32 [f.d] }
def spec_exp2 : OpSpec := { a := .dst, b := .fsrc, fmt := bits [18,19,20] ||| fmtClass, rnd := 0b111111, nonce := true, extra := fltOk }
def spec_log2 : OpSpec := { a := .dst, b := .fsrc, fmt := bits [18,19,20] ||| fmtClass, rnd := 0b111111, nonce := true, extra := fltOk }
def spec_rcp : OpSpec := { a := .dst, b := .fsrc, fmt := bits [18,19,20] ||| fmtClass, rnd := 0b111111, nonce := true, extra := fltOk }
def spec_rsqrt : OpSpec := { a := .dst, b := .fsrc, fmt := bits [18,19,20] ||| fmtClass, rnd := 0b111111, nonce := true, extra := fltOk }
def spec_sinpi : OpSpec := { a := .dst, b := .fsrc, fmt := bits [18,19,20] ||| fmtClass, rnd := 0b111111, nonce := true, extra := fltOk }
def spec_cospi : OpSpec := { a := .dst, b := .fsrc, fmt := bits [18,19,20] ||| fmtClass, rnd := 0b111111, nonce := true, extra := fltOk }
def spec_tanh : OpSpec := { a := .dst, b := .fsrc, fmt := bits [18,19,20] ||| fmtClass, rnd := 0b111111, nonce := true, extra := fltOk }
def spec_divFloat : OpSpec := { a := .dst, b := .fsrc, c := .fsrc, fmt := fmtFlt, rnd := 0b111111, nonce := true, extra := fltOk }
def spec_sqrt : OpSpec := { a := .dst, b := .fsrc, fmt := fmtFlt, rnd := 0b111111, nonce := true, extra := fltOk }
def spec_cvt (s : BitVec 5) : OpSpec := { a := .dst, b := .vec, fmt := fmtAll, rnd := 0b111111, nonce := true, extra := cvtOk s }
def spec_cvtx : OpSpec := { a := .dst, b := .vec, c := .optVec, d := .optSrc, wideOnly := true, fmt := fmtAll, f1 := fmtAll, rnd := 0b111111, nonce := true, xmods := 0b111111, extra := cvtxOk }
def spec_esel : OpSpec := { a := .dst, b := .fsrc, c := .fsrc, wideOnly := true, fmt := bits [23], f1 := bits [20], extra := eselOk }
def spec_zipLo : OpSpec := { a := .dst, b := .vec, c := .vec, fmt := bits [22,23,24,25,26,27,30,31], extra := zipOk }
def spec_zipHi : OpSpec := { a := .dst, b := .vec, c := .vec, fmt := bits [22,23,24,25,26,27,30,31], extra := zipOk }
def spec_unzipEv : OpSpec := { a := .dst, b := .vec, c := .vec, fmt := bits [22,23,24,25,26,27,30,31], extra := zipOk }
def spec_unzipOd : OpSpec := { a := .dst, b := .vec, c := .vec, fmt := bits [22,23,24,25,26,27,30,31], extra := zipOk }
def spec_pk6 : OpSpec := { a := .dst48, b := .vec64, fmt := bits [16] }
def spec_upk6 : OpSpec := { a := .dst64, b := .vec48, fmt := bits [16] }
def spec_rngLo : OpSpec := { a := .dst, b := .stream, c := .stream, fmt := fmtW64, sExt := true, wExt := true, extra := rngOk }
def spec_rngHi : OpSpec := { a := .dst, b := .stream, c := .stream, fmt := fmtW64, sExt := true, wExt := true, extra := rngOk }
def spec_rngu : OpSpec := { a := .dst, b := .stream, c := .stream, fmt := fmtFlt, sExt := true, wExt := true, extra := rngOk }
def spec_rnguOc : OpSpec := { a := .dst, b := .stream, c := .stream, fmt := fmtFlt, sExt := true, wExt := true, extra := rngOk }
def spec_rngkLo : OpSpec := { a := .dst, b := .stream, c := .stream, d := .xOrS64, wideOnly := true, fmt := fmtW64 ||| fmtFlt, wExt := true, xmods := 0b1111, extra := rngkOk }
def spec_rngkHi : OpSpec := { a := .dst, b := .stream, c := .stream, d := .xOrS64, wideOnly := true, fmt := fmtW64 ||| fmtFlt, wExt := true, xmods := 0b1111, extra := rngkOk }
def spec_rngku : OpSpec := { a := .dst, b := .stream, c := .stream, d := .xOrS64, wideOnly := true, fmt := fmtW64 ||| fmtFlt, wExt := true, xmods := 0b1111, extra := rngkOk }
def spec_rngkuOc : OpSpec := { a := .dst, b := .stream, c := .stream, d := .xOrS64, wideOnly := true, fmt := fmtW64 ||| fmtFlt, wExt := true, xmods := 0b1111, extra := rngkOk }
def spec_rcpa : OpSpec := { a := .dst, b := .fsrc, fmt := bits [20], extra := fltOk }
def spec_ld : OpSpec := { a := .dst, b := .base, c := .offs, fmt := fmtMem, sExt := true, wExt := true, ords := 0b101, scope := .withOrd, ua := true, lu := true, extra := memOk }
def spec_st : OpSpec := { a := .src, b := .base, c := .offs, fmt := fmtMem, sExt := true, wExt := true, ords := 0b11, scope := .withOrd, ua := true, extra := memOk }
def spec_gath : OpSpec := { a := .dst, b := .base, c := .index, fmt := fmtMem, sExt := true, wExt := true, ords := 0b101, scope := .withOrd, ua := true, lu := true, extra := gathOk }
def spec_scat : OpSpec := { a := .vec, b := .base, c := .index, fmt := fmtMem, sExt := true, wExt := true, ords := 0b11, scope := .withOrd, ua := true, extra := gathOk }
def spec_pref : OpSpec := { b := .base, c := .offs, fmt := fmtMem, wExt := true, ua := true }
def spec_phase : OpSpec := {}
def spec_phaseK : OpSpec := {}
def spec_fence : OpSpec := {}
def spec_flushred : OpSpec := {}
def spec_discard : OpSpec := { b := .base, c := .immOrSlice, extra := fun f => immIn 0 1023 f.c }
def spec_spill : OpSpec := { a := .group, b := .imm', extra := fun f => immIn 1 64 f.b && groupOk f.a }
def spec_fill : OpSpec := { a := .group, b := .imm', extra := fun f => immIn 1 64 f.b && groupOk f.a }
def spec_atomAddRet : OpSpec := { a := .dst, b := .base, c := .src, fmt := fmtAtom, rnd := 0b1111, ords := 0b1111, scope := .any, extra := atomOk }
def spec_atomAdd : OpSpec := { a := .empty, b := .base, c := .src, fmt := fmtAtom, rnd := 0b1111, ords := 0b1111, scope := .any, extra := atomOk }
def spec_atomMinRet : OpSpec := { a := .dst, b := .base, c := .src, fmt := fmtAtom, ords := 0b1111, scope := .any, extra := atomOk }
def spec_atomMin : OpSpec := { a := .empty, b := .base, c := .src, fmt := fmtAtom, ords := 0b1111, scope := .any, extra := atomOk }
def spec_atomMaxRet : OpSpec := { a := .dst, b := .base, c := .src, fmt := fmtAtom, ords := 0b1111, scope := .any, extra := atomOk }
def spec_atomMax : OpSpec := { a := .empty, b := .base, c := .src, fmt := fmtAtom, ords := 0b1111, scope := .any, extra := atomOk }
def spec_atomAndRet : OpSpec := { a := .dst, b := .base, c := .src, fmt := fmtAtomInt, ords := 0b1111, scope := .any, extra := atomOk }
def spec_atomAnd : OpSpec := { a := .empty, b := .base, c := .src, fmt := fmtAtomInt, ords := 0b1111, scope := .any, extra := atomOk }
def spec_atomOrRet : OpSpec := { a := .dst, b := .base, c := .src, fmt := fmtAtomInt, ords := 0b1111, scope := .any, extra := atomOk }
def spec_atomOr : OpSpec := { a := .empty, b := .base, c := .src, fmt := fmtAtomInt, ords := 0b1111, scope := .any, extra := atomOk }
def spec_atomXorRet : OpSpec := { a := .dst, b := .base, c := .src, fmt := fmtAtomInt, ords := 0b1111, scope := .any, extra := atomOk }
def spec_atomXor : OpSpec := { a := .empty, b := .base, c := .src, fmt := fmtAtomInt, ords := 0b1111, scope := .any, extra := atomOk }
def spec_atomXchg : OpSpec := { a := .dst, b := .base, c := .src, fmt := fmtAtom, ords := 0b1111, scope := .any, extra := atomOk }
def spec_atomCas : OpSpec := { a := .dst, b := .base, c := .src, d := .src, wideOnly := true, fmt := fmtAtom, ords := 0b1111, scope := .any, extra := atomOk }
def spec_atomwinc : OpSpec := { a := .dst, b := .base, c := .src, fmt := bits [27], scope := .module }
def spec_waitv : OpSpec := { b := .base, c := .value, sExt := true, ords := 0b100, scope := .wide24, xmods := 0b111 }
def spec_watch : OpSpec := { a := .imm', b := .base, c := .value, sExt := true, ords := 0b100, scope := .wide24, xmods := 0b111, extra := fun f => immIn 0 3 f.a }
def spec_waitvW : OpSpec := { a := .xd, b := .imm', extra := fun f => immIn 1 15 f.b }
def spec_shape : OpSpec := { a := .base, b := .base }
def spec_trec : OpSpec := { a := .immOrS16, b := .base }
def spec_cpy : OpSpec := { a := .rawM 0xF, b := .rawM 0x3F, c := .rawM 0x3F }
def spec_cpym : OpSpec := { a := .rawM 0xF, b := .rawM 0x3F, c := .rawM 0x3F }
def spec_coll : OpSpec := { b := .base }
def spec_nwr : OpSpec := { b := .base }
def spec_nrd : OpSpec := { b := .base }
def spec_mfs : OpSpec := { a := .xd, b := .imm' }
def spec_trap : OpSpec := { c := .imm', extra := fun f => immIn 0 1023 f.c }
def spec_tret : OpSpec := { b := .x }
def spec_mts : OpSpec := { a := .imm', b := .x }
def spec_sluice : OpSpec := { b := .immOrSlice, c := .x }
def spec_xlinvVa : OpSpec := { b := .x, c := .immOrS16 }
def spec_xlinvAsid : OpSpec := { b := .immOrS16 }
def spec_xlinvAll : OpSpec := {}
def spec_xlsync : OpSpec := {}
def spec_tcfg : OpSpec := { a := .rawM 0xF, b := .immOrSlice, c := .immOrSlice, guard0 := true, fmt := fmtAll, sExt := true, wExt := true, extra := fun f => immIn 1 128 f.b && immIn 1 256 f.c }
def spec_team : OpSpec := { b := .immOrX, guard0 := true }
def spec_bclr : OpSpec := { a := .rawM 0x3F, guard0 := true }
def spec_mma : OpSpec := { a := .rawM 0x3F, b := .tileOrX, c := .tileOrX, guard0 := true, fmt := fmtAll, f1 := fmtAll, xmods := 0b1111, extra := mmaOk }
def spec_mmat : OpSpec := { a := .rawM 0x3F, b := .tileOrX, c := .tileOrX, guard0 := true, fmt := fmtAll, f1 := fmtAll, xmods := 0b1111, extra := mmaOk }
def spec_dmma : OpSpec := { a := .rawM 0xFFF, b := .rawM 0xF, c := .rawM 0xFF, guard0 := true, fmt := fmtAll }
def spec_dmmaStreamed : OpSpec := { a := .rawM 0x3F, b := .rawM 0x3F, c := .rawM 0xF, d := .tileOrX, e := .tileOrX, wideOnly := true, guard0 := true, fmt := fmtAll, f1 := fmtAll, xmods := 0b1111, extra := dmmaOk }
def spec_bget : OpSpec := { a := .dst64s, b := .rawM 0x3F, c := .immOrSlice, d := .xdOrNone, g1 := true, extra := fun f => immIn 0 271 f.c && (f.d != .none || f.g1 == 0) }
def spec_bset : OpSpec := { a := .rawM 0x3F, b := .immOrSlice, c := .data64, extra := fun f => immIn 0 271 f.b }
def spec_tget : OpSpec := { a := .dst64s, b := .rawM 0xF, c := .immOrSlice, extra := fun f => immIn 0 128 f.c }
def spec_tset : OpSpec := { a := .rawM 0xF, b := .immOrSlice, c := .data64, extra := fun f => immIn 0 128 f.b }
def spec_drain : OpSpec := { a := .rawM 0xF, b := .rawM 0x3F, c := .off14, d := .xOrNone, e := .s64OrNone, guard0 := true, fmt := fmtAll, rnd := 0b111111, xmods := 0b11, g1 := true, extra := drainOk }
def spec_prjsum : OpSpec := { a := .rawM 0x3F, c := .off14, d := .xOrNone, guard0 := true, extra := prjsumOk }
def spec_prjadj : OpSpec := { a := .rawM 0xF, b := .rawM 0x3F, c := .rawM 0xF, d := .xOrNone, guard0 := true, fmt := fmtAll, rnd := 0b111111 }
def spec_mma16 : OpSpec := { a := .rawM 0x3F, b := .rawM 0xF, c := .rawM 0xF, guard0 := true }
def spec_ttrans : OpSpec := { a := .rawM 0xF, b := .rawM 0xF, guard0 := true }

/-- One opcode: its rules and its instruction. -/
structure Entry where
  mk' ::
  spec : OpSpec
  make : Args → Instr

/-- The opcode map (R125, R126, R129): S opcodes and, from 0x400, W-only opcodes. -/
def entry (op : Nat) : Option Entry :=
  match op with
  | 0x0 => some (.mk' (spec_br) (.br))
  | 0x1 => some (.mk' (spec_brall) (.brall))
  | 0x2 => some (.mk' (spec_brany) (.brany))
  | 0x3 => some (.mk' (spec_brnone) (.brnone))
  | 0x4 => some (.mk' (spec_brd) (.brd))
  | 0x5 => some (.mk' (spec_brdec) (.brdec))
  | 0x8 => some (.mk' (spec_jmp) (.jmp))
  | 0x9 => some (.mk' (spec_jmpd) (.jmpd))
  | 0x20 => some (.mk' (spec_call) (.call))
  | 0x21 => some (.mk' (spec_calli) (.calli))
  | 0x401 => some (.mk' (spec_calliBudget) (.calliBudget))
  | 0x22 => some (.mk' spec_ret fun _ => .ret)
  | 0x23 => some (.mk' (spec_spawn) (.spawn))
  | 0x24 => some (.mk' spec_exit fun _ => .exit)
  | 0x25 => some (.mk' spec_endAll fun _ => .endAll)
  | 0x40 => some (.mk' spec_yield fun _ => .yield)
  | 0x41 => some (.mk' (spec_yieldW) (.yieldW))
  | 0x400 => some (.mk' (spec_yieldWWide) (.yieldWWide))
  | 0x42 => some (.mk' (spec_waitt) (.waitt))
  | 0x402 => some (.mk' (spec_waittD) (.waittD))
  | 0x43 => some (.mk' (spec_bar) (.bar))
  | 0x44 => some (.mk' spec_region fun _ => .region)
  | 0x45 => some (.mk' (spec_cancel) (.cancel))
  | 0x80 => some (.mk' (spec_addInt) (.addInt))
  | 0x81 => some (.mk' (spec_subInt) (.subInt))
  | 0x82 => some (.mk' (spec_mulInt) (.mulInt))
  | 0x83 => some (.mk' (spec_mulh) (.mulh))
  | 0x84 => some (.mk' (spec_minInt) (.minInt))
  | 0x85 => some (.mk' (spec_maxInt) (.maxInt))
  | 0x86 => some (.mk' (spec_absInt) (.absInt))
  | 0x87 => some (.mk' (spec_negInt) (.negInt))
  | 0x88 => some (.mk' (spec_adds) (.adds))
  | 0x89 => some (.mk' (spec_subs) (.subs))
  | 0x8a => some (.mk' (spec_muls) (.muls))
  | 0xa0 => some (.mk' (spec_and) (.and))
  | 0xa1 => some (.mk' (spec_or) (.or))
  | 0xa2 => some (.mk' (spec_xor) (.xor))
  | 0xa3 => some (.mk' (spec_andn) (.andn))
  | 0xa4 => some (.mk' (spec_not) (.not))
  | 0xa8 => some (.mk' (spec_shl) (.shl))
  | 0xa9 => some (.mk' (spec_shr) (.shr))
  | 0xaa => some (.mk' (spec_sar) (.sar))
  | 0xab => some (.mk' (spec_rotl) (.rotl))
  | 0xac => some (.mk' (spec_rotr) (.rotr))
  | 0xb0 => some (.mk' (spec_popc) (.popc))
  | 0xb1 => some (.mk' (spec_clz) (.clz))
  | 0xb2 => some (.mk' (spec_ctz) (.ctz))
  | 0xc0 => some (.mk' (spec_mov) (.mov))
  | 0xc2 => some (.mk' (spec_ext) (.ext))
  | 0xc3 => some (.mk' (spec_ins) (.ins))
  | 0x480 => some (.mk' (spec_mad) (.mad))
  | 0x481 => some (.mk' (spec_bfx) (.bfx))
  | 0x482 => some (.mk' (spec_sel) (.sel))
  | 0x483 => some (.mk' (spec_bfi) (.bfi))
  | 0xd0 => some (.mk' (spec_cmpEqInt) (.cmpEqInt))
  | 0xd1 => some (.mk' (spec_cmpNeInt) (.cmpNeInt))
  | 0xd2 => some (.mk' (spec_cmpLtInt) (.cmpLtInt))
  | 0xd3 => some (.mk' (spec_cmpLeInt) (.cmpLeInt))
  | 0xd4 => some (.mk' (spec_cmpGtInt) (.cmpGtInt))
  | 0xd5 => some (.mk' (spec_cmpGeInt) (.cmpGeInt))
  | 0xe0 => some (.mk' (spec_ixa) (.ixa 0))
  | 0xe1 => some (.mk' (spec_ixa) (.ixa 1))
  | 0xe2 => some (.mk' (spec_ixa) (.ixa 2))
  | 0xe3 => some (.mk' (spec_ixa) (.ixa 3))
  | 0xe4 => some (.mk' (spec_ixa) (.ixa 4))
  | 0xe8 => some (.mk' (spec_xadd) (.xadd))
  | 0xe9 => some (.mk' (spec_xsub) (.xsub))
  | 0xea => some (.mk' (spec_xmul) (.xmul))
  | 0xeb => some (.mk' (spec_xand) (.xand))
  | 0xec => some (.mk' (spec_xior) (.xior))
  | 0xed => some (.mk' (spec_xshl) (.xshl))
  | 0xee => some (.mk' (spec_xshr) (.xshr))
  | 0xef => some (.mk' (spec_xmov) (.xmov))
  | 0xf0 => some (.mk' (spec_lea) (.lea))
  | 0xf1 => some (.mk' (spec_mulhi) (.mulhi))
  | 0xf2 => some (.mk' (spec_brev) (.brev))
  | 0xf3 => some (.mk' (spec_divInt) (.divInt))
  | 0x100 => some (.mk' (spec_mand) (.mand))
  | 0x101 => some (.mk' (spec_mor) (.mor))
  | 0x102 => some (.mk' (spec_mxor) (.mxor))
  | 0x103 => some (.mk' (spec_mandn) (.mandn))
  | 0x104 => some (.mk' (spec_mnot) (.mnot))
  | 0x105 => some (.mk' (spec_mmov) (.mmov))
  | 0x106 => some (.mk' (spec_mset) (.mset))
  | 0x107 => some (.mk' (spec_mget) (.mget))
  | 0x108 => some (.mk' (spec_mpopc) (.mpopc))
  | 0x109 => some (.mk' (spec_mffs) (.mffs))
  | 0x120 => some (.mk' (spec_shflIdx) (.shflIdx))
  | 0x121 => some (.mk' (spec_shflUp) (.shflUp))
  | 0x122 => some (.mk' (spec_shflDown) (.shflDown))
  | 0x123 => some (.mk' (spec_shflXor) (.shflXor))
  | 0x124 => some (.mk' (spec_shfe) (.shfe))
  | 0x128 => some (.mk' (spec_permB) (.permB))
  | 0x129 => some (.mk' (spec_permN) (.permN))
  | 0x520 => some (.mk' (spec_lut) (.lut))
  | 0x140 => some (.mk' (spec_reduceAdd) (.reduceAdd))
  | 0x148 => some (.mk' (spec_scanAdd) (.scanAdd))
  | 0x141 => some (.mk' (spec_reduceMin) (.reduceMin))
  | 0x149 => some (.mk' (spec_scanMin) (.scanMin))
  | 0x142 => some (.mk' (spec_reduceMax) (.reduceMax))
  | 0x14a => some (.mk' (spec_scanMax) (.scanMax))
  | 0x143 => some (.mk' (spec_reduceAnd) (.reduceAnd))
  | 0x14b => some (.mk' (spec_scanAnd) (.scanAnd))
  | 0x144 => some (.mk' (spec_reduceOr) (.reduceOr))
  | 0x14c => some (.mk' (spec_scanOr) (.scanOr))
  | 0x145 => some (.mk' (spec_reduceXor) (.reduceXor))
  | 0x14d => some (.mk' (spec_scanXor) (.scanXor))
  | 0x150 => some (.mk' (spec_compact) (.compact))
  | 0x180 => some (.mk' (spec_addFloat) (.addFloat))
  | 0x181 => some (.mk' (spec_subFloat) (.subFloat))
  | 0x182 => some (.mk' (spec_mulFloat) (.mulFloat))
  | 0x183 => some (.mk' (spec_minFloat) (.minFloat))
  | 0x184 => some (.mk' (spec_maxFloat) (.maxFloat))
  | 0x185 => some (.mk' (spec_minp) (.minp))
  | 0x186 => some (.mk' (spec_maxp) (.maxp))
  | 0x187 => some (.mk' (spec_absFloat) (.absFloat))
  | 0x188 => some (.mk' (spec_negFloat) (.negFloat))
  | 0x189 => some (.mk' (spec_sgn) (.sgn))
  | 0x18a => some (.mk' (spec_rint) (.rint))
  | 0x580 => some (.mk' (spec_fma) (.fma))
  | 0x581 => some (.mk' (spec_fms) (.fms))
  | 0x582 => some (.mk' (spec_fnma) (.fnma))
  | 0x583 => some (.mk' (spec_fnms) (.fnms))
  | 0x1a0 => some (.mk' (spec_cmpEqFloat) (.cmpEqFloat))
  | 0x1a1 => some (.mk' (spec_cmpNeFloat) (.cmpNeFloat))
  | 0x1a2 => some (.mk' (spec_cmpLtFloat) (.cmpLtFloat))
  | 0x1a3 => some (.mk' (spec_cmpLeFloat) (.cmpLeFloat))
  | 0x1a4 => some (.mk' (spec_cmpGtFloat) (.cmpGtFloat))
  | 0x1a5 => some (.mk' (spec_cmpGeFloat) (.cmpGeFloat))
  | 0x1a6 => some (.mk' (spec_cmpUn) (.cmpUn))
  | 0x1a7 => some (.mk' (spec_cmpOrd) (.cmpOrd))
  | 0x1a8 => some (.mk' (spec_fclass) (.fclass))
  | 0x1a9 => some (.mk' (spec_ftest) (.ftest))
  | 0x1c0 => some (.mk' (spec_dot) (.dot))
  | 0x584 => some (.mk' (spec_dota) (.dota))
  | 0x220 => some (.mk' (spec_exp2) (.exp2))
  | 0x221 => some (.mk' (spec_log2) (.log2))
  | 0x222 => some (.mk' (spec_rcp) (.rcp))
  | 0x223 => some (.mk' (spec_rsqrt) (.rsqrt))
  | 0x224 => some (.mk' (spec_sinpi) (.sinpi))
  | 0x225 => some (.mk' (spec_cospi) (.cospi))
  | 0x226 => some (.mk' (spec_tanh) (.tanh))
  | 0x228 => some (.mk' (spec_divFloat) (.divFloat))
  | 0x229 => some (.mk' (spec_sqrt) (.sqrt))
  | 0x200 => some (.mk' (spec_cvt 0) (.cvt 0))
  | 0x201 => some (.mk' (spec_cvt 1) (.cvt 1))
  | 0x202 => some (.mk' (spec_cvt 2) (.cvt 2))
  | 0x203 => some (.mk' (spec_cvt 3) (.cvt 3))
  | 0x204 => some (.mk' (spec_cvt 4) (.cvt 4))
  | 0x205 => some (.mk' (spec_cvt 5) (.cvt 5))
  | 0x206 => some (.mk' (spec_cvt 6) (.cvt 6))
  | 0x207 => some (.mk' (spec_cvt 7) (.cvt 7))
  | 0x208 => some (.mk' (spec_cvt 8) (.cvt 8))
  | 0x209 => some (.mk' (spec_cvt 9) (.cvt 9))
  | 0x20a => some (.mk' (spec_cvt 10) (.cvt 10))
  | 0x20b => some (.mk' (spec_cvt 11) (.cvt 11))
  | 0x20c => some (.mk' (spec_cvt 12) (.cvt 12))
  | 0x20d => some (.mk' (spec_cvt 13) (.cvt 13))
  | 0x20e => some (.mk' (spec_cvt 14) (.cvt 14))
  | 0x20f => some (.mk' (spec_cvt 15) (.cvt 15))
  | 0x210 => some (.mk' (spec_cvt 16) (.cvt 16))
  | 0x211 => some (.mk' (spec_cvt 17) (.cvt 17))
  | 0x212 => some (.mk' (spec_cvt 18) (.cvt 18))
  | 0x213 => some (.mk' (spec_cvt 19) (.cvt 19))
  | 0x214 => some (.mk' (spec_cvt 20) (.cvt 20))
  | 0x215 => some (.mk' (spec_cvt 21) (.cvt 21))
  | 0x216 => some (.mk' (spec_cvt 22) (.cvt 22))
  | 0x217 => some (.mk' (spec_cvt 23) (.cvt 23))
  | 0x218 => some (.mk' (spec_cvt 24) (.cvt 24))
  | 0x219 => some (.mk' (spec_cvt 25) (.cvt 25))
  | 0x21a => some (.mk' (spec_cvt 26) (.cvt 26))
  | 0x21b => some (.mk' (spec_cvt 27) (.cvt 27))
  | 0x21c => some (.mk' (spec_cvt 28) (.cvt 28))
  | 0x21d => some (.mk' (spec_cvt 29) (.cvt 29))
  | 0x21e => some (.mk' (spec_cvt 30) (.cvt 30))
  | 0x21f => some (.mk' (spec_cvt 31) (.cvt 31))
  | 0x600 => some (.mk' (spec_cvtx) (.cvtx))
  | 0x602 => some (.mk' (spec_esel) (.esel))
  | 0x240 => some (.mk' (spec_zipLo) (.zipLo))
  | 0x241 => some (.mk' (spec_zipHi) (.zipHi))
  | 0x242 => some (.mk' (spec_unzipEv) (.unzipEv))
  | 0x243 => some (.mk' (spec_unzipOd) (.unzipOd))
  | 0x244 => some (.mk' (spec_pk6) (.pk6))
  | 0x245 => some (.mk' (spec_upk6) (.upk6))
  | 0x260 => some (.mk' (spec_rngLo) (.rngLo))
  | 0x261 => some (.mk' (spec_rngHi) (.rngHi))
  | 0x262 => some (.mk' (spec_rngu) (.rngu))
  | 0x263 => some (.mk' (spec_rnguOc) (.rnguOc))
  | 0x660 => some (.mk' spec_rngkLo mkRngk)
  | 0x1e0 => some (.mk' (spec_rcpa) (.rcpa))
  | 0x280 => some (.mk' (spec_ld) (.ld))
  | 0x281 => some (.mk' (spec_st) (.st))
  | 0x284 => some (.mk' (spec_gath) (.gath))
  | 0x285 => some (.mk' (spec_scat) (.scat))
  | 0x286 => some (.mk' (spec_pref) (.pref))
  | 0x2a0 => some (.mk' (spec_phase) (.phase 0))
  | 0x2a1 => some (.mk' (spec_phase) (.phase 1))
  | 0x2a2 => some (.mk' (spec_phase) (.phase 2))
  | 0x2a3 => some (.mk' (spec_phase) (.phase 3))
  | 0x2a4 => some (.mk' (spec_phase) (.phase 4))
  | 0x2a8 => some (.mk' (spec_phaseK) (.phaseK 0))
  | 0x2a9 => some (.mk' (spec_phaseK) (.phaseK 1))
  | 0x2aa => some (.mk' (spec_phaseK) (.phaseK 2))
  | 0x2ab => some (.mk' (spec_phaseK) (.phaseK 3))
  | 0x2ac => some (.mk' (spec_phaseK) (.phaseK 4))
  | 0x2b0 => some (.mk' (spec_fence) (.fence 0))
  | 0x2b1 => some (.mk' (spec_fence) (.fence 1))
  | 0x2b2 => some (.mk' (spec_fence) (.fence 2))
  | 0x2b3 => some (.mk' (spec_fence) (.fence 3))
  | 0x2b4 => some (.mk' (spec_fence) (.fence 4))
  | 0x2b8 => some (.mk' spec_flushred fun _ => .flushred)
  | 0x2b9 => some (.mk' (spec_discard) (.discard))
  | 0x2bc => some (.mk' (spec_spill) (.spill))
  | 0x2bd => some (.mk' (spec_fill) (.fill))
  | 0x2c0 => some (.mk' (spec_atomAddRet) (.atomAddRet))
  | 0x2c8 => some (.mk' (spec_atomAdd) (.atomAdd))
  | 0x2c1 => some (.mk' (spec_atomMinRet) (.atomMinRet))
  | 0x2c9 => some (.mk' (spec_atomMin) (.atomMin))
  | 0x2c2 => some (.mk' (spec_atomMaxRet) (.atomMaxRet))
  | 0x2ca => some (.mk' (spec_atomMax) (.atomMax))
  | 0x2c3 => some (.mk' (spec_atomAndRet) (.atomAndRet))
  | 0x2cb => some (.mk' (spec_atomAnd) (.atomAnd))
  | 0x2c4 => some (.mk' (spec_atomOrRet) (.atomOrRet))
  | 0x2cc => some (.mk' (spec_atomOr) (.atomOr))
  | 0x2c5 => some (.mk' (spec_atomXorRet) (.atomXorRet))
  | 0x2cd => some (.mk' (spec_atomXor) (.atomXor))
  | 0x2c6 => some (.mk' (spec_atomXchg) (.atomXchg))
  | 0x680 => some (.mk' (spec_atomCas) (.atomCas))
  | 0x2ea => some (.mk' (spec_atomwinc) (.atomwinc))
  | 0x2e0 => some (.mk' (spec_waitv) (.waitv))
  | 0x2e1 => some (.mk' (spec_watch) (.watch))
  | 0x2e2 => some (.mk' (spec_waitvW) (.waitvW))
  | 0x300 => some (.mk' (spec_shape) (.shape))
  | 0x301 => some (.mk' (spec_trec) (.trec))
  | 0x302 => some (.mk' (spec_cpy) (.cpy))
  | 0x303 => some (.mk' (spec_cpym) (.cpym))
  | 0x320 => some (.mk' (spec_coll) (.coll))
  | 0x321 => some (.mk' (spec_nwr) (.nwr))
  | 0x322 => some (.mk' (spec_nrd) (.nrd))
  | 0x380 => some (.mk' (spec_mfs) (.mfs))
  | 0x381 => some (.mk' spec_trap mkTrap)
  | 0x3a0 => some (.mk' (spec_tret) (.tret))
  | 0x3a1 => some (.mk' (spec_mts) (.mts))
  | 0x3a2 => some (.mk' (spec_sluice) (.sluice))
  | 0x3a3 => some (.mk' (spec_xlinvVa) (.xlinvVa))
  | 0x3a4 => some (.mk' (spec_xlinvAsid) (.xlinvAsid))
  | 0x3a5 => some (.mk' (spec_xlinvAll) (.xlinvAll))
  | 0x3a6 => some (.mk' (spec_xlsync) (.xlsync))
  | 0x340 => some (.mk' (spec_tcfg) (.tcfg))
  | 0x341 => some (.mk' (spec_team) (.team))
  | 0x342 => some (.mk' (spec_bclr) (.bclr))
  | 0x343 => some (.mk' (spec_mma) (.mma))
  | 0x344 => some (.mk' (spec_mmat) (.mmat))
  | 0x345 => some (.mk' (spec_dmma) (.dmma))
  | 0x740 => some (.mk' (spec_dmmaStreamed) (.dmmaStreamed))
  | 0x346 => some (.mk' (spec_bget) (.bget))
  | 0x347 => some (.mk' (spec_bset) (.bset))
  | 0x348 => some (.mk' (spec_tget) (.tget))
  | 0x349 => some (.mk' (spec_tset) (.tset))
  | 0x360 => some (.mk' (spec_drain) (.drain))
  | 0x361 => some (.mk' (spec_prjsum) (.prjsum))
  | 0x362 => some (.mk' (spec_prjadj) (.prjadj))
  | 0x378 => some (.mk' (spec_mma16) (.mma16))
  | 0x379 => some (.mk' (spec_ttrans) (.ttrans))
  | _ => Option.none

/-- Hint space (R127). -/
def isHint (op : Nat) : Bool := decide ((0x3C0 ≤ op ∧ op ≤ 0x3FF) ∨ (0x7C0 ≤ op ∧ op ≤ 0x7FF))
/-- The privileged system block (R128). -/
def isPrivOp (op : Nat) : Bool := decide ((0x3A0 ≤ op ∧ op ≤ 0x3BF) ∨ (0x7A0 ≤ op ∧ op ≤ 0x7BF))

/-- A hint opcode: the three implemented ones by name, every other as `nop` (R127). -/
def mkHint (op : Nat) : Instr :=
  if op % 64 == 1 then .hreuse else if op % 64 == 2 then .hlikely else .nop

/-! ### Frames -/

/-- Where an instruction stands: a P half, an S word, or the two words of a W frame. -/
inductive Code
  | half (h : Bool) (v : BitVec 32)
  | one (w : Word)
  | two (w0 w1 : Word)
deriving DecidableEq, Repr

/-- The fields of an S frame in a hint: all raw (R127). -/
def hintArgsS (w : Word) : Args :=
  { guard := w.extractLsb' 48 4, fmt := w.extractLsb' 43 5, ext := w.getLsbD 42
    a := .raw (w.extractLsb' 28 14), b := .raw (w.extractLsb' 14 14), c := .raw (w.extractLsb' 0 14) }

def hintArgsW (w0 w1 : Word) : Args :=
  { wide := true, guard := w0.extractLsb' 32 4, g1 := w0.extractLsb' 28 4, fmt := w0.extractLsb' 23 5
    f1 := w0.extractLsb' 18 5, cache := w0.extractLsb' 14 4, delay := w0.extractLsb' 11 3
    rnd := w0.extractLsb' 5 3, scope := w0.extractLsb' 2 3, ord := w0.extractLsb' 0 2
    ext := w1.getLsbD 61, ua := w1.getLsbD 60, lu := w1.getLsbD 59, xmod := w1.extractLsb' 56 3
    a := .raw (w0.extractLsb' 36 14), b := .raw (w1.extractLsb' 42 14), c := .raw (w1.extractLsb' 28 14)
    d := .raw (w1.extractLsb' 14 14), e := .raw (w1.extractLsb' 0 14) }

/-- A rejected field check, with the privileged block told apart (R131). -/
def rejectField (op : Nat) : Reject := if isPrivOp op then .privField op else .field op
def rejectOp (op : Nat) : Reject := if isPrivOp op then .privBlock op else .unclaimed op

/-- Replaces the raw operands of an S or W frame by what the entry's slots read in them. -/
def OpSpec.parseOperands (s : OpSpec) (h : Args) : Option Args :=
  let d := if h.wide then s.d.parse h.d.rawBits else some .none
  let e := if h.wide then (s.slotE h).parse h.e.rawBits else some .none
  match s.a.parse h.a.rawBits, s.b.parse h.b.rawBits, s.c.parse h.c.rawBits, d, e with
  | some a, some b, some c, some d, some e => some { h with a := a, b := b, c := c, d := d, e := e }
  | _, _, _, _, _ => Option.none

/-- From an opcode and raw fields to an instruction (R131, orders 5 and 7). -/
def decodeFields (op : Nat) (h : Args) : Except Reject Instr :=
  if isHint op then .ok (mkHint op)
  else match entry op with
    | Option.none => .error (rejectOp op)
    | some en =>
      match en.spec.parseOperands h with
      | Option.none => .error (rejectField op)
      | some f => if en.spec.ok f then .ok (en.make f) else .error (rejectField op)

/-- The S frame (R116). -/
def decodeS (w : Word) : Except Reject Instr := decodeFields (w.extractLsb' 52 10).toNat (hintArgsS w)

/-- The W frame (R121); W opcodes with [11] set name nothing (R126), and reserved sched bits are zero (R124). -/
def decodeW (w0 w1 : Word) : Except Reject Instr :=
  let op := (w0.extractLsb' 50 12).toNat
  if 0x800 ≤ op then .error (.unclaimed op)
  else if !(isHint op) && (entry op).isSome && w0.extractLsb' 8 3 != 0 then .error (rejectField op)
  else decodeFields op (hintArgsW w0 w1)

/-! ### The P frame (R118 to R120) -/

def pSliceOf (v : BitVec 11) : PSlice := { bank := v.getLsbD 10, start := v.extractLsb' 2 8, w := v.extractLsb' 0 2 }
def pSliceBits (s : PSlice) : BitVec 11 := (BitVec.ofBool s.bank ++ s.start ++ s.w : BitVec 11)
def pArgsOf (h : Bool) (v : BitVec 32) : PArgs :=
  { half := h, guard := v.extractLsb' 22 3, dst := pSliceOf (v.extractLsb' 11 11), src := pSliceOf (v.extractLsb' 0 11) }
def pImmOf (h : Bool) (v : BitVec 32) : PImm :=
  { half := h, guard := v.extractLsb' 22 3, dst := pSliceOf (v.extractLsb' 11 11), imm := v.extractLsb' 0 11 }
def pArgsBits (op : BitVec 7) (p : PArgs) : BitVec 32 :=
  (op ++ p.guard ++ pSliceBits p.dst ++ pSliceBits p.src : BitVec 32)
def pImmBits (op : BitVec 7) (p : PImm) : BitVec 32 :=
  (op ++ p.guard ++ pSliceBits p.dst ++ p.imm : BitVec 32)

/-- One P half (R120). -/
def decodeHalf (h : Bool) (v : BitVec 32) : Except Reject Instr :=
  match (v.extractLsb' 25 7).toNat with
  | 0x1 => if v.extractLsb' 0 22 == 0 then .ok (.pNop h (v.extractLsb' 22 3)) else .error (.field 1)
  | 0x2 => .ok (.pMovN32 (pArgsOf h v))
  | 0x3 => .ok (.pMovN64 (pArgsOf h v))
  | 0x4 => .ok (.pAddI32 (pArgsOf h v))
  | 0x5 => .ok (.pAddI64 (pArgsOf h v))
  | 0x6 => .ok (.pSubI32 (pArgsOf h v))
  | 0x7 => .ok (.pSubI64 (pArgsOf h v))
  | 0x8 => .ok (.pMulI32 (pArgsOf h v))
  | 0x9 => .ok (.pAndN64 (pArgsOf h v))
  | 0xa => .ok (.pOrN64 (pArgsOf h v))
  | 0xb => .ok (.pXorN64 (pArgsOf h v))
  | 0xc => .ok (.pAddI32Imm (pImmOf h v))
  | 0xd => if (pImmOf h v).imm.toNat < 32 then .ok (.pShlN32Imm (pImmOf h v)) else .error (.field 0xd)
  | 0xe => if (pImmOf h v).imm.toNat < 32 then .ok (.pShrN32Imm (pImmOf h v)) else .error (.field 0xe)
  | 0xf => if (pImmOf h v).imm.toNat < 32 then .ok (.pSarI32Imm (pImmOf h v)) else .error (.field 0xf)
  | 0x10 => .ok (.pAddF32 (pArgsOf h v))
  | 0x11 => .ok (.pSubF32 (pArgsOf h v))
  | 0x12 => .ok (.pMulF32 (pArgsOf h v))
  | 0x13 => .ok (.pMaxF32 (pArgsOf h v))
  | 0x14 => .ok (.pMinF32 (pArgsOf h v))
  | 0x15 => .ok (.pMovN8 (pArgsOf h v))
  | 0x16 => .ok (.pMovN16 (pArgsOf h v))
  | 0x17 => .ok (.pAddI16 (pArgsOf h v))
  | 0x20 => .ok (.pAddF64 (pArgsOf h v))
  | 0x21 => .ok (.pMulF64 (pArgsOf h v))
  | 0x22 => .ok (.pAddBf16 (pArgsOf h v))
  | 0x23 => .ok (.pMulBf16 (pArgsOf h v))
  | 0x24 => .ok (.pAddF16 (pArgsOf h v))
  | 0x25 => .ok (.pMulF16 (pArgsOf h v))
  | 0x26 => .ok (.pMovI32Imm (pImmOf h v))
  | op => .error (.unclaimed op)

/-! ### Fetch -/

/-- What fetch reads at a program counter: an instruction and the bytes it takes, or a reason. -/
inductive Decoded
  | ok (i : Instr) (len : Nat)
  | bad (r : Reject)
deriving DecidableEq, Repr

def Decoded.ofExcept (len : Nat) : Except Reject Instr → Decoded
  | .ok i => .ok i len
  | .error r => .bad r

/-- The frame whose first word is `w0`, with `w1` the word after it; `half1` resumes a P frame at half 1 (R112, R114). -/
def decodeFrame (half1 : Bool) (w0 w1 : Word) : Decoded :=
  match (w0.extractLsb' 62 2).toNat with
  | 0 => if half1 then .ofExcept 4 (decodeHalf true (w0.extractLsb' 32 32)) else .ofExcept 4 (decodeHalf false (w0.extractLsb' 0 32))
  | 1 => .ofExcept 8 (decodeS w0)
  | 2 => if w1.extractLsb' 62 2 == 3 then .ofExcept 16 (decodeW w0 w1) else .bad .noContinuation
  | _ => .bad .continuation

/-- The little-endian word of a byte string (R112). -/
def wordOfBytes : List Byte → Nat
  | [] => 0
  | b :: rest => b.toNat + 256 * wordOfBytes rest

/-- The little-endian bytes of a number. -/
def bytesOfNat (n : Nat) : Nat → List Byte
  | 0 => []
  | k + 1 => BitVec.ofNat 8 n :: bytesOfNat (n / 256) k

/-- Decoding any bytes: the frame they begin with (R112). Bytes that are missing read as zero. -/
def decodeBytes (half1 : Bool) (bs : List Byte) : Decoded :=
  decodeFrame half1 (BitVec.ofNat 64 (wordOfBytes (bs.take 8))) (BitVec.ofNat 64 (wordOfBytes ((bs.drop 8).take 8)))

/-- The instruction of a code. -/
def decodeCode : Code → Except Reject Instr
  | .half h v => decodeHalf h v
  | .one w => decodeS w
  | .two w0 w1 => decodeW w0 w1

/-- Bytes from an instruction to the next frame or half (R112, R117). -/
def Code.len : Code → Nat
  | .half _ _ => 4
  | .one _ => 8
  | .two _ _ => 16

/-- The instruction the decoder reads from the bytes of `w`, laid out as the hardware stores them. -/
def decodeTableWord (_nbits w : Nat) : Option Instr :=
  match decodeBytes false (bytesOfNat w 16) with
  | .ok i _ => some i
  | .bad _ => Option.none

/-! ### The encoder -/

/-- The opcode and fields of an S or W instruction. -/
def Instr.opArgs : Instr → Option (Nat × Args)
  | .br f => some (0x0, f)
  | .brall f => some (0x1, f)
  | .brany f => some (0x2, f)
  | .brnone f => some (0x3, f)
  | .brd f => some (0x4, f)
  | .brdec f => some (0x5, f)
  | .jmp f => some (0x8, f)
  | .jmpd f => some (0x9, f)
  | .call f => some (0x20, f)
  | .calli f => some (0x21, f)
  | .calliBudget f => some (0x401, f)
  | .ret => some (0x22, {})
  | .spawn f => some (0x23, f)
  | .exit => some (0x24, {})
  | .endAll => some (0x25, {})
  | .yield => some (0x40, {})
  | .yieldW f => some (0x41, f)
  | .yieldWWide f => some (0x400, f)
  | .waitt f => some (0x42, f)
  | .waittD f => some (0x402, f)
  | .bar f => some (0x43, f)
  | .region => some (0x44, {})
  | .cancel f => some (0x45, f)
  | .addInt f => some (0x80, f)
  | .subInt f => some (0x81, f)
  | .mulInt f => some (0x82, f)
  | .mulh f => some (0x83, f)
  | .minInt f => some (0x84, f)
  | .maxInt f => some (0x85, f)
  | .absInt f => some (0x86, f)
  | .negInt f => some (0x87, f)
  | .adds f => some (0x88, f)
  | .subs f => some (0x89, f)
  | .muls f => some (0x8a, f)
  | .and f => some (0xa0, f)
  | .or f => some (0xa1, f)
  | .xor f => some (0xa2, f)
  | .andn f => some (0xa3, f)
  | .not f => some (0xa4, f)
  | .shl f => some (0xa8, f)
  | .shr f => some (0xa9, f)
  | .sar f => some (0xaa, f)
  | .rotl f => some (0xab, f)
  | .rotr f => some (0xac, f)
  | .popc f => some (0xb0, f)
  | .clz f => some (0xb1, f)
  | .ctz f => some (0xb2, f)
  | .mov f => some (0xc0, f)
  | .ext f => some (0xc2, f)
  | .ins f => some (0xc3, f)
  | .mad f => some (0x480, f)
  | .bfx f => some (0x481, f)
  | .sel f => some (0x482, f)
  | .bfi f => some (0x483, f)
  | .cmpEqInt f => some (0xd0, f)
  | .cmpNeInt f => some (0xd1, f)
  | .cmpLtInt f => some (0xd2, f)
  | .cmpLeInt f => some (0xd3, f)
  | .cmpGtInt f => some (0xd4, f)
  | .cmpGeInt f => some (0xd5, f)
  | .ixa k f => some (0xe0 + k.toNat, f)
  | .xadd f => some (0xe8, f)
  | .xsub f => some (0xe9, f)
  | .xmul f => some (0xea, f)
  | .xand f => some (0xeb, f)
  | .xior f => some (0xec, f)
  | .xshl f => some (0xed, f)
  | .xshr f => some (0xee, f)
  | .xmov f => some (0xef, f)
  | .lea f => some (0xf0, f)
  | .mulhi f => some (0xf1, f)
  | .brev f => some (0xf2, f)
  | .divInt f => some (0xf3, f)
  | .mand f => some (0x100, f)
  | .mor f => some (0x101, f)
  | .mxor f => some (0x102, f)
  | .mandn f => some (0x103, f)
  | .mnot f => some (0x104, f)
  | .mmov f => some (0x105, f)
  | .mset f => some (0x106, f)
  | .mget f => some (0x107, f)
  | .mpopc f => some (0x108, f)
  | .mffs f => some (0x109, f)
  | .shflIdx f => some (0x120, f)
  | .shflUp f => some (0x121, f)
  | .shflDown f => some (0x122, f)
  | .shflXor f => some (0x123, f)
  | .shfe f => some (0x124, f)
  | .permB f => some (0x128, f)
  | .permN f => some (0x129, f)
  | .lut f => some (0x520, f)
  | .reduceAdd f => some (0x140, f)
  | .scanAdd f => some (0x148, f)
  | .reduceMin f => some (0x141, f)
  | .scanMin f => some (0x149, f)
  | .reduceMax f => some (0x142, f)
  | .scanMax f => some (0x14a, f)
  | .reduceAnd f => some (0x143, f)
  | .scanAnd f => some (0x14b, f)
  | .reduceOr f => some (0x144, f)
  | .scanOr f => some (0x14c, f)
  | .reduceXor f => some (0x145, f)
  | .scanXor f => some (0x14d, f)
  | .compact f => some (0x150, f)
  | .addFloat f => some (0x180, f)
  | .subFloat f => some (0x181, f)
  | .mulFloat f => some (0x182, f)
  | .minFloat f => some (0x183, f)
  | .maxFloat f => some (0x184, f)
  | .minp f => some (0x185, f)
  | .maxp f => some (0x186, f)
  | .absFloat f => some (0x187, f)
  | .negFloat f => some (0x188, f)
  | .sgn f => some (0x189, f)
  | .rint f => some (0x18a, f)
  | .fma f => some (0x580, f)
  | .fms f => some (0x581, f)
  | .fnma f => some (0x582, f)
  | .fnms f => some (0x583, f)
  | .cmpEqFloat f => some (0x1a0, f)
  | .cmpNeFloat f => some (0x1a1, f)
  | .cmpLtFloat f => some (0x1a2, f)
  | .cmpLeFloat f => some (0x1a3, f)
  | .cmpGtFloat f => some (0x1a4, f)
  | .cmpGeFloat f => some (0x1a5, f)
  | .cmpUn f => some (0x1a6, f)
  | .cmpOrd f => some (0x1a7, f)
  | .fclass f => some (0x1a8, f)
  | .ftest f => some (0x1a9, f)
  | .dot f => some (0x1c0, f)
  | .dota f => some (0x584, f)
  | .exp2 f => some (0x220, f)
  | .log2 f => some (0x221, f)
  | .rcp f => some (0x222, f)
  | .rsqrt f => some (0x223, f)
  | .sinpi f => some (0x224, f)
  | .cospi f => some (0x225, f)
  | .tanh f => some (0x226, f)
  | .divFloat f => some (0x228, f)
  | .sqrt f => some (0x229, f)
  | .cvt s f => some (0x200 + s.toNat, f)
  | .cvtx f => some (0x600, f)
  | .esel f => some (0x602, f)
  | .zipLo f => some (0x240, f)
  | .zipHi f => some (0x241, f)
  | .unzipEv f => some (0x242, f)
  | .unzipOd f => some (0x243, f)
  | .pk6 f => some (0x244, f)
  | .upk6 f => some (0x245, f)
  | .rngLo f => some (0x260, f)
  | .rngHi f => some (0x261, f)
  | .rngu f => some (0x262, f)
  | .rnguOc f => some (0x263, f)
  | .rngkLo f => some (0x660, f)
  | .rngkHi f => some (0x660, f)
  | .rngku f => some (0x660, f)
  | .rngkuOc f => some (0x660, f)
  | .rcpa f => some (0x1e0, f)
  | .ld f => some (0x280, f)
  | .st f => some (0x281, f)
  | .gath f => some (0x284, f)
  | .scat f => some (0x285, f)
  | .pref f => some (0x286, f)
  | .phase sc f => some (0x2a0 + sc.toNat, f)
  | .phaseK sc f => some (0x2a8 + sc.toNat, f)
  | .fence sc f => some (0x2b0 + sc.toNat, f)
  | .flushred => some (0x2b8, {})
  | .discard f => some (0x2b9, f)
  | .spill f => some (0x2bc, f)
  | .fill f => some (0x2bd, f)
  | .atomAddRet f => some (0x2c0, f)
  | .atomAdd f => some (0x2c8, f)
  | .atomMinRet f => some (0x2c1, f)
  | .atomMin f => some (0x2c9, f)
  | .atomMaxRet f => some (0x2c2, f)
  | .atomMax f => some (0x2ca, f)
  | .atomAndRet f => some (0x2c3, f)
  | .atomAnd f => some (0x2cb, f)
  | .atomOrRet f => some (0x2c4, f)
  | .atomOr f => some (0x2cc, f)
  | .atomXorRet f => some (0x2c5, f)
  | .atomXor f => some (0x2cd, f)
  | .atomXchg f => some (0x2c6, f)
  | .atomCas f => some (0x680, f)
  | .atomwinc f => some (0x2ea, f)
  | .waitv f => some (0x2e0, f)
  | .watch f => some (0x2e1, f)
  | .waitvW f => some (0x2e2, f)
  | .shape f => some (0x300, f)
  | .trec f => some (0x301, f)
  | .cpy f => some (0x302, f)
  | .cpym f => some (0x303, f)
  | .coll f => some (0x320, f)
  | .nwr f => some (0x321, f)
  | .nrd f => some (0x322, f)
  | .mfs f => some (0x380, f)
  | .trap f => some (0x381, f)
  | .kmap => some (0x381, { c := .imm 512 })
  | .kunmap => some (0x381, { c := .imm 513 })
  | .kmove => some (0x381, { c := .imm 514 })
  | .kend => some (0x381, { c := .imm 515 })
  | .kevent => some (0x381, { c := .imm 516 })
  | .kretire => some (0x381, { c := .imm 517 })
  | .tret f => some (0x3a0, f)
  | .mts f => some (0x3a1, f)
  | .sluice f => some (0x3a2, f)
  | .xlinvVa f => some (0x3a3, f)
  | .xlinvAsid f => some (0x3a4, f)
  | .xlinvAll f => some (0x3a5, f)
  | .xlsync f => some (0x3a6, f)
  | .tcfg f => some (0x340, f)
  | .team f => some (0x341, f)
  | .bclr f => some (0x342, f)
  | .mma f => some (0x343, f)
  | .mmat f => some (0x344, f)
  | .dmma f => some (0x345, f)
  | .dmmaStreamed f => some (0x740, f)
  | .bget f => some (0x346, f)
  | .bset f => some (0x347, f)
  | .tget f => some (0x348, f)
  | .tset f => some (0x349, f)
  | .drain f => some (0x360, f)
  | .prjsum f => some (0x361, f)
  | .prjadj f => some (0x362, f)
  | .mma16 f => some (0x378, f)
  | .ttrans f => some (0x379, f)
  | .nop => some (0x3c0, {})
  | .hreuse => some (0x3c1, {})
  | .hlikely => some (0x3c2, {})
  | _ => Option.none

/-- An S word (R116). -/
def encodeS (op : Nat) (f : Args) : Word :=
  (0b01#2 ++ BitVec.ofNat 10 op ++ f.guard ++ f.fmt ++ BitVec.ofBool f.ext ++ f.a.field ++ f.b.field ++ f.c.field : BitVec 64)

/-- Word 0 of a W frame (R121). -/
def encodeW0 (op : Nat) (f : Args) : Word :=
  (0b10#2 ++ BitVec.ofNat 12 op ++ f.a.field ++ f.guard ++ f.g1 ++ f.fmt ++ f.f1 ++ f.cache ++ f.delay ++ 0#3
    ++ f.rnd ++ f.scope ++ f.ord : BitVec 64)

/-- Word 1 of a W frame (R121, R122). -/
def encodeW1 (f : Args) : Word :=
  (0b11#2 ++ BitVec.ofBool f.ext ++ BitVec.ofBool f.ua ++ BitVec.ofBool f.lu ++ f.xmod
    ++ f.b.field ++ f.c.field ++ f.d.field ++ f.e.field : BitVec 64)

/-- A P half. -/
def encodeHalf : Instr → Option Code
  | .pNop h g => some (.half h (1#7 ++ g ++ 0#22 : BitVec 32))
  | .pMovN32 p => some (.half p.half (pArgsBits 0x2 p))
  | .pMovN64 p => some (.half p.half (pArgsBits 0x3 p))
  | .pAddI32 p => some (.half p.half (pArgsBits 0x4 p))
  | .pAddI64 p => some (.half p.half (pArgsBits 0x5 p))
  | .pSubI32 p => some (.half p.half (pArgsBits 0x6 p))
  | .pSubI64 p => some (.half p.half (pArgsBits 0x7 p))
  | .pMulI32 p => some (.half p.half (pArgsBits 0x8 p))
  | .pAndN64 p => some (.half p.half (pArgsBits 0x9 p))
  | .pOrN64 p => some (.half p.half (pArgsBits 0xa p))
  | .pXorN64 p => some (.half p.half (pArgsBits 0xb p))
  | .pAddI32Imm p => some (.half p.half (pImmBits 0xc p))
  | .pShlN32Imm p => some (.half p.half (pImmBits 0xd p))
  | .pShrN32Imm p => some (.half p.half (pImmBits 0xe p))
  | .pSarI32Imm p => some (.half p.half (pImmBits 0xf p))
  | .pAddF32 p => some (.half p.half (pArgsBits 0x10 p))
  | .pSubF32 p => some (.half p.half (pArgsBits 0x11 p))
  | .pMulF32 p => some (.half p.half (pArgsBits 0x12 p))
  | .pMaxF32 p => some (.half p.half (pArgsBits 0x13 p))
  | .pMinF32 p => some (.half p.half (pArgsBits 0x14 p))
  | .pMovN8 p => some (.half p.half (pArgsBits 0x15 p))
  | .pMovN16 p => some (.half p.half (pArgsBits 0x16 p))
  | .pAddI16 p => some (.half p.half (pArgsBits 0x17 p))
  | .pAddF64 p => some (.half p.half (pArgsBits 0x20 p))
  | .pMulF64 p => some (.half p.half (pArgsBits 0x21 p))
  | .pAddBf16 p => some (.half p.half (pArgsBits 0x22 p))
  | .pMulBf16 p => some (.half p.half (pArgsBits 0x23 p))
  | .pAddF16 p => some (.half p.half (pArgsBits 0x24 p))
  | .pMulF16 p => some (.half p.half (pArgsBits 0x25 p))
  | .pMovI32Imm p => some (.half p.half (pImmBits 0x26 p))
  | _ => Option.none

/-- The code of an instruction; `none` for an event or a command, which is no word of a program. -/
def encode (i : Instr) : Option Code :=
  match i.opArgs with
  | some (op, f) => some (if f.wide then .two (encodeW0 op f) (encodeW1 f) else .one (encodeS op f))
  | Option.none => encodeHalf i

/-- The opcode's own field rules hold of an instruction (R131). -/
def Instr.legal (i : Instr) : Bool :=
  match i.opArgs with
  | some (op, f) =>
    if isHint op then true
    else match entry op with
      | some en => en.spec.ok f && decide (en.make f = i)
      | Option.none => false
  | Option.none => true

end Sys2Proof
end

