-- ==== Sys2Proof/Config.lean ====
section
/-! DEFINITION. What the spec leaves open or hands to an outside standard: opaque constants, no value of which can be proved. -/

namespace Sys2Proof

/-- Nanoseconds that pass in step `n` (log entry 2: the spec bounds no step's time). -/
opaque Config.elapsedNs : Nat → Nat
/-- Arithmetic clocks that pass in step `n` (log entry 2). -/
opaque Config.elapsedClocks : Nat → Nat
/-- Whether a sector reads its old value after `DISCARD` (R107: the choice is open, per sector; log entry 16). -/
opaque Config.discardKeepsOld : Nat → Bool
/-- Bytes of a collective's destination after its parties disagreed (R218: any value; log entry 17). -/
opaque Config.collFreeByte : Nat → Byte
/-- Whether a sector of an abandoned transfer was written (R219: open, per sector; log entry 17). -/
opaque Config.abandonWrote : Nat → Bool
/-- Whether a copied L1 sector is evicted before load number `n` (R90: at any time; log entry 6). -/
opaque Config.evicts : Nat → Bool
/-- The step at which an engine's write of a byte reaches home, where its stamp does not come first, by job and address (R103;
log entry 85). -/
opaque Config.lands : Nat → Nat
/-- Whether a tile operation waits for an earlier one of another furrow that nothing orders before it (R256: each word is
seen as it was or as written; log entry 27). -/
opaque Config.raceWaits : Nat → Bool
/-- EBITS of a class whose error exceeds 1 (R273 states no value; log entry 19). -/
opaque Config.freeEbits : Nat → BitVec 6
/-- The device identity key (R337): its secret seed, the secret of its randomiser, its public seed and its root, 32 bytes each. -/
opaque Config.identityKey : List Byte
/-- The random string that the signer of a quote draws (FIPS 205; log entry 13). -/
opaque Config.quoteRandom : List Byte → List Byte
/-- The module's ML-KEM-1024 decapsulation key (R315; each module has its own). -/
opaque Config.mlkemKey : List Byte
/-- The XTS key pair and the tag key that the module generates, by a number that no two jobs share; 0 is the free pool's
(R332). -/
opaque Config.xtsPair : Nat → BitVec 512
opaque Config.tagKey : Nat → BitVec 256
/-- Bytes of a services or kernel image (R338, R339 give its address alone; log entry 58), and the version that a kernel image states
(R336; log entry 13). -/
opaque Config.imageBytes : Nat
opaque Config.imageVersion : List Byte → Nat
/-- The services image that the dies start with at power-on (R336; the spec does not say where it lies). -/
opaque Config.servicesImage : List Byte
/-- TYPE of the command that raises a fused minimum (R339 names no TYPE; log entry 34). -/
opaque Config.fusedType : BitVec 8
/-- The module's serial number (R337; each module has its own). -/
opaque Config.serial : Word
/-- The endorsed public keys that QUERY returns (R315, R316; each module has its own). -/
opaque Config.publicKeys : List Word

end Sys2Proof
end

