-- ==== Sys2Proof/Machine/State.lean ====
section
/-! DEFINITION. The state of the module, as plain data: everything the spec gives it (INVENTORY.md, State), and the
outcomes a step can stop with. -/

namespace Sys2Proof.Machine

/-- Why a step stops with a fault. Every fault the spec describes is taken (a next state); these are not the spec's. -/
inductive Fault
  /-- Raised by an access to a physical address outside R320's ranges. Safe: the spec says no memory is there. -/
  | noMemory
deriving DecidableEq, Repr

/-- Why a step is refused. -/
inductive Refusal
  /-- Raised by no meaning: an arm of `exec` whose instruction has no meaning yet. Safe. -/
  | notModelled (mnemonic : String)
deriving DecidableEq, Repr

/-! ### Furrows -/

/-- One lane: 1,024 slices of 4 bits, slice `k` in bits [4k+3:4k] (R41), with a poison bit each (R49). -/
structure Lane where
  data   : BitVec 4096 := 0
  poison : BitVec 1024 := 0
deriving DecidableEq, Repr

/-- One entry of the latch window: a 64-bit value per lane, with poison (R53). -/
structure LatchEntry where
  vals   : List Word
  poison : Mask
deriving DecidableEq, Repr

/-- One entry of the split table (R19), with its pass count (R21). -/
structure Split where
  valid : Bool := false
  pc    : Word := 0
  mask  : Mask := 0
  pass  : Nat := 0
  /-- stalled until an entry frees (R19) -/
  held  : Bool := false
deriving DecidableEq, Repr

/-- Comparisons of a wait (R144, R206). -/
inductive Cmp
  | ge | eq | ne
deriving DecidableEq, Repr

/-- A watch slot (R207, R329). -/
structure WatchSlot where
  armed : Bool := false
  fired : Bool := false
  addr  : Word := 0
  value : Word := 0
  cmp   : Cmp := .ge
  scope : BitVec 3 := 3
deriving DecidableEq, Repr

/-- A silo or held-store entry (R91), with the poison of the bytes it holds (R196). -/
structure SiloEntry where
  /-- physical sector, and the virtual sector the store named (R103's regions are virtual) -/
  sector : Nat
  va     : Nat
  data   : BitVec 512
  mask   : BitVec 64
  tag    : BitVec 7
  vis    : Bool
  poison : Bool
  /-- the number of the entry within its plot, by which a restarted region knows its own (R37, R108) -/
  num    : Nat := 0
deriving DecidableEq, Repr

/-- What `REGION` records (R36), and the restarts in a row (R37). `pc` is the frame after the `REGION`. -/
structure RegionRec where
  at_      : Word
  pc       : Word
  splits   : List Split
  masks    : List Mask
  yields   : Nat
  restarts : Nat
  /-- the furrow's own stores at the `REGION` that are not plot-visible (R108) -/
  own      : List SiloEntry := []
deriving DecidableEq, Repr

/-- What an access needs of a page (R321). -/
inductive Access
  | load | store | atomic | fetch
deriving DecidableEq, Repr

/-- A trap record's fields (R328). -/
structure TrapRec where
  cause   : Cause
  code    : BitVec 10 := 0
  pc      : Word := 0
  w0      : Word := 0
  w1      : Word := 0
  lanes   : Mask := 0
  split   : Mask := 0
  addr    : Word := 0
  arrived : Mask := 0
  barId   : BitVec 3 := 0
  yokeJ   : BitVec 16 := 0
  returned : Bool := false
  /-- when the fault was met, where its record had to wait for room -/
  time    : Option Nat := none
deriving DecidableEq, Repr

/-- What a furrow of the machine is doing (R17, R23, R27, R325). -/
inductive FStatus
  /-- there is no furrow here -/
  | absent
  /-- ready to issue -/
  | ready
  /-- waiting in the `YIELD.W` at `at_` (R146); its split already stands at the label -/
  | waitStamp (addr value : Word) (cmp : Cmp) (scope : BitVec 3) (at_ : Word)
  /-- its stamp reached the value; it waits for an active slot (R27) -/
  | reactivate
  /-- waiting in `WAITV` (R206) -/
  | waitValue (addr value : Word) (cmp : Cmp) (scope : BitVec 3)
  /-- waiting in `WAITV.W` (R207); its destination where the split has an active lane -/
  | waitWatch (xd : Option (BitVec 6)) (slots : BitVec 4)
  /-- waiting in `WAITT`; for `waitt.d`, its destination, active lanes and the poison it read (R147) -/
  | waitTime (t : Word) (dest : Option (Operand × Mask × Bool))
  /-- arrived at a barrier (R148) -/
  | barrier (n : BitVec 3)
  /-- arrived at a yoke (R234) -/
  | yoke (j : Nat)
  /-- past a `DRAIN` whose support sizes it still receives (R245; log entry 26) -/
  | counts
  /-- waiting for a translation; `req` is its fault-queue entry, once written (R322) -/
  | translate (va : Word) (acc : Access) (req : Option Nat)
  /-- waiting for room in the trap queue (R325) -/
  | trapFull (r : TrapRec)
  /-- saved by a trap, its record's sequence number, when it was written and where it lies (R325, R327) -/
  | trapped (seq : Nat) (cause : Cause) (atNs : Nat) (at_ : Nat)
  /-- waiting for an active slot or for room on its core (R224, R25) -/
  | returning
  /-- saved at a yield by a pre-emption (R33) -/
  | saved
  /-- ended -/
  | ended
deriving DecidableEq, Repr

/-- Where a furrow came from (R139, R140, R143). -/
inductive FurKind
  | granted | callee | continuation | spawned
deriving DecidableEq, Repr

/-- A furrow's context (R62) and its place on the core (R23, R26). -/
structure Furrow where
  id       : Nat := 0
  plot     : Nat := 0
  status   : FStatus := .absent
  logical  : BitVec 5 := 0
  kind     : FurKind := .granted
  /-- the frame of the call that created it, or the frame it inherited (R140) -/
  ownFrame : Option Word := none
  entryVa  : Word := 0
  budget   : Nat := 64
  priv     : Bool := false
  obj      : Word := 0
  codeLo   : Word := 0
  codeHi   : Word := 0
  deadline : Nat := 4096
  granted  : Mask := 0
  lanes    : List Lane := List.replicate 32 {}
  /-- `m1` to `m15`, at index k − 1 -/
  masks    : List Mask := List.replicate 15 0
  xregs    : List Word := List.replicate 64 0
  xpoison  : BitVec 64 := 0
  latches  : List LatchEntry := []
  splits   : List Split := List.replicate 4 {}
  yields   : Nat := 0
  ctx      : BitVec 7 := 0
  gen      : BitVec 16 := 0
  tag      : BitVec 7 := 0
  watch    : List WatchSlot := List.replicate 4 {}
  region   : Option RegionRec := none
  yokes    : Nat := 0
  active   : Bool := false
  /-- active slot 0 to 31 (R23) -/
  slot     : Nat := 0
  waited   : Nat := 0
  /-- the step at which its wait count reached 64 (R26) -/
  cappedAt : Nat := 0
  entered  : Nat := 0
  waitFrom : Nat := 0
  /-- the clock at which its wait began (R23) -/
  waitClk  : Nat := 0
  /-- the quadrant that its grant filled (R23) -/
  quad     : Nat := 0
  /-- its context area (R330): virtual and physical address, 0 when none is reserved -/
  ctxVa    : Word := 0
  ctxPa    : Nat := 0
  /-- an access that the services refused (R322) -/
  refused  : Option (Word × Access) := none
  /-- the split in the issue stage, and the program counter after its instruction (the model's own cursor) -/
  cur      : Nat := 0
  npc      : Word := 0
deriving DecidableEq, Repr

/-! ### Plots -/

/-- A tile register (R58): control word; its 32 KiB by byte, row i at i × (RBYTES + 1), absent is 0; scales by scale
index, absent is 0x7F. -/
structure Tile where
  ctl    : BitVec 32 := 0
  bytes  : List (Nat × Byte) := []
  scales : List (Nat × Byte) := []
deriving DecidableEq, Repr

/-- A bin (R59): header; elements at 128 × row + column, absent is +0; harrow records by row, absent is 0 (R244). -/
structure Bin where
  step   : Nat := 0
  steps  : Nat := 0
  busy   : Bool := false
  parked : Bool := false
  link   : Nat := 0
  elems  : List (Nat × BitVec 32) := []
  recs   : List (Nat × BitVec 256) := []
deriving DecidableEq, Repr

/-- A matrix operand: a tile of the plot, or a shape record that streams it (R235). -/
inductive MatOp
  | tile (k : Nat)
  | stream (va : Word) (rec : BitVec 512)
deriving DecidableEq, Repr

/-- What a sequencer operation does (R235 to R255): `mma` and `dmma` with the shapes M, N and K (or M, N, Kin). -/
inductive SeqKind
  | mma (bin : Nat) (a b : MatOp) (trans splitA splitB : Bool) (m n k : Nat)
  | dmma (binX binW : Nat) (dy x w : MatOp) (m n kin : Nat)
  | bclr (bin : Nat)
  | drain (sel len : Nat) (given : Bool) (p1 p2 : BitVec 32) (rnd : BitVec 3) (count : Operand)
  | prjsum (mode len : Nat) (p1 : BitVec 32)
  | prjadj (len : Nat) (p1 : BitVec 32) (rnd : BitVec 3)
  | ttrans (dst src : Nat)
deriving DecidableEq, Repr

/-- A queued sequencer operation (R240), with the tiles and bins it names in chain order (`tiles` then `tiles2` for an
adjoint's cotangent). `issuers` are the logical furrows that issued it and `before` those whose later operations it is
ordered before (R229, R256). -/
structure SeqOp where
  id      : Nat
  plot    : Nat
  fur     : Nat
  logical : BitVec 5
  pc      : Word
  off     : Nat
  kind    : SeqKind
  tiles   : List Nat
  tiles2  : List Nat := []
  bins    : List Nat
  steps   : Nat := 1
  step    : Nat := 0
  started : Bool := false
  running : Bool := false
  parked  : Bool := false
  retried : Bool := false
  va      : Nat := 0
  req     : Option Nat := none
  issuers : Mask
  before  : Mask
  /-- furrows that receive `DRAIN`'s second destination, with its lanes (R234, R245) -/
  listed  : List (Nat × Mask) := []
  /-- regions of its streamed operands (R238) -/
  regions : List (Nat × Nat × Bool) := []
  /-- elements read for the step under way: row, column, bits and scale byte of each streamed operand -/
  readA   : List (Nat × Nat × Nat × Nat) := []
  readB   : List (Nat × Nat × Nat × Nat) := []
deriving DecidableEq, Repr

/-- A barrier in use (R148, R341). `fur` is the first arrival, at clock `since`. -/
structure Barrier where
  n       : BitVec 3
  parts   : Mask
  arrived : Mask
  fur     : Nat
  since   : Nat
deriving DecidableEq, Repr

/-- A yoke in use (R234): the reference instruction, the value of its x-register and uniform sources, the first
arrival and the furrows that have arrived. -/
structure Yoke where
  j       : Nat
  instr   : Instr
  ref     : List Word
  arrived : Mask
  fur     : Nat
  since   : Nat
deriving DecidableEq, Repr

/-- A copy channel of a plot (R212); `addr` and `got` hold the bytes 8 to 15 that stores have given so far (log entry 21). -/
structure Channel where
  valid : Bool := false
  index : Word := 0
  addr  : Word := 0
  got   : BitVec 8 := 0
deriving DecidableEq, Repr

/-- A frame in use (R292), with what its continuation is granted (R140). -/
structure FrameUse where
  /-- the plot whose call took it -/
  plot    : Nat := 0
  n       : Nat
  obj     : Word
  budget  : Nat
  logical : BitVec 5
  parent  : Option Word
  /-- in a checkpoint: its JOIN as it stood (R293) -/
  join    : Nat := 0
deriving DecidableEq, Repr

/-- What a queued furrow is (R139, R140, R143). -/
structure Queued where
  kind    : FurKind
  plot    : Nat
  entryVa : Word
  pc      : Word
  obj     : Word
  budget  : Nat
  logical : BitVec 5
  mask    : Mask
  xregs   : List Word
  xpoison : BitVec 64
  frame   : Option Word
  parent  : Option Word
deriving DecidableEq, Repr

/-- A checkpoint (R38): full furrow contexts, bins, tiles, team register; the flags that had accumulated (R68), and the
counts of buffered reductions (R100). -/
structure Checkpoint where
  furs  : List Furrow
  tiles : List Tile
  bins  : List Bin
  team  : Mask
  flags : BitVec 6
  redCount : List ((Nat × Nat) × Nat)
  /-- sequencer operations under way, at their step boundaries (R329) -/
  ops   : List SeqOp
  /-- its queued furrows, and the frames that its calls had taken -/
  queue : List Queued
  frames : List FrameUse
  /-- its copy channels (R212) -/
  chans : List Channel := List.replicate 16 {}
  /-- number of the next unit when it was taken: copies numbered below were issued before it (R40) -/
  at_   : Nat
deriving DecidableEq, Repr

/-- Where a plot stands (R22, R25, R33, R38). -/
inductive PStatus
  | absent
  /-- sent to its die, not yet placed -/
  | atDie
  | resident
  /-- its furrows have left for a pre-emption; its bins and tiles are not saved yet (R33) -/
  | leaving
  | saved
  /-- rolled back, waiting for its stamps and a core (R38) -/
  | rolledBack
  /-- its furrows have ended; engine jobs still hold its commit (R16, R103) -/
  | ending
  | ended
deriving DecidableEq, Repr

/-- A buffered reduction (R100): its sort key, its target and its operation. -/
structure RedEntry where
  key   : Nat × Nat × Nat × Nat
  pa    : Nat
  op    : BitVec 3
  fmt   : BitVec 5
  rnd   : BitVec 3
  scope : BitVec 3 := 3
  val   : Word
  plot  : Nat
deriving DecidableEq, Repr

/-- How the second run of a sampled plot stands to the first: alike at every commit point; relaunching from the last agreed
checkpoint (R40); or at an end of its own (R39, R325). -/
inductive SecondRun
  | alike
  | behind
  | apart (end_ : RunEnd)
deriving DecidableEq, Repr

/-- A plot (R14): its place, its silo, its tiles and bins, its synchronisation. -/
structure Plot where
  id       : Nat := 0
  launch   : Nat := 0
  status   : PStatus := .absent
  lplot    : Nat := 0
  lcore    : Nat := 0
  tag      : BitVec 24 := 0
  die      : Nat := 0
  core     : Nat := 0
  granted  : Bool := false
  siloUnits : Nat := 1
  silo     : List SiloEntry := []
  held     : List SiloEntry := []
  tiles    : List Tile := []
  bins     : List Bin := []
  team     : Mask := 0
  yokes    : List Yoke := []
  bars     : List Barrier := []
  chans    : List Channel := List.replicate 16 {}
  /-- sequencer operations saved by a pre-emption (R33, R260) -/
  savedOps : List SeqOp := []
  flags    : BitVec 6 := 0
  barto    : Nat := 1048576
  cruise   : Nat := 10
  /-- `TRAPQ` and `FAULTQ` as they stood when the plot started (R223) -/
  trapq    : Word := 0
  faultq   : Word := 0
  /-- its buffered reductions that staging did not take when it left its core (R100) -/
  savedRed : List RedEntry := []
  /-- number of its next silo entry -/
  entryNum : Nat := 0
  sampled  : Bool := false
  /-- the core of a sampled plot's second run; 0 where it has none (R39) -/
  twin     : Nat := 0
  /-- how its second run stands to the first, which is the one that the state holds (R39, R40) -/
  second   : SecondRun := .alike
  /-- a job-ending fault of its first run that is held for the second (R325) -/
  runFault : Option Cause := none
  preempt  : Bool := false
  /-- logical indices of the furrows the plot has had (R148) -/
  had      : Mask := 0
  /-- earlier buffered reductions per (furrow, lane) (R100) -/
  redCount : List ((Nat × Nat) × Nat) := []
  check    : Option Checkpoint := none
  /-- sectors whose remote-data-cache copies older than this step it does not use (R95) -/
  acqAt    : Nat := 0
  /-- poisoned sectors that its loads have read since its start or relaunch, and before its last relaunch (R333) -/
  eccSeen  : List Nat := []
  eccAt    : List Nat := []
  /-- its plot-context area (R330): virtual and physical address, 0 when none is reserved -/
  ctxVa    : Word := 0
  ctxPa    : Nat := 0
  /-- where the contexts of its furrows lie, by logical index (R330) -/
  fursVa   : Nat := 0
  fursPa   : Nat := 0
  /-- where the checkpoint copies of both areas lie (R330) -/
  copyPa   : Nat := 0
  fursCopy : Nat := 0
  /-- pages of its held-store area (R330) -/
  heldPages : Nat := 1
deriving DecidableEq, Repr

/-! ### Launches, graphs, seasons, jobs -/

/-- A completion record (R15) and where it lies. -/
structure Comp where
  va     : Word := 0
  pa     : Nat := 0
  done   : Nat := 0
  failed : Nat := 0
  status : BitVec 3 := 0
  detres : Bool := false
  cause  : BitVec 8 := 0
  tend   : Word := 0
deriving DecidableEq, Repr

structure Launch where
  id      : Nat := 0
  job     : Nat := 0
  graph   : Nat := 0
  stage   : Nat := 0
  live    : Bool := false
  comp    : Comp := {}
  det     : Bool := false
  heat    : Nat := 0
  lcount  : Nat := 0
  seed    : Word := 0
  obj     : Word := 0
  /-- the class table copied at acceptance, 16 entries (R274) -/
  classes : List (BitVec 128) := []
  flagw   : Word := 0
  spill   : Word := 0
  stageVa : Word := 0
  stageN  : Nat := 0
  sv      : List (BitVec 32) := []
  args    : List Word := []
  cores   : List Nat := []
  entryVa : Word := 0
  plots   : Nat := 0
  furrows : Nat := 1
  dim     : Nat := 0
  budget  : Nat := 64
  tiles   : Nat := 0
  bins    : Nat := 0
  next    : Nat := 0
  staged  : List RedEntry := []
  /-- contributions that the collective engine has received: logical plot and SEQ (R40) -/
  contrib : List (Nat × Nat) := []
  cancel  : Bool := false
  cause   : Option Cause := none
  /-- graph slots of this stage's start (R290): taken slot, first reserved slot, number -/
  taken   : Option Nat := none
  reserve : Option Nat := none
deriving DecidableEq, Repr

/-- States of a slot of an edge (R290). -/
inductive SlotState
  | free | reserved | produced | empty | taken
deriving DecidableEq, Repr

structure Edge where
  base     : Word
  capacity : Nat
  slotsz   : Nat
  ri       : Nat := 0
  ti       : Nat := 0
  slots    : List (Nat × SlotState) := []
deriving DecidableEq, Repr

structure Stage where
  template : Word
  inEdge   : Option Nat
  outEdge  : Option Nat
  outCount : Nat
  instances : Nat
  started  : Nat := 0
  running  : Nat := 0
  /-- cores that serve it now (R29) -/
  share    : List Nat := []
deriving DecidableEq, Repr

structure Graph where
  id      : Nat := 0
  job     : Nat := 0
  season  : Nat := 0
  comp    : Comp := {}
  dies    : BitVec 4 := 0
  cperdie : Nat := 0
  cores   : List Nat := []
  stages  : List Stage := []
  edges   : List Edge := []
  cancel  : Bool := false
  cause   : Option Cause := none
deriving DecidableEq, Repr

structure Season where
  id     : Nat := 0
  job    : Nat := 0
  comp   : Comp := {}
  cancel : Bool := false
  cause  : Option Cause := none
deriving DecidableEq, Repr

/-- A window (R319). -/
structure Window where
  isOpen : Bool := false
  base   : Word := 0
  len    : Nat := 0
  rd     : Bool := false
  wr     : Bool := false
  host   : Bool := false
  any    : Bool := false
  peer   : BitVec 16 := 0
deriving DecidableEq, Repr

/-- A loaded code object (R278 to R284): its header, entry records and maps as they stand in its read-only image. -/
structure CodeObj where
  va      : Word := 0
  hdr     : BitVec 1024 := 0
  entries : List (BitVec 256) := []
  maps    : List (Nat × BitVec 128) := []
  regions : List Nat := []
  bind    : Word := 0
  /-- the binding record as it was written at the load: STATUS, and the index with which it refuses (R308, R310) -/
  failed  : Bool := false
  classes : Bool := false
  priv    : Bool := false
deriving DecidableEq, Repr

/-- Pages that the kernel has placed in a job's space for a plot, or for completion records (plot 0). -/
structure Area where
  va    : Nat
  pa    : Nat
  pages : Nat
  plot  : Nat
deriving DecidableEq, Repr

structure Job where
  id       : Nat := 0
  live     : Bool := false
  asid     : BitVec 16 := 0
  slot     : Nat := 0
  comp     : Comp := {}
  root     : Nat := 0
  regions  : List RegionDesc := []
  arenaVa  : Word := 0
  arenaN   : Nat := 0
  /-- allocated frames of the arena (R292) -/
  frames   : List FrameUse := []
  ctableVa : Word := 0
  ctableN  : BitVec 12 := 0
  keySlot  : BitVec 12 := 0
  /-- what its key slot carries (R332): the XTS key pair and K_tag -/
  xts      : BitVec 512 := 0
  ktag     : BitVec 256 := 0
  windows  : List Window := List.replicate 64 {}
  pagesNear : Nat := 0
  pagesFar  : Nat := 0
  legmc    : Nat := 0
  legtr    : Nat := 0
  objs     : List CodeObj := []
  cancel   : Bool := false
  faulted  : Option Cause := none
  /-- completion records of its units that have ended: level, address (R150) -/
  pastRecs : List (Nat × Word) := []
  /-- what the kernel keeps in its space above the regions (R15, R330): context areas and completion records -/
  areas    : List Area := []
  /-- completion records made so far -/
  comps    : Nat := 0
  /-- a `JOBDEL` that waits for the job's units to end (R316): the slot that its response goes to -/
  deleting : Option Nat := none
  /-- the trap record that EVJOBEND carries, and the split tables that follow it (R328, R343) -/
  endBody  : List Word := []
deriving DecidableEq, Repr

/-! ### Cores and the memory system -/

/-- A translation (R321, R322). -/
structure TlbEntry where
  asid : BitVec 16
  va   : Nat
  size : Nat
  pa   : Nat
  r    : Bool
  w    : Bool
  x    : Bool
  p    : Bool
deriving DecidableEq, Repr

/-- A clean copy of a sector (R88, R90); `at_` is the step that filled it. -/
structure SectorCopy where
  sector : Nat
  data   : BitVec 512
  poison : Bool
  at_    : Nat
deriving DecidableEq, Repr

structure Core where
  id      : Nat := 0
  l1      : List SectorCopy := []
  tlb     : List TlbEntry := []
  seq     : List SeqOp := []
  red     : List RedEntry := []
  callq   : List Queued := []
  /-- generation of each context number, absent is 0 (R51) -/
  gens    : List (Nat × BitVec 16) := []
  idle    : Nat := 0
  /-- the quadrant that the next grant fills (R23) -/
  nextQuad : Nat := 0
  throttled : Bool := false
  /-- powered down by a drain-down (R358) -/
  off     : Bool := false
deriving DecidableEq, Repr

/-- A checker record (R98). -/
structure CheckRec where
  line   : Nat
  scope  : BitVec 3
  die    : Nat
  core   : Nat
  remote : Bool
  ptag   : BitVec 24
deriving DecidableEq, Repr

/-- A return in flight (R51): what it writes, if the generation still matches. -/
inductive RetData
  | value (dst : Operand) (signed : Bool) (width : Nat) (vals : List (Option (Word × Bool)))
  | fill (items : List (Nat × Nat × Word × BitVec 16))
deriving DecidableEq, Repr

structure Ret where
  id     : Nat
  fur    : Nat
  core   : Nat
  ctx    : BitVec 7
  gen    : BitVec 16
  atomic : Bool
  data   : RetData
  /-- the clock at which it was asked for (R23) -/
  at_    : Nat := 0
deriving DecidableEq, Repr

/-- Kinds of engine job (R212, R217). -/
inductive JKind
  | copy | relay | coll | nwr | nrd
deriving DecidableEq, Repr

/-- An engine job (R102, R104). `card` is the copy template or the job card, `src` and `dst` the shape records. -/
structure EJob where
  id      : Nat
  kind    : JKind
  plot    : Nat
  launch  : Nat
  job     : Nat
  core    : Nat
  fur     : Nat
  pc      : Word
  off     : Nat
  chan    : Nat
  /-- as for a sequencer operation: who issued it, and whose later tile operations follow it (R229, R256) -/
  issuers : Mask := 0
  before  : Mask := 0
  card    : BitVec 512
  src     : BitVec 512
  dst     : BitVec 512
  /-- the chain table of a relay, as read at issue (R210; log entry 22) -/
  chain   : List (BitVec 128) := []
  /-- base, length, written -/
  regions : List (Nat × Nat × Bool)
  started : Bool := false
  performed : Bool := false
  hop     : Nat := 0
  fault   : Bool := false
  oflow   : Bool := false
  cause   : BitVec 8 := 0
  first   : Nat := 0
  rollback : Bool := false
  /-- a hop of the chain was not written, and no later one is (R215) -/
  broken  : Bool := false
  /-- the send, or the last acknowledgement since (R312) -/
  sentNs  : Nat := 0
  /-- bytes that it has written and that may still read as they were until its stamp: address, old, new (R103) -/
  old     : List (Nat × Byte × Byte) := []
  /-- pages the services refused, and the request waited for (R216, R322) -/
  refused : List Nat := []
  waiting : Option (Nat × Option Nat) := none
deriving DecidableEq, Repr

/-! ### Fleet side -/

/-- A step of a drain-down under way (R358). -/
structure DrainState where
  step    : Nat
  leak    : Bool
  repeated : Bool
  /-- when the step began, in ns -/
  since   : Nat := 0
deriving DecidableEq, Repr

structure Zone where
  /-- the sluice entry (R349) -/
  entry   : BitVec 64 := 0x3014195F3C00002A
  /-- end of the settling timer in ns (R351), and the effective step while it runs -/
  timer   : Option Nat := none
  effHeld : Nat := 10
  drain   : Option DrainState := none
  /-- an excursion entry has been written since the last passing sample (R353) -/
  excursion : Bool := false
  respStep : Nat := 0
  respAt  : Nat := 0
  lowPressure : Nat := 0
  limited : Bool := false
  onlyClass0 : Bool := false
  passSince : Nat := 0
  sensorsRetired : List Nat := []
  suspended : List (Nat × Nat) := []
  offsets : List (Nat × Int) := []
  lastTout : Nat := 0
  /-- the last sample of each temperature sensor (R355) -/
  temps    : List (Nat × Int) := []
deriving DecidableEq, Repr

/-- The clock states of R340, coded as R347. -/
inductive ClockState
  | free | acquiring | locked | holdover
deriving DecidableEq, Repr

structure Clock where
  state    : ClockState := .free
  domain   : BitVec 16 := 0
  /-- the message intervals in ns: synchronisation, announce, delay request (R316) -/
  interval : Nat := 0
  announce : Nat := 0
  delayReq : Nat := 0
  lockAt   : Nat := 0
  leftLock : Nat := 0
  inARow   : Nat := 0
  stepped  : Bool := false
  lastSync : Nat := 0
  holdFrom : Nat := 0
deriving DecidableEq, Repr

structure TSlot where
  num   : Nat
  key   : BitVec 256
  near  : Nat
  far   : Nat
  jobs  : Nat
  seq   : Nat := 0
  authFail : Nat := 0
deriving DecidableEq, Repr

structure PortState where
  up       : Bool := false
  linkdown : Nat := 0
  refused  : Nat := 0
  /-- transport negative acknowledgements sent (R311) -/
  nacks    : Nat := 0
deriving DecidableEq, Repr

/-- The configuration store, kept without power (R315). -/
structure Store where
  slotA  : Option KernelImage := none
  slotB  : Option KernelImage := none
  minA   : Nat := 0
  minB   : Nat := 0
  number : BitVec 16 := 0
  key    : Option (BitVec 256) := none
  epoch  : BitVec 32 := 0
  /-- the decapsulation key made at manufacture -/
  dk     : List Byte := Config.mlkemKey
deriving DecidableEq, Repr

/-- Per die: running kernel, measurement registers, isolation (R336, R358). -/
structure DieState where
  kernel    : Option Nat := none
  measured  : BitVec 512 := 0
  services  : BitVec 512 := 0
  updates   : BitVec 32 := 0
  isolated  : Bool := false
deriving DecidableEq, Repr

/-- A counting window's figures and event times (R334). -/
structure Window334 where
  cls : EventClass
  t   : Nat
  w   : Nat
deriving DecidableEq, Repr

/-- A services image that still finishes what it has read (R338): since when, and the highest SEQ of each queue that it has
read. -/
structure OldImage where
  since  : Nat
  faults : Nat
  traps  : Nat
  /-- fault-queue entries of page requests that it has read and still finishes -/
  unfinished : List Nat := []
deriving DecidableEq, Repr

structure Fleet where
  store    : Store := {}
  /-- the mask ROM has booted the dies since power came on (R336) -/
  booted   : Bool := false
  dies     : List DieState := List.replicate 4 {}
  slots    : List TSlot := []
  mgmtSeq  : Nat := 0
  mgmtAuthFail : Nat := 0
  outSeq   : Nat := 1
  /-- responses and events, signed (R313, R314) -/
  out      : List CmdHdr := []
  /-- commands that wait until an earlier one of their slot has completed (R314) -/
  held     : List (Instr × Input × CmdHdr) := []
  ports    : List PortState := List.replicate 32 {}
  /-- the peer table: module number and fabric address (R312) -/
  peers    : List (BitVec 16 × Word) := []
  windows  : List Window334 := [⟨.coreFault, 3, 86400000000000⟩, ⟨.coreCorrected, 64, 3600000000000⟩,
    ⟨.sliceUncorrectable, 2, 86400000000000⟩, ⟨.channelUncorrectable, 4, 86400000000000⟩,
    ⟨.channelCorrected, 1024, 3600000000000⟩, ⟨.bridgeRetry, 10000, 1000000000⟩, ⟨.portFcs, 1000, 1000000000⟩,
    ⟨.sensorImplausible, 3, 3600000000000⟩]
  events   : List (EventClass × UnitId × Nat) := []
  retired  : List UnitId := []
  security : BitVec 32 := 0
  pendingKernel : Option (Nat × KernelImage) := none
  swapped  : Bool := false
  /-- the services image of the last `UPDSVC` since power-on (R338) -/
  servicesImage : Option (List Byte) := none
  /-- the old services image still finishes entries, since this time (R338) -/
  oldServices : Option OldImage := none
  /-- far-memory channels that leave service once no engine uses their pages (R359) -/
  draining : List Nat := []
  capLevel : Nat := 0
  /-- the module's power measurements of the last 10 ms in mW, newest first (R356) -/
  powers   : List Nat := []
deriving DecidableEq, Repr

/-- A check that has failed in the background, and ends the job of its plot once the step is done (R100, R326). -/
structure Pending where
  plot  : Nat
  pa    : Nat
  cause : Cause
deriving DecidableEq, Repr

/-! ### The module -/

/-- What moves next when a schedule says so: an event with its input, or a furrow by number. -/
inductive Turn
  | event (i : Instr) (x : Input)
  | furrow (id : Nat)
deriving DecidableEq, Repr

structure State where
  /-- the furrow, plot, launch, job and core in the issue stage; the others are in the lists -/
  fur      : Furrow
  plot     : Plot
  launch   : Launch
  job      : Job
  core     : Core
  furs     : List Furrow
  plots    : List Plot
  launches : List Launch
  jobs     : List Job
  cores    : List Core
  graphs   : List Graph
  seasons  : List Season
  /-- physical memory: bytes at rising addresses, none equal to what an unlisted address reads as -/
  mem      : List Host.Cell
  /-- poisoned sectors, rising (R196) -/
  poisoned : List Nat
  /-- sectors of far memory with a dirty copy at their home slice, and what lies in the memory beneath it (R88, R107) -/
  l2       : List (Nat × BitVec 512)
  checker  : List CheckRec
  rdc      : List (Nat × SectorCopy)
  tcache   : List (Nat × TlbEntry)
  rets     : List Ret
  ejobs    : List EJob
  pend     : List Pending
  trapq    : Word
  faultq   : Word
  trapSeq  : Nat
  faultSeq : Nat
  barto    : Nat
  cruise   : Nat
  timeNs   : Nat
  cycles   : Nat
  /-- per die, the clock of the last recomputation of its shares (R29) -/
  rebalanced : List Nat
  zones    : List Zone
  clock    : Clock
  fleet    : Fleet
  /-- next frame that the kernel has not handed out: (die, near, channel), bytes -/
  nextFrame : List ((Nat × Bool × Nat) × Nat)
  freed    : List (Nat × Nat)
  ptags    : Nat
  nextId   : Nat
  input    : Input
  agenda   : List Turn
  turn     : Nat
  steps    : Nat
deriving DecidableEq, Repr

/-- The module right after power-on and before any kernel has started (R4): no slot, job, launch, plot or furrow
exists (R315), the zones stand at step 10 (R348), the clock is FREE from 0 (R340). -/
def State.reset : State :=
  { fur := {}, plot := {}, launch := {}, job := {}, core := {}
    furs := [], plots := [], launches := [], jobs := [], cores := [], graphs := [], seasons := []
    mem := [], poisoned := [], l2 := [], checker := [], rdc := [], tcache := [], rets := [], ejobs := [], pend := []
    trapq := 0, faultq := 0, trapSeq := 0, faultSeq := 0, barto := 1048576, cruise := 10
    timeNs := 0, cycles := 0, rebalanced := [0, 0, 0, 0], zones := List.replicate 96 {}, clock := {}, fleet := {}
    nextFrame := [], freed := [], ptags := 1, nextId := 1, input := .idle, agenda := [], turn := 0, steps := 0 }

end Sys2Proof.Machine
end

