-- ==== Sys2Proof/Machine/Mem.lean ====
section
/-! DEFINITION. Sparse stores in one canonical form, physical memory (R320, R88) and sector poison (R196). -/

namespace Sys2Proof.Machine

/-! ### Canonical sparse lists -/

/-- The value at a key; `d` where the list has none. -/
def sget {α : Type} (d : α) : List (Nat × α) → Nat → α
  | [], _ => d
  | (k, v) :: rest, a => if a = k then v else if a < k then d else sget d rest a

/-- Sets the value at a key, keeping keys rising and no value equal to `d`. -/
def sset {α : Type} [DecidableEq α] (d : α) : List (Nat × α) → Nat → α → List (Nat × α)
  | [], a, v => if v = d then [] else [(a, v)]
  | (k, w) :: rest, a, v =>
    if a < k then (if v = d then (k, w) :: rest else (a, v) :: (k, w) :: rest)
    else if a = k then (if v = d then rest else (a, v) :: rest)
    else (k, w) :: sset d rest a v

/-- Keys strictly rising, and no value equal to what an absent key reads as. -/
def swf {α : Type} [DecidableEq α] (d : α) : List (Nat × α) → Bool
  | [] => true
  | (k, v) :: rest => decide (v ≠ d) && rest.all (fun p => decide (k < p.1)) && swf d rest

/-- Drops every key in `[lo, lo + n)`. -/
def sclear {α : Type} (m : List (Nat × α)) (lo n : Nat) : List (Nat × α) :=
  m.filter fun p => decide (p.1 < lo ∨ lo + n ≤ p.1)

/-! ### Physical memory -/

abbrev Memory := List Host.Cell

/-- What a byte reads as that nothing has written since power-on (log entry 3). -/
def memFill : Byte := 0

def Memory.wf (m : Memory) : Bool := swf memFill m
def Memory.byte (m : Memory) (a : Nat) : Byte := sget memFill m a
def Memory.setByte (m : Memory) (a : Nat) (v : Byte) : Memory := sset memFill m a v

/-- The little-endian number in `n` bytes (R112, R195). -/
def Memory.readN (m : Memory) (a : Nat) : Nat → Nat
  | 0 => 0
  | n + 1 => (Memory.byte m a).toNat + 256 * Memory.readN m (a + 1) n

/-- Writes a number into `n` bytes, little-endian. -/
def Memory.writeN (m : Memory) (a : Nat) : Nat → Nat → Memory
  | 0, _ => m
  | n + 1, v => Memory.writeN (Memory.setByte m a (BitVec.ofNat 8 v)) (a + 1) n (v / 256)

/-- Writes `n` bytes of `v` at `a` whose bit of `mask` is set. -/
def Memory.writeMasked (m : Memory) (a : Nat) (mask v : Nat) : Nat → Memory
  | 0 => m
  | n + 1 =>
    Memory.writeMasked (if mask % 2 = 1 then Memory.setByte m a (BitVec.ofNat 8 v) else m) (a + 1) (mask / 2) (v / 256) n

def Memory.word (m : Memory) (a : Nat) : Word := BitVec.ofNat 64 (Memory.readN m a 8)
def Memory.sector (m : Memory) (sec : Nat) : BitVec 512 := BitVec.ofNat 512 (Memory.readN m (64 * sec) 64)

/-- A physical address of R320's ranges. -/
def paOk (a : Nat) : Bool := decide (a / 2 ^ 40 < 4 ∧ a % 2 ^ 40 < 2 ^ 39 + 2 ^ 32)
/-- The die that a physical address is homed on (R89). -/
def homeDie (a : Nat) : Nat := a / 2 ^ 40
/-- The home slice of a physical address within its die (R89: PA[47:7] mod 48). -/
def homeSlice (a : Nat) : Nat := a / 128 % 48
def isNear (a : Nat) : Bool := decide (2 ^ 39 ≤ a % 2 ^ 40)

/-! ### Sector poison (R196) -/

def insertNat (n : Nat) : List Nat → List Nat
  | [] => [n]
  | k :: rest => if n < k then n :: k :: rest else if n = k then k :: rest else k :: insertNat n rest

def setPoison (l : List Nat) (sec : Nat) (p : Bool) : List Nat :=
  if p then insertNat sec l else l.filter (· ≠ sec)

/-! ### Words, bytes and bit fields -/

/-- Bit field `[lo + n - 1 : lo]` of a number. -/
def bitsOf (v lo n : Nat) : Nat := v / 2 ^ lo % 2 ^ n
/-- A field placed at `lo`. -/
def place (v lo : Nat) : Nat := v * 2 ^ lo
/-- Whether bit `k` is set. -/
def bitOf (v k : Nat) : Bool := v.testBit k
/-- The value of an `n`-bit pattern read as two's complement. -/
def toSigned (n : Nat) (v : Nat) : Int := if n = 0 then 0 else if v % 2 ^ n < 2 ^ (n - 1) then ((v % 2 ^ n : Nat) : Int) else ((v % 2 ^ n : Nat) : Int) - (2 ^ n : Nat)
/-- A number modulo 2^n. -/
def wrap (n : Nat) (v : Int) : Nat := (v % ((2 ^ n : Nat) : Int)).toNat
/-- An `n`-bit pattern extended to `m` bits: sign-extended or zero-extended. -/
def extend (signed : Bool) (n m : Nat) (v : Nat) : Nat :=
  if signed then wrap m (toSigned n v) else v % 2 ^ n % 2 ^ m
/-- The signed immediate of R12. -/
def immVal (v : BitVec 11) : Int := v.toInt
/-- A mask from a predicate on lanes. -/
def maskOf (p : Nat → Bool) : Mask := BitVec.ofNat 32 ((List.range 32).foldl (fun acc i => if p i then acc ||| (1 <<< i) else acc) 0)
/-- The set lanes of a mask, ascending (R5). -/
def lanesOf (m : Mask) : List Nat := (List.range 32).filter (fun i => m.getLsbD i)
/-- The lowest lane of a mask (R57). -/
def lowest (m : Mask) : Option Nat := (lanesOf m).head?
/-- Set bits of a number below `n`. -/
def popcount (v : Nat) : Nat → Nat
  | 0 => 0
  | n + 1 => v % 2 + popcount (v / 2) n
/-- List update at an index. -/
def setAt {α : Type} : List α → Nat → α → List α
  | [], _, _ => []
  | _ :: rest, 0, v => v :: rest
  | x :: rest, n + 1, v => x :: setAt rest n v
/-- Sets the element at an index; a list that is too short is first filled up with `d`. -/
def putAt {α : Type} (d : α) : List α → Nat → α → List α
  | [], 0, v => [v]
  | [], n + 1, v => d :: putAt d [] n v
  | _ :: rest, 0, v => v :: rest
  | x :: rest, n + 1, v => x :: putAt d rest n v
/-- Fills a list up to a length. -/
def padTo {α : Type} (d : α) (n : Nat) (l : List α) : List α := l ++ List.replicate (n - l.length) d
/-- List update by a function at an index. -/
def modAt {α : Type} (g : α → α) : List α → Nat → List α
  | [], _ => []
  | x :: rest, 0 => g x :: rest
  | x :: rest, n + 1 => x :: modAt g rest n
/-- Maps with the index. -/
def mapIdxFrom {α β : Type} (g : Nat → α → β) : Nat → List α → List β
  | _, [] => []
  | i, x :: rest => g i x :: mapIdxFrom g (i + 1) rest

/-- Inserts into a list that `before` orders, after its equals. -/
def insertOrd {α : Type} (before : α → α → Bool) (x : α) : List α → List α
  | [] => [x]
  | y :: rest => if before x y then x :: y :: rest else y :: insertOrd before x rest
def sortOrd {α : Type} (before : α → α → Bool) (l : List α) : List α := l.foldl (fun acc x => insertOrd before x acc) []

end Sys2Proof.Machine
end

