-- ==== Sys2Proof/Machine/Keccak.lean ====
section
/-! DEFINITION. SHAKE256 (FIPS 202) and KMAC256 (SP 800-185), which the spec names for CODEID, the measurements and the
management key (R272, R315, R336; log entry 13). -/

namespace Sys2Proof.Machine

/-- A state as one number of 1,600 bits: FIPS 202's lane (x, y) is its 64-bit digit 5y + x, and a plane five digits. -/
abbrev Keccak := BitVec 1600
/-- A plane: the lanes of one y, lane x at bit 64x. -/
abbrev Plane := BitVec 320

def Keccak.lane (s : Keccak) (i : Nat) : Word := s.extractLsb' (64 * i) 64
def Keccak.plane (s : Keccak) (y : Nat) : Plane := s.extractLsb' (320 * y) 320

/-- Bit 0 of each lane of a plane. -/
def laneOnes : Plane := BitVec.replicate 5 (1 : Word)

/-- Every lane of a plane turned left by one bit. -/
def turnLanes (p : Plane) : Plane := ((p <<< 1) &&& ~~~laneOnes) ||| ((p >>> 63) &&& laneOnes)

/-- Each plane takes the parities of its two neighbour columns: that of x − 1, and that of x + 1 turned by one bit. -/
def Keccak.mixColumns (s : Keccak) : Keccak :=
  let c := s.plane 0 ^^^ s.plane 1 ^^^ s.plane 2 ^^^ s.plane 3 ^^^ s.plane 4
  s ^^^ (BitVec.replicate 5 (c.rotateLeft 64 ^^^ turnLanes (c.rotateRight 64))).setWidth 1600

/-- The walk over the 24 lanes other than (0, 0): from (1, 0), each (x, y) is followed by (y, 2x + 3y), and the lane found at
step `t` moves to its follower, turned by the `t + 1`-st triangular number. -/
def Keccak.walk (s : Keccak) : Keccak :=
  ((List.range 24).foldl (fun (a : Keccak × Nat × Nat) t =>
    let (out, x, y) := a
    let z := (2 * x + 3 * y) % 5
    (out ||| ((s.lane (5 * y + x)).rotateLeft ((t + 1) * (t + 2) / 2)).setWidth 1600 <<< (64 * (5 * z + y)), y, z))
    ((s.lane 0).setWidth 1600, 1, 0)).1

/-- Each lane of a plane takes the lane after next where the next one has zeros. -/
def bendPlane (p : Plane) : Plane := p ^^^ (~~~(p.rotateRight 64) &&& p.rotateRight 128)

def Keccak.bend (s : Keccak) : Keccak :=
  (List.range 5).foldl (fun out y => out ||| (bendPlane (s.plane y)).setWidth 1600 <<< (320 * y)) 0

/-- The next power of x modulo x⁸ + x⁶ + x⁵ + x⁴ + 1. -/
def nextPower (r : Nat) : Nat := if r < 128 then 2 * r else (2 * r) ^^^ 0x171

/-- A round's constant and the power of x after it: bit 2ʲ − 1 is the constant term of the j-th power taken, j = 0 to 6. -/
def roundBits (r : Nat) : Keccak × Nat :=
  (List.range 7).foldl (fun (a : Keccak × Nat) j => (if a.2 % 2 = 1 then a.1 ||| BitVec.ofNat 1600 (2 ^ (2 ^ j - 1)) else a.1, nextPower a.2)) (0, r)

/-- The permutation: 24 rounds, the powers of x running on. -/
def Keccak.permute (s : Keccak) : Keccak :=
  ((List.range 24).foldl (fun (a : Keccak × Nat) _ =>
    let (rc, r) := roundBits a.2
    ((a.1.mixColumns.walk.bend) ^^^ rc, r)) (s, 1)).1

/-- Bytes per block of the 256-bit functions. -/
def keccakRate : Nat := 136

/-- Absorbs a padded message of `n` blocks of `rate` bytes. -/
def Keccak.absorb (rate : Nat) (s : Keccak) (m : List Byte) : Nat → Keccak
  | 0 => s
  | n + 1 => Keccak.absorb rate (s ^^^ BitVec.ofNat 1600 (wordOfBytes (m.take rate))).permute (m.drop rate) n

/-- The sponge after a message and its domain byte. -/
def sponge (rate : Nat) (suffix : Byte) (m : List Byte) : Keccak :=
  let z := rate - 1 - m.length % rate
  let p := if z = 0 then m ++ [suffix ||| 0x80] else m ++ suffix :: (List.replicate (z - 1) 0 ++ [0x80])
  Keccak.absorb rate 0 p (p.length / rate)

/-- `n` blocks of output. -/
def Keccak.squeeze (rate : Nat) (s : Keccak) : Nat → List Byte
  | 0 => []
  | n + 1 => bytesOfNat s.toNat rate ++ Keccak.squeeze rate s.permute n

/-- The first `n` bytes of the sponge's output. -/
def spongeBytes (rate : Nat) (suffix : Byte) (m : List Byte) (n : Nat) : List Byte :=
  ((sponge rate suffix m).squeeze rate ((n + rate - 1) / rate)).take n

/-- The sponge's first 512 bits over a message and its domain byte. -/
def keccak512 (m : List Byte) (suffix : Byte) : BitVec 512 := (sponge keccakRate suffix m).extractLsb' 0 512

/-- SHAKE256 of a byte string, its first 512 bits, the first byte lowest. -/
def shake256 (m : List Byte) : BitVec 512 := keccak512 m 0x1F

/-- SHAKE128 and SHAKE256 with an output of any length, and SHA3-512. -/
def shake128Bytes (m : List Byte) (n : Nat) : List Byte := spongeBytes 168 0x1F m n
def shake256Bytes (m : List Byte) (n : Nat) : List Byte := spongeBytes keccakRate 0x1F m n
def sha3Bytes (m : List Byte) : List Byte := spongeBytes 72 0x06 m 64

/-- A number's bytes, most significant first, at least one. -/
def bytesBE (n : Nat) : List Byte :=
  let k := if n < 256 then 1 else if n < 65536 then 2 else 4
  (bytesOfNat n k).reverse
def leftEncode (n : Nat) : List Byte := BitVec.ofNat 8 (bytesBE n).length :: bytesBE n
def rightEncode (n : Nat) : List Byte := bytesBE n ++ [BitVec.ofNat 8 (bytesBE n).length]
def encodeString (s : List Byte) : List Byte := leftEncode (8 * s.length) ++ s
def bytepad (s : List Byte) : List Byte :=
  let x := leftEncode keccakRate ++ s
  x ++ List.replicate ((keccakRate - x.length % keccakRate) % keccakRate) 0

/-- The bytes of an ASCII string. -/
def asciiBytes (s : String) : List Byte := s.toList.map fun c => BitVec.ofNat 8 c.toNat

/-- KMAC256 of data under a key, with an output of `l` bits (at most 512) and a customisation string. -/
def kmac256 (key data : List Byte) (l : Nat) (custom : String) : Nat :=
  (keccak512 (bytepad (encodeString (asciiBytes "KMAC") ++ encodeString (asciiBytes custom))
    ++ bytepad (encodeString key) ++ data ++ rightEncode l) 0x04).toNat % 2 ^ l

/-- The tag of a far-memory sector (R332): K_tag over PA[47:6] as 8 bytes and the ciphertext. -/
def sectorTag (ktag : BitVec 256) (sec : Nat) (cipher : BitVec 512) : BitVec 56 :=
  BitVec.ofNat 56 (kmac256 (bytesOfNat ktag.toNat 32) (bytesOfNat sec 8 ++ bytesOfNat cipher.toNat 64) 56 "BG440SECTOR")

/-- The management key of a provisioning secret (R315). -/
def provisionKey (secret : List Byte) : BitVec 256 := BitVec.ofNat 256 (kmac256 secret [] 256 "BG440PROV")

end Sys2Proof.Machine

namespace Sys2Proof

open Sys2Proof.Machine

/-- The bytes of a body's words. -/
def bodyBytes (l : List Word) : List Byte := l.flatMap fun w => bytesOfNat w.toNat 8

/-- A command's header as 64 bytes, its TAG zero (R313). -/
def CmdHdr.pack (c : CmdHdr) : List Byte :=
  bytesOfNat (c.magic.toNat + place c.version.toNat 32 + place c.type.toNat 40 + place c.resp.toNat 48 + place c.zero1.toNat 49
    + place c.rstat.toNat 56 + place c.slot.toNat 64 + place c.length.toNat 96 + place c.seq.toNat 128 + place c.asid.toNat 192
    + place c.zero2.toNat 208 + place c.zero3.toNat 384) 64

/-- The TAG of a command under a slot's key (R313). -/
def CmdHdr.tagOf (c : CmdHdr) (key : BitVec 256) : BitVec 128 :=
  BitVec.ofNat 128 (kmac256 (bytesOfNat key.toNat 32) (c.pack ++ bodyBytes c.body) 128 "BG440CMD")

/-- A message with its TAG. -/
def CmdHdr.sign (c : CmdHdr) (key : BitVec 256) : CmdHdr := { c with tag := c.tagOf key }

/-- Whether a command's TAG verifies (R314). -/
def CmdHdr.signed (c : CmdHdr) (key : BitVec 256) : Bool := c.tag == c.tagOf key

/-- The form of a command's header for a TYPE (R313). -/
def CmdHdr.formOk (c : CmdHdr) (type : BitVec 8) : Bool :=
  c.magic == 0x7E100440 && c.version == 1 && c.type == type && !c.resp && c.zero1 == 0 && c.rstat == 0 && c.zero2 == 0 && c.zero3 == 0
    && c.length.toNat == 8 * c.body.length && decide (c.length.toNat ≤ 65536)

end Sys2Proof
end

