-- ==== Sys2Proof/Machine/Regs.lean ====
section
/-! DEFINITION. The registers of the furrow in the issue stage: slices with poison (R41, R49), masks (R55), x-registers
(R50, R56), the latch window (R53), the split table (R19), and the pieces of state around it. -/

namespace Sys2Proof.Machine

/-- What a meaning answers. -/
abbrev Out := Host.Outcome State Fault Refusal

/-- A value in one lane, with its poison (R49). -/
structure Src where
  v : Nat
  p : Bool := false
deriving DecidableEq, Repr

/-- Why an instruction has not its own effect. -/
inductive Stop
  /-- a precise fault (R18); program counter, words and split lanes are filled in when it is taken -/
  | fault (r : TrapRec)
  /-- poison consumed at a control point (R38) -/
  | rollback
  /-- the same, where the poison lies in known sectors (R333) -/
  | rollbackAt (secs : List Nat)
  /-- the instruction stalls, with no effect, and is tried again (R94, R103, R139) -/
  | stall
  /-- the split stalls until an entry of the split table frees (R19) -/
  | hold
  /-- a page is not translated yet (R322); the instruction is replayed -/
  | walk (va : Word) (acc : Access)
deriving DecidableEq, Repr

/-- A precise fault with nothing but its cause. -/
def stopOf (c : Cause) : Stop := .fault { cause := c }
/-- A precise fault when a condition holds. -/
def stopIf (b : Bool) (c : Cause) : Option Stop := if b then some (stopOf c) else none
/-- Rollback when a condition holds (R38). -/
def rollIf (b : Bool) : Option Stop := if b then some .rollback else none
/-- Stall when a condition holds. -/
def stallIf (b : Bool) : Option Stop := if b then some .stall else none

/-! ### Splits and masks -/

def State.setFur (s : State) (f : Furrow) : State := { s with fur := f }
def State.setPlot (s : State) (p : Plot) : State := { s with plot := p }
def State.setCore (s : State) (c : Core) : State := { s with core := c }
def State.setJob (s : State) (j : Job) : State := { s with job := j }
def State.setLaunch (s : State) (l : Launch) : State := { s with launch := l }
def State.setMem (s : State) (m : List Host.Cell) : State := { s with mem := m }

/-- The split in the issue stage (R21). -/
def State.split (s : State) : Split := s.fur.splits.getD s.fur.cur {}
/-- `m0`: the issuing split's lanes (R55). -/
def State.m0 (s : State) : Mask := s.split.mask
/-- A mask register (R55). -/
def State.mask (s : State) (k : Nat) : Mask := if k = 0 then s.m0 else s.fur.masks.getD (k - 1) 0
/-- The active lanes under a guard (R5, R13). -/
def State.active (s : State) (g : BitVec 4) : Mask := s.mask g.toNat &&& s.m0
/-- The splits of the furrow that are valid. -/
def State.splitCount (s : State) : Nat := (s.fur.splits.filter (·.valid)).length

/-- Writes the bits of a mask register in the lanes of `act` (R55). -/
def State.setMask (s : State) (k : Nat) (act bits : Mask) : State :=
  let old := s.fur.masks.getD (k - 1) 0
  s.setFur { s.fur with masks := putAt 0 s.fur.masks (k - 1) ((old &&& ~~~act) ||| (bits &&& act)) }

/-- The split table with the entry `k` at an address. -/
def movePc (l : List Split) (k : Nat) (pc : Word) : List Split := putAt {} l k { l.getD k {} with pc := pc }
/-- Moves the issuing split to an address. -/
def State.setPc (s : State) (pc : Word) : State :=
  s.setFur { s.fur with splits := movePc s.fur.splits s.fur.cur pc }
/-- Counts one issued and completed word towards the deadline (R32); half 0 of a P frame is no whole word. -/
def State.count (s : State) : State :=
  s.setFur { s.fur with yields := s.fur.yields + (if s.fur.npc.getLsbD 2 then 0 else 1) }
/-- The next frame, or the next half (R112, R120). -/
def State.advance (s : State) : State := (s.setPc s.fur.npc).count

/-- The active lanes with a predicate. -/
def lanesWhere (act : Mask) (p : Nat → Bool) : Mask := maskOf fun i => act.getLsbD i && p i

/-! ### Slices -/

/-- The bits of an operand in a lane (R41). -/
def Lane.read (l : Lane) (start bits : Nat) : Nat := l.data.toNat / 2 ^ (4 * start) % 2 ^ bits
/-- Whether any slice of an operand is poisoned (R49). -/
def Lane.poisoned (l : Lane) (start bits : Nat) : Bool :=
  decide (l.poison.toNat / 2 ^ start % 2 ^ ((bits + 3) / 4) ≠ 0)
/-- Writes an operand in a lane: its bits, and the poison of each of its slices (R41, R49). -/
def Lane.write (l : Lane) (start bits : Nat) (x : Src) : Lane :=
  { data := (l.data &&& ~~~(BitVec.ofNat 4096 ((2 ^ bits - 1) * 2 ^ (4 * start)))) |||
      BitVec.ofNat 4096 (x.v % 2 ^ bits * 2 ^ (4 * start))
    poison :=
      let m := BitVec.ofNat 1024 ((2 ^ ((bits + 3) / 4) - 1) * 2 ^ start)
      if x.p then l.poison ||| m else l.poison &&& ~~~m }

def State.lane (s : State) (i : Nat) : Lane := s.fur.lanes.getD i {}

/-- Writes slices in the lanes of `act` (R13). -/
def Furrow.setSlices (f : Furrow) (start bits : Nat) (act : Mask) (vals : Nat → Src) : Furrow :=
  { f with lanes := mapIdxFrom (fun i l => if act.getLsbD i then l.write start bits (vals i) else l) 0 (padTo {} 32 f.lanes) }
def State.setSlices (s : State) (start bits : Nat) (act : Mask) (vals : Nat → Src) : State :=
  s.setFur (s.fur.setSlices start bits act vals)

/-! ### Latches and x-registers -/

/-- Pushes a result into the latch window: 64-bit values in the lanes of `act`, zero elsewhere (R53). -/
def Furrow.pushLatch (f : Furrow) (act : Mask) (vals : Nat → Src) : Furrow :=
  { f with
    latches := ({ vals := (List.range 32).map fun i => if act.getLsbD i then BitVec.ofNat 64 (vals i).v else 0
                  poison := maskOf fun i => act.getLsbD i && (vals i).p } :: f.latches).take 8 }
def State.pushLatch (s : State) (act : Mask) (vals : Nat → Src) : State := s.setFur (s.fur.pushLatch act vals)
def State.emptyLatch (s : State) : State := s.setFur { s.fur with latches := [] }

def State.x (s : State) (i : Nat) : Word := s.fur.xregs.getD i 0
def State.xp (s : State) (i : Nat) : Bool := s.fur.xpoison.getLsbD i
/-- Writes an x-register and its poison bit (R50). -/
def Furrow.setX (f : Furrow) (i : Nat) (x : Src) : Furrow :=
  { f with
    xregs := putAt 0 f.xregs i (BitVec.ofNat 64 x.v)
    xpoison := if x.p then f.xpoison ||| BitVec.ofNat 64 (2 ^ i) else f.xpoison &&& ~~~(BitVec.ofNat 64 (2 ^ i)) }
def State.setX (s : State) (i : Nat) (x : Src) : State := s.setFur (s.fur.setX i x)

/-! ### The others, beside the focus -/

def State.allFurs (s : State) : List Furrow := if s.fur.id = 0 then s.furs else s.fur :: s.furs
def State.allPlots (s : State) : List Plot := if s.plot.id = 0 then s.plots else s.plot :: s.plots
def State.allLaunches (s : State) : List Launch := if s.launch.id = 0 then s.launches else s.launch :: s.launches
def State.allJobs (s : State) : List Job := if s.job.id = 0 then s.jobs else s.job :: s.jobs
def State.allCores (s : State) : List Core := if s.core.id = 0 then s.cores else s.core :: s.cores

/-- Changes every furrow, the one in the issue stage among them. -/
def State.mapFurs (s : State) (g : Furrow → Furrow) : State :=
  { s with fur := if s.fur.id = 0 then s.fur else g s.fur, furs := s.furs.map g }
def State.mapPlots (s : State) (g : Plot → Plot) : State :=
  { s with plot := if s.plot.id = 0 then s.plot else g s.plot, plots := s.plots.map g }
def State.mapLaunches (s : State) (g : Launch → Launch) : State :=
  { s with launch := if s.launch.id = 0 then s.launch else g s.launch, launches := s.launches.map g }
def State.mapJobs (s : State) (g : Job → Job) : State :=
  { s with job := if s.job.id = 0 then s.job else g s.job, jobs := s.jobs.map g }
def State.mapCores (s : State) (g : Core → Core) : State :=
  { s with core := if s.core.id = 0 then s.core else g s.core, cores := s.cores.map g }

def State.furOf (s : State) (id : Nat) : Option Furrow := s.allFurs.find? (·.id = id)
def State.plotOf (s : State) (id : Nat) : Option Plot := s.allPlots.find? (·.id = id)
def State.launchOf (s : State) (id : Nat) : Option Launch := s.allLaunches.find? (·.id = id)
def State.jobOf (s : State) (id : Nat) : Option Job := s.allJobs.find? (·.id = id)
/-- A core by number (1 to 384); a core that nothing has happened on yet is as at reset. -/
def State.coreOf (s : State) (id : Nat) : Core := (s.allCores.find? (·.id = id)).getD { id := id }
def State.graphOf (s : State) (id : Nat) : Option Graph := s.graphs.find? (·.id = id)
def State.seasonOf (s : State) (id : Nat) : Option Season := s.seasons.find? (·.id = id)

/-- Changes the units with a number. -/
def State.modFur (s : State) (id : Nat) (g : Furrow → Furrow) : State := s.mapFurs fun f => if f.id = id then g f else f
def State.modPlot (s : State) (id : Nat) (g : Plot → Plot) : State := s.mapPlots fun p => if p.id = id then g p else p
def State.modLaunch (s : State) (id : Nat) (g : Launch → Launch) : State :=
  s.mapLaunches fun l => if l.id = id then g l else l
def State.modJob (s : State) (id : Nat) (g : Job → Job) : State := s.mapJobs fun j => if j.id = id then g j else j
def State.modCore (s : State) (id : Nat) (g : Core → Core) : State :=
  if s.allCores.any (·.id = id) then s.mapCores fun c => if c.id = id then g c else c
  else { s with cores := g { id := id } :: s.cores }
def State.modGraph (s : State) (id : Nat) (g : Graph → Graph) : State :=
  { s with graphs := s.graphs.map fun x => if x.id = id then g x else x }
def State.modSeason (s : State) (id : Nat) (g : Season → Season) : State :=
  { s with seasons := s.seasons.map fun x => if x.id = id then g x else x }
def State.modEJob (s : State) (id : Nat) (g : EJob → EJob) : State :=
  { s with ejobs := s.ejobs.map fun x => if x.id = id then g x else x }

/-- Puts the units of the issue stage back among the others. -/
def State.unload (s : State) : State :=
  { s with
    furs := s.allFurs, plots := s.allPlots, launches := s.allLaunches, jobs := s.allJobs, cores := s.allCores
    fur := {}, plot := {}, launch := {}, job := {}, core := {} }

/-- Takes a plot, with its launch, job and core, into the issue stage. -/
def State.focusPlot (s : State) (id : Nat) : State :=
  let s := s.unload
  let p := (s.plots.find? (·.id = id)).getD {}
  let l := (s.launches.find? (·.id = p.launch)).getD {}
  let j := (s.jobs.find? (·.id = l.job)).getD {}
  let c := (s.cores.find? (·.id = p.core)).getD { id := p.core }
  { s with
    plot := p, launch := l, job := j, core := c
    plots := s.plots.filter (·.id ≠ p.id), launches := s.launches.filter (·.id ≠ l.id)
    jobs := s.jobs.filter (·.id ≠ j.id), cores := s.cores.filter (·.id ≠ c.id) }

/-- Takes a furrow, with its plot, launch, job and core, into the issue stage. -/
def State.focusFur (s : State) (id : Nat) : State :=
  let s := s.unload
  let f := (s.furs.find? (·.id = id)).getD {}
  let s := s.focusPlot f.plot
  { s with fur := f, furs := s.furs.filter (·.id ≠ f.id) }

/-- A new number for a unit. -/
def State.fresh (s : State) : Nat × State := (s.nextId, { s with nextId := s.nextId + 1 })

end Sys2Proof.Machine
end

