-- ==== Sys2Proof/Machine/Flags.lean ====
section
/-! DEFINITION. The numeric flags (R68): their bits, and how an instruction raises them for its plot. -/

namespace Sys2Proof.Machine

abbrev Flags := BitVec 6

def flNX : Flags := 1
def flUF : Flags := 2
def flOF : Flags := 4
def flDZ : Flags := 8
def flNV : Flags := 16
def flWrap : Flags := 32

def flagIf (b : Bool) (f : Flags) : Flags := if b then f else 0

/-- The plot accumulates flags (R68). -/
def State.raise (s : State) (f : Flags) : State := s.setPlot { s.plot with flags := s.plot.flags ||| f }

/-- The flags of every element of every lane of a mask. -/
def flagsOver (act : Mask) (n : Nat) (g : Nat → Nat → Flags) : Flags :=
  (lanesOf act).foldl (fun acc i => (List.range n).foldl (fun acc j => acc ||| g i j) acc) 0

end Sys2Proof.Machine
end

