-- ==== Sys2Proof/Machine/Numeric.lean ====
section
/-! DEFINITION. Numbers: formats, decoding and encoding, rounding, exact arithmetic, special functions, conversions,
block scales and the sower (file 04; R171 to R188). -/

namespace Sys2Proof.Machine

/-! ### Numbers -/

/-- A decoded number. A finite one is (−1)^neg × m × 2^e with m nonzero. A NaN's payload is its fraction, aligned so that
the quiet bit is bit 61. `cancel` marks an exact zero sum of addends of unlike sign, which `RDN` makes −0 (R172). -/
inductive Num
  | nan (neg : Bool) (payload : Nat) (sig : Bool)
  | nar
  | inf (neg : Bool)
  | zero (neg cancel : Bool)
  | fin (neg : Bool) (m : Nat) (e : Int)
deriving DecidableEq, Repr

/-- The canonical NaN of R66. -/
def canonNaN : Num := .nan false (2 ^ 61) false

def bitLen (m : Nat) : Nat := if m = 0 then 0 else Nat.log2 m + 1

def mkNum (neg : Bool) (m : Nat) (e : Int) : Num := if m = 0 then .zero neg false else .fin neg m e
def numInt (v : Int) : Num := mkNum (decide (v < 0)) v.natAbs 0

def Num.isNaN : Num → Bool
  | .nan .. | .nar => true
  | _ => false
def Num.isSig : Num → Bool
  | .nan _ _ s => s
  | _ => false
def Num.isInf : Num → Bool
  | .inf _ => true
  | _ => false
def Num.isZero : Num → Bool
  | .zero .. => true
  | _ => false
def Num.isNeg : Num → Bool
  | .nan n _ _ | .inf n | .zero n _ | .fin n _ _ => n
  | .nar => false
/-- Negation; NaNs keep their sign, so that R67 hands on the operand itself. -/
def Num.neg : Num → Num
  | .inf n => .inf (!n)
  | .zero n c => .zero (!n) c
  | .fin n m e => .fin (!n) m e
  | x => x
/-- Multiplication by 2^k, exactly. -/
def Num.scale (k : Int) : Num → Num
  | .fin n m e => .fin n m (e + k)
  | x => x
/-- Magnitude and exponent of a finite number. -/
def Num.mag : Num → Nat × Int
  | .fin _ m e => (m, e)
  | _ => (0, 0)

/-- Whether m1 × 2^e1 < m2 × 2^e2. -/
def magLt (a b : Nat × Int) : Bool :=
  if a.2 ≤ b.2 then decide (a.1 < b.1 * 2 ^ (b.2 - a.2).toNat) else decide (a.1 * 2 ^ (a.2 - b.2).toNat < b.1)
def magEq (a b : Nat × Int) : Bool := !magLt a b && !magLt b a

/-! ### Formats (R63, R66, R69) -/

/-- Exponent and fraction bits of an IEEE format (R66). -/
def ieeeEb (f : BitVec 5) : Nat := match f.toNat with | 18 => 5 | 19 => 8 | 20 => 8 | _ => 11
def ieeeFb (f : BitVec 5) : Nat := match f.toNat with | 18 => 10 | 19 => 7 | 20 => 23 | _ => 52
def ieeeBias (f : BitVec 5) : Int := 2 ^ (ieeeEb f - 1) - 1
/-- Exponent of the unit of the subnormals. -/
def ieeeQmin (f : BitVec 5) : Int := 1 - ieeeBias f - ieeeFb f
def isIeee (f : BitVec 5) : Bool := decide (18 ≤ f.toNat ∧ f.toNat ≤ 21)
def isT (f : BitVec 5) : Bool := f == 16 || f == 17
/-- Bits of a T word (R69), and the exponent of the unit that every T value is a multiple of. -/
def tBits (f : BitVec 5) : Nat := if f = 16 then 6 else 8
def tUnit (f : BitVec 5) : Nat := if f = 16 then 8 else 12
/-- Largest finite value of an IEEE format. -/
def ieeeMax (f : BitVec 5) : Nat × Int := (2 ^ (ieeeFb f + 1) - 1, ieeeBias f - ieeeFb f)

/-- Length of the run of bits equal to `b` from bit `i - 1` down (R69, step 3). -/
def runLen (w : Nat) (b : Bool) : Nat → Nat
  | 0 => 0
  | i + 1 => if w.testBit i == b then runLen w b i + 1 else 0

/-- A positive T word of `n` bits (R69, steps 3 and 4): magnitude and exponent. -/
def tMag (n w : Nat) : Nat × Int :=
  let b := w.testBit (n - 2)
  let run := runLen w b (n - 1)
  let k : Int := if b then run - 1 else -(run : Int)
  let left := n - 1 - run - 1
  let e := if 0 < left then (if w.testBit (left - 1) then 1 else 0) else 0
  let fb := left - 1
  (2 ^ fb + w % 2 ^ fb, 2 * k + e - fb)

/-- A T word (R69). -/
def tDecode (n w : Nat) : Num :=
  let w := w % 2 ^ n
  if w = 0 then .zero false false
  else if w = 2 ^ (n - 1) then .nar
  else if w.testBit (n - 1) then let m := tMag n (2 ^ n - w); .fin true m.1 m.2
  else let m := tMag n w; .fin false m.1 m.2

/-- An IEEE word (R66). -/
def ieeeDecode (f : BitVec 5) (w : Nat) : Num :=
  let eb := ieeeEb f
  let fb := ieeeFb f
  let neg := w.testBit (eb + fb)
  let ex := w / 2 ^ fb % 2 ^ eb
  let fr := w % 2 ^ fb
  if ex = 2 ^ eb - 1 then
    if fr = 0 then .inf neg else .nan neg (fr * 2 ^ (62 - fb)) (!fr.testBit (fb - 1))
  else if ex = 0 then mkNum neg fr (ieeeQmin f)
  else .fin neg (fr + 2 ^ fb) (ex - ieeeBias f - fb)

/-- An element of a native format (R63, R65). -/
def decodeNum (f : BitVec 5) (w : Nat) : Num :=
  if fmtIsInt f then
    numInt (if fmtSigned f then toSigned (fmtBits f) w else ((w % 2 ^ fmtBits f : Nat) : Int))
  else if isT f then tDecode (tBits f) w
  else ieeeDecode f w

/-! ### Rounding (R73, R74, R76) -/

/-- Whether the upper neighbour is taken, `d / w` of the gap above the lower one, which is `odd` or not; `u` is R77's. -/
def roundUp (rnd : BitVec 3) (neg : Bool) (d w : Nat) (odd : Bool) (u : Nat) : Bool :=
  match rnd.toNat with
  | 0 => decide (w < 2 * d) || (2 * d == w && odd)
  | 1 => false
  | 2 => !neg
  | 3 => neg
  | 4 => !odd
  | _ => decide (u < d * 65536 / w)

/-- m / 2^k as an integer, and whether that was inexact. -/
def roundInt (rnd : BitVec 3) (neg : Bool) (u m : Nat) (k : Int) : Nat × Bool :=
  if k ≤ 0 then (m * 2 ^ (-k).toNat, false)
  else
    let w := 2 ^ k.toNat
    let q := m / w
    if m % w = 0 then (q, false) else (q + (roundUp rnd neg (m % w) w (q % 2 == 1) u).toNat, true)

/-- m × 2^e at precision `p`, its unit never below 2^qmin, and no upper limit (R73). -/
def roundTo (p : Nat) (qmin : Option Int) (rnd : BitVec 3) (neg : Bool) (u m : Nat) (e : Int) : (Nat × Int) × Bool :=
  let q := (bitLen m : Int) + e - p
  let q := match qmin with | some l => max q l | none => q
  let r := roundInt rnd neg u m (q - e)
  ((r.1, q), r.2)

/-- The bits of a magnitude that the format represents (R66). -/
def ieeePack (f : BitVec 5) (r : Nat × Int) : Nat :=
  let fb := ieeeFb f
  if r.1 = 0 then 0
  else
    let top := (bitLen r.1 : Int) + r.2 - 1
    if top < 1 - ieeeBias f then r.1 * 2 ^ (r.2 - ieeeQmin f).toNat
    else
      let m := if (bitLen r.1 : Int) - 1 ≤ fb then r.1 * 2 ^ ((fb : Int) - (bitLen r.1 - 1)).toNat
               else r.1 / 2 ^ ((bitLen r.1 : Int) - 1 - fb).toNat
      (top + ieeeBias f).toNat * 2 ^ fb + m % 2 ^ fb

/-- Rounds to an IEEE format (R66, R73, R74, R76). `cap`: narrow, and clamp at that magnitude. -/
def ieeeEncode (f : BitVec 5) (x : Num) (rnd : BitVec 3) (u : Nat) (cap : Option (Nat × Int)) : Nat × Flags :=
  let fb := ieeeFb f
  let eb := ieeeEb f
  let sign := fun (n : Bool) => if n then 2 ^ (eb + fb) else 0
  let infb := (2 ^ eb - 1) * 2 ^ fb
  match x with
  | .nan n p s => (sign n + infb + (p / 2 ^ (62 - fb) ||| 2 ^ (fb - 1)), flagIf s flNV)
  | .nar => (infb + 2 ^ (fb - 1), 0)
  | .zero n c => (sign (n || (c && rnd == 3)), 0)
  | .inf n => match cap with
    | some c => (sign n + ieeePack f c, flOF ||| flNX)
    | none => (sign n + infb, 0)
  | .fin n m e =>
    let r := roundTo (fb + 1) (some (ieeeQmin f)) rnd n u m e
    if magLt (cap.getD (ieeeMax f)) r.1 then
      match cap with
      | some c => (sign n + ieeePack f c, flOF ||| flNX)
      | none =>
        -- IEEE overflow; RTO keeps the odd largest finite value (log entry 12)
        let toInf := match rnd.toNat with | 0 => true | 1 => false | 2 => !n | 3 => n | 4 => false | _ => true
        (sign n + (if toInf then infb else ieeePack f (ieeeMax f)), flOF ||| flNX)
    else
      let free := roundTo (fb + 1) none rnd n u m e
      let tiny := decide ((bitLen free.1.1 : Int) + free.1.2 - 1 < 1 - ieeeBias f)
      (sign n + ieeePack f r.1, flagIf r.2 flNX ||| flagIf (r.2 && tiny) flUF)

/-- The value of a positive T code as a multiple of the format's unit (R70). -/
def tValue (f : BitVec 5) (code : Nat) : Nat :=
  let m := tMag (tBits f) code
  if code = 0 then 0 else m.1 * 2 ^ (m.2 + tUnit f).toNat

/-- The largest positive code whose value is at most m × 2^e. -/
def tFloor (f : BitVec 5) (x : Nat × Int) : Nat → Nat
  | 0 => 0
  | c + 1 => if magLt x (tValue f (c + 1), -(tUnit f : Int)) then tFloor f x c else c + 1

/-- Rounds to a T format (R72, R73). A signalling NaN sets NV (R67, R68). -/
def tEncode (f : BitVec 5) (x : Num) (rnd : BitVec 3) (u : Nat) (cap : Nat × Int) : Nat × Flags :=
  let n := tBits f
  let top := 2 ^ (n - 1) - 1
  let capCode := tFloor f cap top
  let put := fun (neg : Bool) (c : Nat) => if neg then (2 ^ n - c) % 2 ^ n else c
  match x with
  | .zero .. => (0, 0)
  | .nan _ _ sig => (2 ^ (n - 1), flagIf sig flNV)
  | .nar => (2 ^ (n - 1), 0)
  | .inf neg => (put neg capCode, flOF ||| flNX)
  | .fin neg m e =>
    let c := tFloor f (m, e) top
    let lo := tValue f c
    if magEq (lo, -(tUnit f : Int)) (m, e) then
      if capCode < c then (put neg capCode, flOF ||| flNX) else (put neg c, 0)
    else if c = top then (put neg capCode, flOF ||| flNX)
    else
      -- d / w of the gap, both at the finer of the two units
      let k := min e (-(tUnit f : Int))
      let m' := m * 2 ^ (e - k).toNat
      let up := 2 ^ (-(tUnit f : Int) - k).toNat
      let d := m' - lo * up
      let w := (tValue f (c + 1) - lo) * up
      let r := c + (roundUp rnd neg d w (c % 2 == 1) u).toNat
      if capCode < r then (put neg capCode, flOF ||| flNX)
      else (put neg r, flNX ||| flagIf (c == 0) flUF)

/-- Rounds to an integer type (R179). -/
def intEncode (f : BitVec 5) (x : Num) (rnd : BitVec 3) (u : Nat) : Nat × Flags :=
  let w := fmtBits f
  let lo : Int := if fmtSigned f then -(2 ^ (w - 1)) else 0
  let hi : Int := if fmtSigned f then 2 ^ (w - 1) - 1 else 2 ^ w - 1
  match x with
  | .nan .. | .nar => (0, flNV)
  | .zero .. => (0, 0)
  | .inf n => (wrap w (if n then lo else hi), flNV)
  | .fin n m e =>
    let r := roundInt rnd n u m (-e)
    let v : Int := if n then -(r.1 : Int) else r.1
    if v < lo then (wrap w lo, flNV) else if hi < v then (wrap w hi, flNV) else (wrap w v, flagIf r.2 flNX)

/-- The clamp bound that FP32 bits give; 0 is the format's largest finite value (R73). -/
def capOf (f : BitVec 5) (clamp : Nat) : Nat × Int :=
  if clamp % 2 ^ 31 = 0 then
    (if isT f then (tValue f (2 ^ (tBits f - 1) - 1), -(tUnit f : Int)) else ieeeMax f)
  else (ieeeDecode 20 (clamp % 2 ^ 31)).mag

/-! ### Exact arithmetic (R66, R67, R171, R172, R177) -/

/-- The NaN that operands give, in source order, and `NV` for a signalling one (R67). -/
def nanOf (l : List Num) : Option (Num × Flags) :=
  let fl := flagIf (l.any Num.isSig) flNV
  match l.find? Num.isNaN with
  | some (.nan n p _) => some (.nan n (p ||| 2 ^ 61) false, fl)
  | some _ => some (canonNaN, fl)
  | none => none

def fAdd (a b : Num) : Num × Flags :=
  match nanOf [a, b] with
  | some r => r
  | none =>
    match a, b with
    | .inf n, .inf k => if n = k then (a, 0) else (canonNaN, flNV)
    | .inf _, _ => (a, 0)
    | _, .inf _ => (b, 0)
    | .zero n _, .zero k _ => (.zero (n && k) (n != k), 0)
    | .zero .., _ => (b, 0)
    | _, .zero .. => (a, 0)
    | .fin n m e, .fin k q d =>
      let lo := min e d
      let x : Int := (m * 2 ^ (e - lo).toNat : Nat)
      let y : Int := (q * 2 ^ (d - lo).toNat : Nat)
      let v := (if n then -x else x) + (if k then -y else y)
      if v = 0 then (.zero false true, 0) else (.fin (decide (v < 0)) v.natAbs lo, 0)
    | _, _ => (canonNaN, 0)

def fMul (a b : Num) : Num × Flags :=
  match nanOf [a, b] with
  | some r => r
  | none =>
    let n := a.isNeg != b.isNeg
    if (a.isInf && b.isZero) || (a.isZero && b.isInf) then (canonNaN, flNV)
    else if a.isInf || b.isInf then (.inf n, 0)
    else if a.isZero || b.isZero then (.zero n false, 0)
    else (.fin n (a.mag.1 * b.mag.1) (a.mag.2 + b.mag.2), 0)

/-- num / den × 2^e to at least 72 bits, with a last bit that is 1 where more follows: every rounding of it is the exact
quotient's. -/
def quot (neg : Bool) (num den : Nat) (e : Int) : Num :=
  let s := 72 + bitLen den - bitLen num
  let n := num * 2 ^ s
  mkNum neg (n / den * 2 + (if n % den = 0 then 0 else 1)) (e - s - 1)

def fDiv (a b : Num) : Num × Flags :=
  match nanOf [a, b] with
  | some r => r
  | none =>
    let n := a.isNeg != b.isNeg
    if (a.isZero && b.isZero) || (a.isInf && b.isInf) then (canonNaN, flNV)
    else if a.isInf then (.inf n, 0)
    else if b.isZero then (.inf n, flDZ)
    else if a.isZero || b.isInf then (.zero n false, 0)
    else (quot n a.mag.1 b.mag.1 (a.mag.2 - b.mag.2), 0)

/-- Integer square root, bit by bit: `k` result bits are left to decide. -/
def isqrtFrom (n : Nat) : Nat → Nat → Nat
  | 0, r => r
  | k + 1, r => let t := r + 2 ^ k; isqrtFrom n k (if t * t ≤ n then t else r)
def isqrt (n : Nat) : Nat := isqrtFrom n (bitLen n / 2 + 1) 0

def fSqrt (a : Num) : Num × Flags :=
  match nanOf [a] with
  | some r => r
  | none =>
    match a with
    | .zero .. => (a, 0)
    | .inf false => (a, 0)
    | .fin false m e =>
      let s := 150 - bitLen m
      let s := if (e - s) % 2 = 0 then s else s + 1
      let q := isqrt (m * 2 ^ s)
      (.fin false (q * 2 + (if q * q = m * 2 ^ s then 0 else 1)) ((e - s) / 2 - 1), 0)
    | _ => (canonNaN, flNV)

/-- −1, 0 or 1; none where unordered (R173). -/
def fCmp (a b : Num) : Option Int :=
  if a.isNaN || b.isNaN then none
  else
    let sgn := fun (x : Num) => if x.isZero then (0 : Int) else if x.isNeg then -1 else 1
    if sgn a ≠ sgn b then some (if sgn a < sgn b then -1 else 1)
    else if sgn a = 0 then some 0
    else if a.isInf || b.isInf then
      some (if a.isInf && b.isInf then 0 else if a.isInf then sgn a else -(sgn a))
    else some (if magEq a.mag b.mag then 0 else if magLt a.mag b.mag then -(sgn a) else sgn a)

/-- `min`, `max` (R171): `pick`, whether the smaller is taken; `quiet`, whether a NaN operand yields the other. -/
def fMinMax (small quiet : Bool) (a b : Num) : Num × Flags :=
  if a.isNaN || b.isNaN then
    if quiet && !(a.isNaN && b.isNaN) then (if a.isNaN then b else a, flagIf (a.isSig || b.isSig) flNV)
    else (nanOf [a, b]).getD (canonNaN, 0)
  else
    let c := match fCmp a b with
      | some 0 => if a.isNeg && !b.isNeg then (-1 : Int) else if b.isNeg && !a.isNeg then 1 else 0
      | some k => k
      | none => 0
    (if decide (c ≤ 0) == small then a else b, 0)

/-- Fused multiply-add (R172): `np`, `nc` negate the product and the addend. -/
def fFma (np nc : Bool) (a b c : Num) : Num × Flags :=
  let z := (a.isInf && b.isZero) || (a.isZero && b.isInf)
  match nanOf [a, b, c] with
  | some r => (r.1, r.2 ||| flagIf z flNV)
  | none =>
    if z then (canonNaN, flNV)
    else
      let p := (fMul a b).1
      fAdd (if np then p.neg else p) (if nc then c.neg else c)

/-- Rounds to an integral value (R171). -/
def fRint (rnd : BitVec 3) (u : Nat) (a : Num) : Num × Flags :=
  match a with
  | .fin n m e =>
    let r := roundInt rnd n u m (-e)
    (mkNum n r.1 0, flagIf r.2 flNX)
  | .nan .. | .nar => (nanOf [a]).getD (canonNaN, 0)
  | _ => (a, 0)

/-- The class of an element, 0 to 9 (R174). -/
def fClass (f : BitVec 5) (a : Num) : Nat :=
  match a with
  | .nan _ _ s => if s then 8 else 9
  | .nar => 9
  | .zero n _ => if n then 3 else 4
  | .inf n => if n then 0 else 7
  | .fin n m e =>
    let norm := decide (1 - ieeeBias f ≤ (bitLen m : Int) + e - 1)
    match n, norm with | true, true => 1 | true, false => 2 | false, false => 5 | false, true => 6

/-! ### Special functions (R176): 400-bit fixed point, exact cases first (log entry 11) -/

def fix1 : Nat := 2 ^ 400
def fixMul (a b : Nat) : Nat := a * b / 2 ^ 400

/-- Sum of y^k / k! from term `k` on. -/
def expSum (y : Nat) : Nat → Nat → Nat → Nat
  | 0, _, _ => 0
  | n + 1, k, t => t + expSum y n (k + 1) (fixMul t y / (k + 1))
def expFix (y : Nat) : Nat := expSum y 120 0 fix1

/-- Sum of t^(2k+1) / (2k+1) from term `k` on; `t2` is t². -/
def atanhSum (t2 : Nat) : Nat → Nat → Nat → Nat
  | 0, _, _ => 0
  | n + 1, k, p => p / (2 * k + 1) + atanhSum t2 n (k + 1) (fixMul p t2)
/-- ln z of 1 ≤ z ≤ 2. -/
def lnFix (z : Nat) : Nat := let t := (z - fix1) * 2 ^ 400 / (z + fix1); 2 * atanhSum (fixMul t t) 150 0 t
def ln2Fix : Nat := lnFix (2 * fix1)

/-- Sum of ±1 / ((2k+1) q^(2k+1)) from term `k` on. -/
def atanSum (q : Nat) : Nat → Nat → Nat → Int
  | 0, _, _ => 0
  | n + 1, k, p => (if k % 2 = 0 then ((p / (2 * k + 1) : Nat) : Int) else -((p / (2 * k + 1) : Nat) : Int)) + atanSum q n (k + 1) (p / (q * q))
/-- π. -/
def piFix : Nat := (16 * atanSum 5 100 0 (fix1 / 5) - 4 * atanSum 239 40 0 (fix1 / 239)).toNat

/-- Sum of ±y^(2k+1) / (2k+1)! from term `k` on; `y2` is y². -/
def sinSum (y2 : Nat) : Nat → Nat → Nat → Int
  | 0, _, _ => 0
  | n + 1, k, t => (if k % 2 = 0 then (t : Int) else -(t : Int)) + sinSum y2 n (k + 1) (fixMul t y2 / ((2 * k + 2) * (2 * k + 3)))
def sinFix (y : Nat) : Nat := (sinSum (fixMul y y) 60 0 y).toNat

/-- A value strictly between v and v + 1 units of 2^−400, as a number to round. -/
def fixNum (neg : Bool) (v : Nat) : Num := mkNum neg (v * 2 + 1) (-401)

def fExp2 (a : Num) : Num × Flags :=
  match nanOf [a], a with
  | some r, _ => r
  | none, .inf n => (if n then .zero false false else a, 0)
  | none, .fin n m e =>
    if 12 < (bitLen m : Int) + e then (.fin false 3 (if n then -5000 else 5000), 0)
    else if 0 ≤ e || m % 2 ^ (-e).toNat = 0 then
      let v : Nat := if 0 ≤ e then m * 2 ^ e.toNat else m / 2 ^ (-e).toNat
      (.fin false 1 (if n then -(v : Int) else v), 0)
    else
      let x : Int := (m * 2 ^ (400 + e).toNat : Nat)
      let x := if n then -x else x
      let k := x / (fix1 : Int)
      let y := fixMul (x % (fix1 : Int)).toNat ln2Fix
      (mkNum false (expFix y * 2 + 1) (k - 401), 0)
  | none, _ => (.fin false 1 0, 0)

def fLog2 (a : Num) : Num × Flags :=
  match nanOf [a], a with
  | some r, _ => r
  | none, .zero .. => (.inf true, flDZ)
  | none, .inf false => (a, 0)
  | none, .fin false m e =>
    let top := (bitLen m : Int) - 1 + e
    if m = 2 ^ (bitLen m - 1) then (numInt top, 0)
    else
      let l : Nat := lnFix (m * 2 ^ (401 - bitLen m)) * 2 ^ 400 / ln2Fix
      let v := top * (fix1 : Int) + l
      (fixNum (decide (v < 0)) v.natAbs, 0)
  | none, _ => (canonNaN, flNV)

def fRcp (a : Num) : Num × Flags := fDiv (.fin false 1 0) a

def fRsqrt (a : Num) : Num × Flags :=
  match nanOf [a], a with
  | some r, _ => r
  | none, .zero n _ => (.inf n, flDZ)
  | none, .inf false => (.zero false false, 0)
  | none, .fin false m e =>
    let p := if e % 2 = 0 then (m, e) else (2 * m, e - 1)
    let k := 150 + bitLen p.1
    let n := 2 ^ (2 * k)
    let q := isqrt (n / p.1)
    (.fin false (q * 2 + (if n % p.1 = 0 ∧ q * q = n / p.1 then 0 else 1)) (-(k : Int) - p.2 / 2 - 1), 0)
  | none, _ => (canonNaN, flNV)

/-- sin(π v / 2^s), exact where it is 0 or ±1. -/
def sinPiOf (v : Int) (s : Nat) : Num :=
  let one := 2 ^ s
  let r := (v % ((2 * one : Nat) : Int)).toNat
  let neg := decide (one ≤ r)
  let r := if neg then r - one else r
  let r := if one < 2 * r then one - r else r
  if r = 0 then .zero (decide (v < 0)) false
  else if 2 * r = one then .fin neg 1 0
  else fixNum neg (sinFix (r * piFix / one))

/-- A finite number as v / 2^s. -/
def overPow (n : Bool) (m : Nat) (e : Int) : Int × Nat :=
  let v : Int := (m * 2 ^ e.toNat : Nat)
  (if n then -v else v, (-e).toNat)

def fSinpi (a : Num) : Num × Flags :=
  match nanOf [a], a with
  | some r, _ => r
  | none, .fin n m e => let v := overPow n m e; (sinPiOf v.1 v.2, 0)
  | none, .zero .. => (a, 0)
  | none, _ => (canonNaN, flNV)

def fCospi (a : Num) : Num × Flags :=
  match nanOf [a], a with
  | some r, _ => r
  | none, .fin n m e =>
    let v := overPow n m e
    match sinPiOf (2 * v.1 + 2 ^ v.2) (v.2 + 1) with
    | .zero .. => (.zero false false, 0)
    | x => (x, 0)
  | none, .zero .. => (.fin false 1 0, 0)
  | none, _ => (canonNaN, flNV)

def fTanh (a : Num) : Num × Flags :=
  match nanOf [a], a with
  | some r, _ => r
  | none, .fin n m e =>
    let top := (bitLen m : Int) + e
    if top < -60 then (.fin n (m * 2 ^ 100 - 1) (e - 100), 0)
    else if 7 < top then (.fin n (2 ^ 200 - 1) (-200), 0)
    else
      let y := m * 2 ^ (401 + e).toNat
      let k := y / ln2Fix
      let x := expFix (y % ln2Fix) * 2 ^ k
      (fixNum n ((x - fix1) * 2 ^ 400 / (x + fix1)), 0)
  | none, .inf n => (.fin n 1 0, 0)
  | none, _ => (a, 0)

/-! ### The legacy reciprocal (R188) -/

/-- R188's table value, times 4096. -/
def rcpaTable (i : Nat) : Nat := (roundInt 0 false 0 (4096 * 8192 * 2 ^ 40 / (8192 + 2 * i + 1) * 2 + 1) 41).1

def fRcpa (a : Num) : Nat × Flags :=
  match nanOf [a], a with
  | some r, _ => let x := ieeeEncode 20 r.1 0 0 none; (x.1, x.2 ||| r.2)
  | none, .zero n _ => ((ieeeEncode 20 (.inf n) 0 0 none).1, flDZ)
  | none, .inf n => ((ieeeEncode 20 (.zero n false) 0 0 none).1, 0)
  | none, .fin n m e =>
    let top := (bitLen m : Int) - 1 + e
    let i := m * 2 ^ (24 - bitLen m) / 2 ^ 11 % 4096
    let t := rcpaTable i
    let x := ieeeEncode 20 (.fin n t (-12 - top)) 0 0 none
    let exact := magEq (t * m, -12 - top + e) (1, 0)
    (x.1, x.2 ||| flagIf (!exact) flNX)
  | none, _ => (0, 0)

/-! ### Conversions (R75, R178 to R180) -/

/-- The precisions that a conversion passes through (R75). -/
def convPath (d s : BitVec 5) : List Nat :=
  let narrow := isT d || d == 18 || d == 19
  if s = 21 ∧ narrow then [24]
  else if s = 28 ∨ s = 29 then (if d = 20 then [53] else if narrow then [53, 24] else [])
  else if (s = 26 ∨ s = 27) ∧ narrow then [24]
  else []

/-- The pairs that convert exactly, infinities staying infinite (R179). -/
def convExact (d s : BitVec 5) : Bool :=
  isIeee d &&
    (if isT s then true
     else if isIeee s then decide (fmtBits s < fmtBits d)
     else decide (fmtBits s ≤ match d.toNat with | 18 => 8 | 19 => 8 | 20 => 16 | _ => 32))

/-- Rounds an intermediate step by `RTO` with an unbounded exponent (R75). -/
def stepRound (p : Nat) (x : Num × Flags) : Num × Flags :=
  match x.1 with
  | .fin n m e => let r := roundTo p none 4 n 0 m e; (mkNum n r.1.1 r.1.2, x.2 ||| flagIf r.2 flNX)
  | _ => x

/-- Rounds to a format; `cap`: the clamp bound of a narrowing. -/
def encodeNum (d : BitVec 5) (x : Num) (rnd : BitVec 3) (u : Nat) (cap : Option (Nat × Int)) : Nat × Flags :=
  if fmtIsInt d then intEncode d x rnd u
  else if isT d then tEncode d x rnd u (cap.getD (capOf d 0))
  else ieeeEncode d x rnd u cap

/-- A value through the path of R75 and the last rounding. -/
def convNum (d s : BitVec 5) (x : Num) (rnd : BitVec 3) (u : Nat) (cap : Option (Nat × Int)) : Nat × Flags :=
  let y := (convPath d s).foldl (fun a p => stepRound p a) (x, (0 : Flags))
  let r := encodeNum d y.1 rnd u cap
  (r.1, r.2 ||| y.2)

/-- Converts one element (R179), with the clamp bound of a narrowing. -/
def convElem (d s : BitVec 5) (w : Nat) (rnd : BitVec 3) (u : Nat) (cap : Nat × Int) : Nat × Flags :=
  let x := decodeNum s w
  if d = s then
    if x.isSig then (w ||| 2 ^ (ieeeFb s - 1), flNV) else (w % 2 ^ fmtBits s, 0)
  else if fmtIsInt d && fmtIsInt s then ((intEncode d x 0 0).1, 0)
  else convNum d s x rnd u (if convExact d s then none else some cap)

/-! ### Block scales (R79, R181) -/

/-- The least s with m ≤ c × 2^s; the two bit lengths give it up to 1. -/
def ceilLog (m c : Nat × Int) : Int :=
  let s := (bitLen m.1 : Int) + m.2 - (bitLen c.1 + c.2)
  if magLt (c.1, c.2 + s) m then s + 1 else if magLt (c.1, c.2 + s - 1) m then s else s - 1

/-- The scale of a block (R79). -/
def blockScale (xs : List Num) (cap : Nat × Int) : Nat :=
  if xs.any Num.isNaN then 255
  else
    let big := xs.foldl (fun (a : Nat × Int) x => match x with | .fin _ m e => if magLt a (m, e) then (m, e) else a | _ => a) (0, 0)
    if big.1 = 0 then 127 else (max (-127) (min 127 (ceilLog big cap)) + 127).toNat

/-- `ESEL` (R181). -/
def eselOf (m c : Nat) : Nat :=
  match ieeeDecode 20 (m % 2 ^ 31), ieeeDecode 20 c with
  | .nan .., _ => 255
  | .fin _ p e, .fin false q d => (max (-127) (min 127 (ceilLog (p, e) (q, d))) + 127).toNat
  | .fin .., _ => 255
  | _, _ => 127

/-! ### The sower (R85, R77) -/

def rotl32 (v b : Nat) : Nat := (v * 2 ^ b + v / 2 ^ (32 - b)) % 2 ^ 32

structure Sow where
  v0 : Nat
  v1 : Nat
  v2 : Nat
  v3 : Nat
deriving DecidableEq, Repr

def sowRot (l : List Nat) (n : Nat) : Nat := l.getD (n % 4) 0

/-- Round `n` (R85). -/
def sowRound (w : List Nat) (x : Sow) (n : Nat) : Sow :=
  let v0 := (x.v0 + x.v1) % 2 ^ 32
  let v1 := (rotl32 x.v1 (sowRot [16, 28, 12, 8] n)) ^^^ v0
  let v2 := (x.v2 + x.v3) % 2 ^ 32
  let v3 := (rotl32 x.v3 (sowRot [20, 4, 24, 12] n)) ^^^ v2
  if n % 2 = 1 then
    let j := (n + 1) / 2
    { v0 := (v0 + w.getD (j % 3) 0) % 2 ^ 32, v1 := v3
      v2 := (v2 + w.getD ((j + 1) % 3) 0) % 2 ^ 32, v3 := (v1 + j) % 2 ^ 32 }
  else { v0 := v0, v1 := v3, v2 := v2, v3 := v1 }

/-- 128 bits from key, stream and counter (R85). -/
def sower (key stream ctr : Nat) : Nat :=
  let k0 := key % 2 ^ 32
  let k1 := key / 2 ^ 32 % 2 ^ 32
  let w := [k0, k1, k0 ^^^ k1 ^^^ 0x5EED1A7C]
  let x := (List.range 10).foldl (sowRound w)
    { v0 := ctr % 2 ^ 32, v1 := ctr / 2 ^ 32 % 2 ^ 32, v2 := stream % 2 ^ 32, v3 := stream / 2 ^ 32 % 2 ^ 32 }
  x.v0 + place x.v1 32 + place x.v2 64 + place x.v3 96

/-- The 16 bits of a stochastic rounding (R77). -/
def srBits (seed offset nonce plot furrow lane j : Nat) : Nat :=
  let stream := lane % 32 + place (furrow % 32) 5 + place (plot % 2 ^ 32) 10 + place (j / 8 % 2 ^ 18) 44 + place 2 62
  sower seed stream (offset % 2 ^ 32 * 2 ^ 32 + nonce % 2 ^ 32) / 2 ^ (16 * (j % 8)) % 2 ^ 16

end Sys2Proof.Machine
end

