-- ==== Sys2Proof/Machine/Operands.lean ====
section
/-! DEFINITION. Every operand form as a source and as a destination (R11, R12, R46, R53 to R57, R117). -/

namespace Sys2Proof

/-- A slice operand lies in the grant (R42). -/
def Operand.inBudget (b : Nat) : Operand → Bool
  | .slice st w => decide (st.toNat + codeBits w / 4 ≤ b)
  | _ => true
/-- A latch source names an entry the window holds (R53). -/
def Operand.inWindow (n : Nat) : Operand → Bool
  | .latch k => decide (k.toNat < n)
  | _ => true

def Args.operands (f : Args) : List Operand := [f.a, f.b, f.c, f.d, f.e]

/-- The width of a source read "at its own width" in an operation of width `w` (R53, R117, R153). -/
def Operand.ownWidth (w : Nat) : Operand → Nat
  | .slice _ c => codeBits c
  | .xreg _ sz _ => 64 >>> sz.toNat
  | .imm _ => 11
  | .mask _ | .lane | .gw | .plotid | .furrow => 32
  | _ => w

/-- The width of a destination; `l0` has the operation's (R46, R154). -/
def Operand.destWidth (w : Nat) : Operand → Nat
  | .slice _ c => codeBits c
  | .xreg _ _ _ => 64
  | _ => w

/-! ### P operands (R119) -/

/-- The S operand that a P slice operand of half `h` names. -/
def PSlice.operand (h : Bool) (p : PSlice) : Operand :=
  .slice (BitVec.ofNat 10 (256 * ((if h then 2 else 0) + (if p.bank then 1 else 0)) + p.start.toNat))
    (match p.w.toNat with | 0 => 1 | 1 => 3 | 2 => 5 | _ => 7)

/-! ### The type of an integer instruction (R46, R63) -/

/-- The default extension of the type, reversed by the modifier bit (R46). -/
def Args.sx (f : Args) : Bool := fmtSigned f.fmt != f.ext
def Args.sg (f : Args) : Bool := fmtSigned f.fmt
def Args.w (f : Args) : Nat := fmtBits f.fmt

/-! ### P halves as S instructions (R115, R120) -/

/-- The S fields of a half whose destination is also its first source. -/
def PArgs.asArgs (p : PArgs) (fmt : BitVec 5) : Args :=
  { guard := p.guard.setWidth 4, fmt := fmt, a := p.dst.operand p.half, b := p.dst.operand p.half, c := p.src.operand p.half }
/-- The S fields of a move. -/
def PArgs.asMove (p : PArgs) (fmt : BitVec 5) : Args :=
  { guard := p.guard.setWidth 4, fmt := fmt, a := p.dst.operand p.half, b := p.src.operand p.half }
/-- The S fields of a half with an immediate. -/
def PImm.asArgs (p : PImm) (fmt : BitVec 5) : Args :=
  { guard := p.guard.setWidth 4, fmt := fmt, a := p.dst.operand p.half, b := p.dst.operand p.half, c := .imm p.imm }
def PImm.asMove (p : PImm) (fmt : BitVec 5) : Args :=
  { guard := p.guard.setWidth 4, fmt := fmt, a := p.dst.operand p.half, b := .imm p.imm }

end Sys2Proof

namespace Sys2Proof.Machine

/-! ### Names: budget and latch window -/

/-- `BUDGET` and then `LATCH` of an instruction's operands, whatever its lanes (R42, R53). -/
def State.namesStop (s : State) (l : List Operand) : Option Stop :=
  (stopIf (l.any fun o => !o.inBudget s.fur.budget) .budget).or
    (stopIf (l.any fun o => !o.inWindow s.fur.latches.length) .latch)

/-! ### Sources -/

/-- The bits an operand supplies in a lane, at most `w` of them read, and their width there (R41, R46, R53, R56, R117). -/
def State.raw (s : State) (w : Nat) (o : Operand) (i : Nat) : Src × Nat :=
  match o with
  | .slice st c =>
    let n := min (codeBits c) w
    let l := s.lane i
    (⟨l.read st.toNat n, l.poisoned st.toNat n⟩, n)
  | .latch k =>
    match s.fur.latches[k.toNat]? with
    | some e => (⟨(e.vals.getD i 0).toNat % 2 ^ w, e.poison.getLsbD i⟩, w)
    | none => (⟨0, false⟩, w)
  | .xreg x sz el =>
    let n := 64 >>> sz.toNat
    (⟨(s.x x.toNat).toNat / 2 ^ (n * el.toNat) % 2 ^ n, s.xp x.toNat⟩, n)
  | .imm v => (⟨wrap w v.toInt, false⟩, w)
  | .mask k => (⟨if (s.mask k.toNat).getLsbD i then 1 else 0, false⟩, 32)
  | .lane => (⟨i, false⟩, 32)
  | .gw => (⟨32, false⟩, 32)
  | .plotid => (⟨s.plot.lplot % 2 ^ 32, false⟩, 32)
  | .furrow => (⟨s.fur.logical.toNat, false⟩, 32)
  | _ => (⟨0, false⟩, w)

/-- A source adapted to an operation of width `w`: narrower ones sign-extended where `sx`, else zero-extended, wider
ones cut (R46). -/
def State.src (s : State) (sx : Bool) (w : Nat) (o : Operand) (i : Nat) : Src :=
  let (x, n) := s.raw w o i
  ⟨if n < w then extend sx n w x.v else x.v % 2 ^ w, x.p⟩

/-- A source read unsigned at its own width (R153): an immediate is R12's value kept at 11 bits. -/
def State.own (s : State) (w : Nat) (o : Operand) (i : Nat) : Src :=
  match o with
  | .imm v => ⟨v.toNat, false⟩
  | _ => s.src false (o.ownWidth w) o i

/-- A source lane outside the issuing split supplies zero with clear poison (R161). -/
def State.cross (s : State) (g : Nat → Src) (i : Nat) : Src := if s.m0.getLsbD i then g i else ⟨0, false⟩

/-- The lane a uniform source is read from: the lowest active one, or the lowest of the split (R132). -/
def State.uniLane (s : State) (act : Mask) : Nat := (lowest act).getD ((lowest s.m0).getD 0)

/-- A uniform 64-bit source (R132); an immediate is sign-extended (R12). -/
def State.uni (s : State) (act : Mask) (o : Operand) : Src := s.src true 64 o (s.uniLane act)
/-- A uniform source read unsigned (R132). -/
def State.uniU (s : State) (act : Mask) (o : Operand) : Src := s.own 64 o (s.uniLane act)

/-- A uniform source of an n-type width: a narrower one is zero-extended, an immediate sign-extended to the width (R12, R46,
R132). -/
def State.uniN (s : State) (w : Nat) (act : Mask) (o : Operand) : Src := s.src false w o (s.uniLane act)

/-! ### Destinations -/

/-- The result `w` bits wide in a lane, extended to 64 bits (R46, R53). -/
def wide64 (sx : Bool) (w : Nat) (x : Src) : Src := ⟨extend sx w 64 x.v, x.p⟩

/-- Writes a result of width `w` (R46, R53, R57): slices in the active lanes, or the x-register of the lowest active
lane; a slice or `l0` destination pushes the latch window. -/
def Furrow.result (f : Furrow) (dst : Operand) (sx : Bool) (w : Nat) (act : Mask) (vals : Nat → Src) : Furrow :=
  let full := fun i => wide64 sx w (vals i)
  match dst with
  | .slice st c => (f.setSlices st.toNat (codeBits c) act full).pushLatch act full
  | .latchOnly => f.pushLatch act full
  | .xreg x _ _ =>
    match lowest act with
    | some i => f.setX x.toNat (full i)
    | none => f
  | _ => f
def State.result (s : State) (dst : Operand) (sx : Bool) (w : Nat) (act : Mask) (vals : Nat → Src) : State :=
  s.setFur (s.fur.result dst sx w act vals)

/-- A destination read as a source (R154, R155): nothing to read where it is `l0`. -/
def State.dest (s : State) (w : Nat) (dst : Operand) (i : Nat) : Src :=
  match dst with
  | .slice .. | .xreg .. => s.src false (dst.destWidth w) dst i
  | _ => ⟨0, false⟩

end Sys2Proof.Machine
end

