-- ==== Sys2Proof/Machine/Space.lean ====
section
/-! DEFINITION. Memory as a furrow sees it: translation (R320 to R322), silo and held stores (R91, R92), snapshots (R90),
commits and boundaries (R94), acquires (R95), the scope checker (R98, R99). -/

namespace Sys2Proof.Machine

/-! ### Page tables (R321) -/

def pageSize : Nat := 65536
/-- Start of the top 64 KiB: the copy aperture (R212). -/
def aperture : Nat := 0x000FFFFFFFFF0000
/-- End of the virtual space (R190). -/
def vaEnd : Nat := 2 ^ 52

/-- What a walk ends at (R322). -/
inductive Walk
  | leaf (e : TlbEntry)
  | invalid
  /-- a poisoned entry: the job ends with `MEMECC` -/
  | poisoned
deriving DecidableEq, Repr

/-- The leaf an entry describes at a level (0 to 3), if it is well formed there (R321). -/
def leafOf (asid : BitVec 16) (va level e : Nat) : Walk :=
  let code := bitsOf e 2 2
  let size := match code with | 0 => 2 ^ 16 | 1 => 2 ^ 21 | 2 => 2 ^ 26 | _ => 2 ^ 30
  let fits := match code with | 0 => level == 3 | 1 => level == 2 | 2 => level == 2 | _ => level == 1
  let pa := bitsOf e 8 40 * 256
  if fits && pa % size == 0 && paOk pa then
    .leaf { asid := asid, va := va / size * size, size := size, pa := pa, r := bitOf e 4, w := bitOf e 5, x := bitOf e 6, p := bitOf e 7 }
  else .invalid

/-- The index of a virtual address at a level. -/
def walkIndex (va level : Nat) : Nat :=
  match level with | 0 => bitsOf va 41 11 | 1 => bitsOf va 30 11 | 2 => bitsOf va 21 9 | _ => bitsOf va 16 5

/-- One level of a walk: the end it comes to, or the next table (R321, R322). -/
def walkLevel (mem : List Host.Cell) (poisoned : List Nat) (asid : BitVec 16) (va level table : Nat) : Walk ⊕ Nat :=
  let at_ := table + 8 * walkIndex va level
  let e := Memory.readN mem at_ 8
  if poisoned.contains (at_ / 64) then .inl .poisoned
  else if !bitOf e 0 || bitsOf e 60 4 != 0 then .inl .invalid
  else if bitOf e 1 then (if level != 3 && paOk (bitsOf e 8 40 * 256) then .inr (bitsOf e 8 40 * 256) else .inl .invalid)
  else .inl (leafOf asid va level e)

/-- Walks from a table at level `3 - n` (R322). -/
def walkFrom (mem : List Host.Cell) (poisoned : List Nat) (asid : BitVec 16) (va : Nat) : Nat → Nat → Walk
  | 0, table => match walkLevel mem poisoned asid va 3 table with | .inl w => w | .inr _ => .invalid
  | n + 1, table =>
    match walkLevel mem poisoned asid va (2 - n) table with
    | .inl w => w
    | .inr next => walkFrom mem poisoned asid va n next

/-- The walk of a job's table for an address. -/
def State.walk (s : State) (j : Job) (va : Nat) : Walk := walkFrom s.mem s.poisoned j.asid va 3 j.root

/-- The permissions an access needs (R321). -/
def TlbEntry.allows (e : TlbEntry) (acc : Access) (priv : Bool) : Bool :=
  (!e.p || priv) &&
    match acc with | .load => e.r | .store => e.w | .atomic => e.r && e.w | .fetch => e.x

def TlbEntry.covers (e : TlbEntry) (asid : BitVec 16) (va : Nat) : Bool :=
  e.asid == asid && decide (e.va ≤ va ∧ va < e.va + e.size)

/-- The die of a core by number (1 to 384). -/
def coreDie (core : Nat) : Nat := (core - 1) / 96

/-- The translation that the core or its die holds for an address (R322). -/
def State.tlbFind (s : State) (asid : BitVec 16) (va : Nat) : Option TlbEntry :=
  (s.core.tlb.find? (·.covers asid va)).or
    ((s.tcache.find? fun p => p.1 == s.plot.die && p.2.covers asid va).map (·.2))

/-- The physical address of an access of the furrow in the issue stage, where a held translation permits it. -/
def State.pa (s : State) (acc : Access) (va : Nat) : Option Nat :=
  match s.tlbFind s.job.asid va with
  | some e => if e.allows acc s.fur.priv then some (e.pa + (va - e.va)) else none
  | none => none

/-- The physical address that a walk of a job's table gives an engine or the kernel. -/
def State.jobPa (s : State) (j : Job) (acc : Access) (va : Nat) : Option Nat :=
  match s.walk j va with
  | .leaf e => if e.allows acc false then some (e.pa + (va - e.va)) else none
  | _ => none

/-! ### Checks of a memory instruction (R190 to R192) -/

def lanesMask (l : List Nat) : Mask := maskOf fun i => l.contains i

/-- The first of `ADDR`, `ALIGN` and translation that a list of (lane, address) meets, every access `n` bytes long and
aligned to `al` (R192). -/
def State.accessStop (s : State) (acc : Access) (n al : Nat) (l : List (Nat × Nat)) : Option Stop :=
  let bad := l.filter fun p => decide (aperture < p.2 + n)
  let mis := l.filter fun p => p.2 % al != 0
  let miss := l.filter fun p => (s.pa acc p.2).isNone || (s.pa acc (p.2 + n - 1)).isNone
  let fault := fun (c : Cause) (b : List (Nat × Nat)) (a : Nat) =>
    Stop.fault { cause := c, lanes := lanesMask (b.map (·.1)), addr := BitVec.ofNat 64 a }
  match bad, mis, miss with
  | p :: _, _, _ => some (fault .addr bad p.2)
  | [], p :: _, _ => some (fault .align mis p.2)
  | [], [], p :: _ =>
    let page := if (s.pa acc p.2).isNone then p.2 else p.2 + n - 1
    match s.fur.refused with
    | some (v, a) =>
      if a == acc && v.toNat / pageSize == page / pageSize then
        some (fault .page (miss.filter fun q => q.2 / pageSize == page / pageSize || (q.2 + n - 1) / pageSize == page / pageSize) page)
      else some (.walk (BitVec.ofNat 64 page) acc)
    | none => some (.walk (BitVec.ofNat 64 page) acc)
  | [], [], [] => none

/-! ### The queues in memory, and read-only fields (R4, R328) -/

/-- Base, entry count, PROD and CONS of a queue. SIZE outside 6 to 16 acts as 6 (log entry 8). -/
structure QHead where
  base : Nat
  size : Nat
  prod : Nat
  cons : Nat
deriving DecidableEq, Repr

def qHead (m : Memory) (at_ : Nat) : QHead :=
  let sz := Memory.readN m (at_ + 8) 1 % 16
  { base := Memory.readN m at_ 8
    size := 2 ^ (if 6 ≤ sz then sz else 6)
    prod := Memory.readN m (at_ + 16) 8
    cons := Memory.readN m (at_ + 24) 8 }

/-- The queues in use: those that the registers name and those that plots keep (R223). Address 0 is no queue. -/
def State.trapQueues (s : State) : List Nat := ((s.trapq :: s.allPlots.map (·.trapq)).map (·.toNat)).eraseDups.filter (· ≠ 0)
def State.faultQueues (s : State) : List Nat := ((s.faultq :: s.allPlots.map (·.faultq)).map (·.toNat)).eraseDups.filter (· ≠ 0)

/-- The bits of a queue header that no store of software changes: [127:68], PROD, LOST and [511:320]. -/
def headerFixed : Nat := (2 ^ 192 - 2 ^ 68) + (2 ^ 512 - 2 ^ 256)
/-- The bits of a fault-queue entry that no store of software changes: all but DISP. -/
def entryFixed : Nat := 2 ^ 512 - 1 - 255 * 2 ^ 384

/-- Whether a sector lies in the array of a queue with entries of `w` bytes. -/
def inQueue (m : Memory) (w sec q : Nat) : Bool :=
  let h := qHead m q
  decide (h.base ≤ 64 * sec ∧ 64 * sec < h.base + w * h.size)

/-- The bits of a sector that no store changes: the read-only and reserved fields of queue headers, trap records and fault-queue
entries (R4, R328). -/
def State.fixedBits (s : State) (sec : Nat) : Nat :=
  if (s.trapQueues ++ s.faultQueues).any (· / 64 == sec) then headerFixed
  else if s.trapQueues.any (inQueue s.mem 256 sec) then 2 ^ 512 - 1
  else if s.faultQueues.any (inQueue s.mem 64 sec) then entryFixed
  else 0

/-- Those bits within one byte. -/
def State.fixedByte (s : State) (pa : Nat) : Byte := BitVec.ofNat 8 (bitsOf (s.fixedBits (pa / 64)) (8 * (pa % 64)) 8)

/-- A byte stored over another: the fixed bits stand. -/
def mixByte (fx old new : Byte) : Byte := (old &&& fx) ||| (new &&& ~~~fx)

/-- Memory after a store of software to a sector, which would make it `m`: the fixed bits stand. -/
def State.keepFixed (s : State) (sec : Nat) (m : Memory) : Memory :=
  if s.fixedBits sec = 0 then m
  else (List.range 64).foldl (fun m k => Memory.setByte m (64 * sec + k)
    (mixByte (s.fixedByte (64 * sec + k)) (Memory.byte s.mem (64 * sec + k)) (Memory.byte m (64 * sec + k)))) m

/-! ### Snapshots (R88, R90) -/

/-- What a load at home still finds of a byte that a job in flight has written: the old value until the write has reached it
(R103). -/
def State.inFlight (s : State) (pa : Nat) : Option Byte :=
  s.ejobs.findSome? fun (e : EJob) => (e.old.find? fun x => x.1 == pa && Memory.byte s.mem pa == x.2.2 &&
    decide (s.steps < Config.lands (e.id * 2 ^ 48 + pa))).map (·.2.1)

/-- A sector as a load finds it at home: each byte of a region that an engine job is writing is the old or the new one (R103). -/
def State.homeSector (s : State) (sec : Nat) : BitVec 512 :=
  if s.ejobs.all (·.old.isEmpty) then Memory.sector s.mem sec
  else (List.range 64).foldl (fun w k => match s.inFlight (64 * sec + k) with
    | some b => (w &&& ~~~(BitVec.ofNat 512 (255 * 2 ^ (8 * k)))) ||| BitVec.ofNat 512 (b.toNat * 2 ^ (8 * k))
    | none => w) (Memory.sector s.mem sec)

/-- A sector as a load finds it at home, with its poison (R196). -/
def State.memSector (s : State) (sec : Nat) : BitVec 512 × Bool := (s.homeSector sec, s.poisoned.contains sec)

/-- Sectors that L1 (256 KiB), a die's remote-data cache (32 MiB) and a home slice of L2 (2 MiB) hold (R88). -/
def l1Sectors : Nat := 4096
def rdcSectors : Nat := 524288
def l2Sectors : Nat := 32768

/-- Whether two lines have one home slice (R89). -/
def sameSlice (a b : Nat) : Bool := homeDie (128 * a) == homeDie (128 * b) && homeSlice (128 * a) == homeSlice (128 * b)

/-- The two sectors of the line of a sector. -/
def lineOf (sec : Nat) : List Nat := [sec / 2 * 2, sec / 2 * 2 + 1]

/-- The copies of a sector that the core and its die may still use (R90): evicted ones are gone (log entry 6). A copy of
another die's sector counts by the step at which it left its home, so that a line which another plot has filled from an
older remote-data-cache sector serves no plot that has acquired since (R95, R111). -/
def State.l1Copy (s : State) (sec : Nat) : Option SectorCopy :=
  s.core.l1.find? fun c => c.sector == sec && (homeDie (64 * sec) == s.plot.die || decide (s.plot.acqAt ≤ c.at_)) &&
    !Config.evicts (s.steps * 2 ^ 48 + sec)
def State.rdcCopy (s : State) (sec : Nat) : Option SectorCopy :=
  (s.rdc.find? fun p => p.1 == s.plot.die && p.2.sector == sec && decide (s.plot.acqAt ≤ p.2.at_) &&
    !Config.evicts (s.steps * 2 ^ 48 + 2 ^ 47 + sec)).map (·.2)

/-- A sector as a plain load of the plot sees it below the silo (R90). -/
def State.snapSector (s : State) (sec : Nat) : BitVec 512 × Bool :=
  match s.l1Copy sec with
  | some c => (c.data, c.poison)
  | none =>
    if homeDie (64 * sec) == s.plot.die then s.memSector sec
    else match s.rdcCopy sec with
      | some c => (c.data, c.poison)
      | none => s.memSector sec

/-- The newest copies of a die that its remote-data cache holds; older ones are evicted (R88). -/
def keepRdc (die : Nat) (l : List (Nat × SectorCopy)) : List (Nat × SectorCopy) :=
  (l.filter fun p => p.1 == die).take rdcSectors ++ l.filter fun p => p.1 != die

/-- Keeps what a load read of a sector: L1, and the remote-data cache for another die's sector (R90). -/
def State.fillSector (s : State) (sec : Nat) : State :=
  let v := s.snapSector sec
  let away := homeDie (64 * sec) != s.plot.die
  let from_ := if away then ((s.rdcCopy sec).map (·.at_)).getD s.steps else s.steps
  let copy : SectorCopy := { sector := sec, data := v.1, poison := v.2, at_ := from_ }
  let s1 :=
    if !away || (s.rdcCopy sec).isSome || (s.l1Copy sec).isSome then s
    else { s with rdc := keepRdc s.plot.die ((s.plot.die, copy) :: s.rdc.filter fun p => !(p.1 == s.plot.die && p.2.sector == sec)) }
  if (s.l1Copy sec).isSome then s1
  else s1.setCore { s1.core with l1 := (copy :: s1.core.l1.filter (·.sector ≠ sec)).take l1Sectors }

/-! ### Silo (R91, R92) -/

def SiloEntry.byte (e : SiloEntry) (off : Nat) : Byte := e.data.extractLsb' (8 * off) 8

/-- Whether a furrow reads an entry's byte at a physical address (R91). -/
def SiloEntry.hits (e : SiloEntry) (tag : BitVec 7) (pa : Nat) : Bool :=
  e.sector == pa / 64 && e.mask.getLsbD (pa % 64) && (e.vis || e.tag == tag)

/-- All entries of a plot, oldest first: the held-store area, then the silo (R92). -/
def Plot.entries (p : Plot) : List SiloEntry := p.held ++ p.silo

/-- The newest entry covering a byte that the furrow may read (R91). -/
def State.entryAt (s : State) (pa : Nat) : Option SiloEntry :=
  s.plot.entries.foldl (fun acc e => if e.hits s.fur.tag pa then some e else acc) none

/-- One byte below the silo, with its poison: at the home slice, or from a copy (R90, R95). -/
def State.below (s : State) (home : Bool) (pa : Nat) : Byte × Bool :=
  let v := if home then s.memSector (pa / 64) else s.snapSector (pa / 64)
  (v.1.extractLsb' (8 * (pa % 64)) 8, v.2)

/-- One byte by R91, with its poison; `home` reads the rest at the home slice (R95). A read-only bit reads as it stands, whatever
has been stored to it (R4). -/
def State.viewByte (s : State) (home : Bool) (pa : Nat) : Byte × Bool :=
  match s.entryAt pa with
  | none => s.below home pa
  | some e =>
    if s.fixedByte pa = 0 then (e.byte (pa % 64), e.poison)
    else (mixByte (s.fixedByte pa) (s.below home pa).1 (e.byte (pa % 64)), e.poison || (s.below home pa).2)

/-- `n` bytes at a virtual address, little-endian, with the poison of what was read (R195). -/
def State.view (s : State) (home : Bool) (va : Nat) : Nat → Src
  | 0 => ⟨0, false⟩
  | n + 1 =>
    let b := s.viewByte home ((s.pa .load va).getD 0)
    let rest := s.view home (va + 1) n
    ⟨b.1.toNat + 256 * rest.v, b.2 || rest.p⟩

/-- The sectors that a read of `n` bytes takes below the silo. -/
def State.readSectors (s : State) (va : Nat) : Nat → List Nat
  | 0 => []
  | n + 1 =>
    let pa := (s.pa .load va).getD 0
    if (s.entryAt pa).isSome && s.fixedByte pa == 0 then s.readSectors (va + 1) n
    else insertNat (pa / 64) (s.readSectors (va + 1) n)

/-- Fills the lines of sectors (R90). -/
def State.fillAll (s : State) (l : List Nat) : State := (l.flatMap lineOf).foldl State.fillSector s

/-- Merges bytes into an entry: `n` bytes of `v` from byte `off`. -/
def SiloEntry.put (e : SiloEntry) (off n v : Nat) (p : Bool) : SiloEntry :=
  let m := (2 ^ (8 * n) - 1) * 2 ^ (8 * off)
  { e with
    data := (e.data &&& ~~~(BitVec.ofNat 512 m)) ||| BitVec.ofNat 512 (v % 2 ^ (8 * n) * 2 ^ (8 * off))
    mask := e.mask ||| BitVec.ofNat 64 ((2 ^ n - 1) * 2 ^ off)
    poison := e.poison || p }

/-- A store into a list of entries: it merges into the furrow's own entry of the sector that is not plot-visible, or
makes a new one, with the number `num` (R91). -/
def siloPut (num : Nat) (tag : BitVec 7) (vis : Bool) (sec va off n v : Nat) (p : Bool) : List SiloEntry → List SiloEntry
  | [] => [({ sector := sec, va := va, data := 0, mask := 0, tag := tag, vis := vis, poison := false, num := num } : SiloEntry).put off n v p]
  | e :: rest =>
    if e.sector == sec && e.tag == tag && !e.vis && !vis then e.put off n v p :: rest
    else e :: siloPut num tag vis sec va off n v p rest

/-- Moves the oldest entries beyond the share to the held-store area (R92). -/
def Plot.spillSilo (p : Plot) : Plot :=
  let excess := p.silo.length - 64 * p.siloUnits
  { p with held := p.held ++ p.silo.take excess, silo := p.silo.drop excess }

/-- Stores `n` bytes, within one sector, of the furrow in the issue stage. It merges into an entry of the silo only: whether
R91's merge reaches an entry that has moved to the held-store area, the spec leaves open (the model's choice, log entry
75). -/
def State.putPart (s : State) (vis : Bool) (va pa n v : Nat) (p : Bool) : State :=
  s.setPlot ({ s.plot with
    silo := siloPut s.plot.entryNum s.fur.tag vis (pa / 64) (va / 64) (pa % 64) n v p s.plot.silo, entryNum := s.plot.entryNum + 1 }.spillSilo)

/-- Stores `n` bytes at a virtual address as silo entries (R91, R196); a `.ua` access may span two sectors. -/
def State.putStore (s : State) (vis : Bool) (va n v : Nat) (p : Bool) : State :=
  let pa := (s.pa .store va).getD 0
  let n1 := min n (64 - pa % 64)
  let s1 := s.putPart vis va pa n1 v p
  if n1 < n then s1.putPart vis (va + n1) ((s.pa .store (va + n1)).getD 0) (n - n1) (v / 2 ^ (8 * n1)) p else s1

/-! ### Commits (R90, R94, R196) -/

/-- The committing core's L1 copy of a sector takes the new bytes, and their poison; its die's remote-data cache drops its
copy (R90, R196). -/
def State.touchCopies (s : State) (core die sec : Nat) (off n v : Nat) (p : Bool) : State :=
  let m := ((2 ^ (8 * n) - 1) * 2 ^ (8 * off)) &&& (2 ^ 512 - 1 - s.fixedBits sec)
  let s1 := { s with rdc := s.rdc.filter fun p => !(p.1 == die && p.2.sector == sec) }
  if (s1.coreOf core).l1.any (·.sector = sec) then
    s1.modCore core fun c =>
      { c with l1 := c.l1.map fun x =>
          if x.sector = sec then
            { x with data := (x.data &&& ~~~(BitVec.ofNat 512 m)) ||| BitVec.ofNat 512 (v % 2 ^ (8 * n) * 2 ^ (8 * off) &&& m)
                     poison := x.poison || p }
          else x }
  else s1

/-- The byte mask of an entry as a mask over its bits. -/
def byteMask (m : BitVec 64) : Nat :=
  (List.range 64).foldl (fun acc i => if m.getLsbD i then acc + 255 * 2 ^ (8 * i) else acc) 0

/-- A sector of far memory becomes dirty at its home slice; near memory keeps no copy there, and the oldest dirty sector
of a slice beyond its 2 MiB is written back (R88). -/
def State.dirty (s : State) (sec : Nat) : State :=
  if isNear (64 * sec) || s.l2.any (·.1 == sec) then s
  else
    let here := fun (p : Nat × BitVec 512) => sameSlice (p.1 / 2) (sec / 2)
    { s with l2 := (sec, Memory.sector s.mem sec) :: (s.l2.filter here).take (l2Sectors - 1) ++ s.l2.filter fun p => !here p }

/-- Commits one entry of a plot to its home slice. -/
def State.commitEntry (core die : Nat) (s : State) (e : SiloEntry) : State :=
  let s := s.dirty e.sector
  let mem := s.keepFixed e.sector (Memory.writeMasked s.mem (64 * e.sector) e.mask.toNat e.data.toNat 64)
  let bits := BitVec.ofNat 512 (byteMask e.mask &&& (2 ^ 512 - 1 - s.fixedBits e.sector))
  let full := e.mask == BitVec.allOnes 64
  let s1 := { s with
    mem := mem
    poisoned := if e.poison then setPoison s.poisoned e.sector true
                else if full then setPoison s.poisoned e.sector false else s.poisoned
    rdc := s.rdc.filter fun p => !(p.1 == die && p.2.sector == e.sector) }
  if (s1.coreOf core).l1.any (·.sector = e.sector) then
    s1.modCore core fun c =>
      { c with l1 := c.l1.map fun x =>
          if x.sector = e.sector then
            { x with data := (x.data &&& ~~~bits) ||| (e.data &&& bits)
                     poison := if e.poison then true else if full then false else x.poison }
          else x }
  else s1

/-- Commits every entry of a plot, in entry order (R94). -/
def State.commitPlot (s : State) (p : Plot) : State :=
  let s1 := p.entries.foldl (State.commitEntry p.core p.die) s
  s1.modPlot p.id fun q => { q with silo := [], held := [] }

/-- The bytes of an entry among `n` from a virtual address, as a mask. -/
def SiloEntry.bytesIn (e : SiloEntry) (va n : Nat) : BitVec 64 :=
  let lo := Nat.max va (64 * e.va) - 64 * e.va
  let hi := Nat.min (va + n) (64 * e.va + 64) - 64 * e.va
  e.mask &&& BitVec.ofNat 64 (2 ^ hi - 2 ^ lo)

/-- Whether an entry holds one of `n` bytes from a virtual address. -/
def SiloEntry.meets (e : SiloEntry) (va n : Nat) : Bool := e.bytesIn va n != 0

/-- Whether an entry holds one of `n` bytes, within a sector, from a physical address. -/
def SiloEntry.meetsPa (e : SiloEntry) (pa n : Nat) : Bool :=
  e.sector == pa / 64 && e.mask &&& BitVec.ofNat 64 ((2 ^ n - 1) * 2 ^ (pa % 64)) != 0

/-- Which entries of a list, oldest first, are committed where a predicate picks some: with each, the older ones that share a
byte with it, since a sector's entries drain in their order (R94). The first part is the bytes taken, by sector. -/
def takenEntries (pick : SiloEntry → Bool) : List SiloEntry → List (Nat × BitVec 64) × List Bool
  | [] => ([], [])
  | e :: rest =>
    let (got, flags) := takenEntries pick rest
    if pick e || got.any (fun p => p.1 == e.sector && p.2 &&& e.mask != 0) then ((e.sector, e.mask) :: got, true :: flags)
    else (got, false :: flags)

/-- The members of a list whose flag is the given one. -/
def withFlag {α : Type} (b : Bool) (l : List α) (flags : List Bool) : List α :=
  (l.zip flags).filterMap fun p => if p.2 == b then some p.1 else none

/-- The entries that a pick commits. -/
def Plot.taken (p : Plot) (pick : SiloEntry → Bool) : List SiloEntry := withFlag true p.entries (takenEntries pick p.entries).2

/-- A plot without the entries that a pick commits. -/
def Plot.without (p : Plot) (pick : SiloEntry → Bool) : Plot :=
  let flags := (takenEntries pick p.entries).2
  { p with held := withFlag false p.held (flags.take p.held.length), silo := withFlag false p.silo (flags.drop p.held.length) }

/-- Commits the entries of the plot in the issue stage that a predicate picks, with the older ones beneath them (R97, R103). -/
def State.commitWhere (s : State) (pick : SiloEntry → Bool) : State :=
  let s1 := (s.plot.taken pick).foldl (State.commitEntry s.plot.core s.plot.die) s
  let p := s.plot.without pick
  s1.setPlot { s1.plot with held := p.held, silo := p.silo }

/-- The same of any plot. -/
def State.commitOf (s : State) (p : Plot) (pick : SiloEntry → Bool) : State :=
  ((p.taken pick).foldl (State.commitEntry p.core p.die) s).modPlot p.id fun q => { q with held := (p.without pick).held, silo := (p.without pick).silo }

/-- Marks every entry of the plot plot-visible (R94). -/
def State.showAll (s : State) : State :=
  s.setPlot { s.plot with
    silo := s.plot.silo.map fun e => { e with vis := true }
    held := s.plot.held.map fun e => { e with vis := true } }

/-! ### Engine regions (R102, R103) -/

def regionHits (va n : Nat) (r : Nat × Nat × Bool) : Bool := decide (va < r.1 + r.2.1 ∧ r.1 < va + n)
/-- Jobs of a plot whose stamp is not written. -/
def State.flying (s : State) (plot : Nat) : List EJob := s.ejobs.filter (·.plot = plot)
/-- Sequencer operations of a plot: queued at its core, or saved with it. -/
def State.plotOps (s : State) (plot : Nat) : List SeqOp :=
  match s.plotOf plot with
  | none => []
  | some p => (s.coreOf p.core).seq.filter (·.plot = plot) ++ p.savedOps
/-- A synchronisation of logical furrows (R256): what one of them issued is ordered before what the others issue later. -/
def State.syncOps (s : State) (plot core : Nat) (m : Mask) : State :=
  let s1 := s.modCore core fun c =>
    { c with seq := c.seq.map fun (o : SeqOp) =>
        if o.plot == plot && o.issuers &&& m != 0 then { o with before := o.before ||| m } else o }
  { s1 with ejobs := s1.ejobs.map fun (e : EJob) =>
      if e.plot == plot && e.issuers &&& m != 0 then { e with before := e.before ||| m } else e }
/-- Whether a commit must wait: an entry with a byte in a region of a job in flight (R103). -/
def State.entryHeld (s : State) (plot : Nat) (e : SiloEntry) : Bool :=
  ((s.flying plot).any fun j => j.regions.any fun r => e.meets r.1 r.2.1) ||
    (s.plotOps plot).any fun o => o.regions.any fun r => e.meets r.1 r.2.1
def State.commitBlocked (s : State) (p : Plot) : Bool := p.entries.any (s.entryHeld p.id)

/-! ### Acquires and the scope checker (R95, R98, R99) -/

/-- The refresh of an acquire at a scope (R95). -/
def State.refresh (s : State) (sc : BitVec 3) : State :=
  match sc.toNat with
  | 0 | 1 => s
  | 2 => s.setCore { s.core with l1 := [] }
  | _ => (s.setCore { s.core with l1 := [] }).setPlot { s.plot with acqAt := s.steps }

/-- Drops the copies of sectors that were read or changed at home, so that no later load returns an older byte (R90, R97). -/
def State.dropCopies (s : State) (secs : List Nat) : State :=
  let s1 := s.setCore { s.core with l1 := s.core.l1.filter fun c => !secs.contains c.sector }
  { s1 with rdc := s1.rdc.filter fun p => !(p.1 == s.plot.die && secs.contains p.2.sector) }

/-- Whether a scope includes the other party of a record (R99): `alive` when the record's plot has not ended. -/
def scopeIncludes (sc : BitVec 3) (r : CheckRec) (alive : Bool) (tag : BitVec 24) (die : Nat) : Bool :=
  match sc.toNat with
  | 0 | 1 => !r.remote && alive && r.ptag == tag
  | 2 => !r.remote && r.die == die
  | 3 => !r.remote
  | _ => true

/-- A check that has used the record of a line makes it the most recently used of its slice (R98). -/
def State.useRecord (s : State) (pa : Nat) : State :=
  match s.checker.find? (·.line = pa / 128) with
  | none => s
  | some r => { s with checker := r :: s.checker.filter (·.line ≠ pa / 128) }

/-- Whether an acquire or atomic of a plot at a scope passes the check at a line (R99). -/
def State.scopeOkFor (s : State) (tag : BitVec 24) (die : Nat) (sc : BitVec 3) (pa : Nat) : Bool :=
  match s.checker.find? (·.line = pa / 128) with
  | none => true
  | some r =>
    let alive := s.allPlots.any fun p => p.tag == r.ptag && p.status != .ended
    scopeIncludes sc r alive tag die && scopeIncludes r.scope r alive tag die

/-- The same for the plot in the issue stage. -/
def State.scopeOk (s : State) (sc : BitVec 3) (pa : Nat) : Bool := s.scopeOkFor s.plot.tag s.plot.die sc pa

/-- Records a release or an atomic at a line; a slice keeps 4,096 records, the least recently used leaves (R98). -/
def State.addRecord (s : State) (r : CheckRec) : State :=
  let rest := s.checker.filter (·.line ≠ r.line)
  let same := fun (c : CheckRec) => sameSlice c.line r.line
  let rest := if 4096 ≤ (rest.filter same).length then
      match (rest.filter same).getLast? with | some o => rest.filter (· ≠ o) | none => rest
    else rest
  { s with checker := r :: rest }

/-- The record of the plot in the issue stage. -/
def State.recordOf (s : State) (sc : BitVec 3) (pa : Nat) : CheckRec :=
  { line := pa / 128, scope := sc, die := s.plot.die, core := (s.plot.core - 1) % 96, remote := false, ptag := s.plot.tag }

/-- Performs a write of `n` bytes, within one sector, at a home slice: memory, and the copies as for a commit (R90). -/
def State.writePart (s : State) (core die pa n v : Nat) (p : Bool) : State :=
  let s := s.dirty (pa / 64)
  let s1 := { s with
    mem := s.keepFixed (pa / 64) (Memory.writeN s.mem pa n v)
    poisoned := if p then setPoison s.poisoned (pa / 64) true else s.poisoned }
  s1.touchCopies core die (pa / 64) (pa % 64) n v p

/-- Performs a write at a home slice; `.ua` may make it span two sectors, whose second starts at `pa2` (R191). -/
def State.writeHome (s : State) (core die pa pa2 n v : Nat) (p : Bool) : State :=
  let n1 := min n (64 - pa % 64)
  let s1 := s.writePart core die pa n1 v p
  if n1 < n then s1.writePart core die pa2 (n - n1) (v / 2 ^ (8 * n1)) p else s1

end Sys2Proof.Machine
end

