-- ==== Sys2Proof/Machine/Reduce.lean ====
section
/-! DEFINITION. What an atomic does to a word (R202 to R205), and the reductions of determinate launches on their way to it:
staging (R100). -/

namespace Sys2Proof.Machine

/-! ### The operations (R202 to R205) -/

inductive AtomOp
  | add | min | max | and | or | xor | xchg | cas | winc
deriving DecidableEq, Repr

/-- The code of a reduction in a buffered entry. -/
def AtomOp.code : AtomOp → BitVec 3
  | .add => 0 | .min => 1 | .max => 2 | .and => 3 | .or => 4 | .xor => 5 | _ => 6
def AtomOp.ofCode (c : BitVec 3) : AtomOp :=
  match c.toNat with | 0 => .add | 1 => .min | 2 => .max | 3 => .and | 4 => .or | _ => .xor

/-- The new value of a word: `c` the operand, `d` the new value of a compare-and-swap. A float add that overflows gives ±∞ where
IEEE 754 does under its rounding (R66), else the largest finite value: R203's "overflow to ±∞" is read as "without a clamp" (the
model's choice, log entry 83). -/
def atomFn (fmt : BitVec 5) (op : AtomOp) (rnd : BitVec 3) (old c d : Nat) : Nat :=
  let w := fmtBits fmt
  let int := fun (g : Int → Int → Int) =>
    if fmtSigned fmt then wrap w (g (toSigned w old) (toSigned w c)) else wrap w (g old c)
  match op with
  | .and => old &&& c
  | .or => old ||| c
  | .xor => old ^^^ c
  | .xchg => c
  | .cas => if old = c then d else old
  | .winc => if c ≤ old then 0 else old + 1
  | .add =>
    if fmtIsInt fmt then int (· + ·)
    else (encodeNum fmt (fAdd (decodeNum fmt old) (decodeNum fmt c)).1 rnd 0 none).1
  | .min =>
    if fmtIsInt fmt then int min
    else (encodeNum fmt (fMinMax true true (decodeNum fmt old) (decodeNum fmt c)).1 0 0 none).1
  | .max =>
    if fmtIsInt fmt then int max
    else (encodeNum fmt (fMinMax false true (decodeNum fmt old) (decodeNum fmt c)).1 0 0 none).1

/-! ### Buffered and staged reductions (R100) -/

/-- Applies one reduction at its home slice, with its atomic's rounding; no core's cache takes part. -/
def State.applyRed (s : State) (e : RedEntry) : State :=
  let n := fmtBits e.fmt / 8
  let old := Memory.readN s.mem e.pa n
  s.writeHome 0 4 e.pa e.pa n (atomFn e.fmt (AtomOp.ofCode e.op) e.rnd old e.val.toNat 0) false

/-- Bits [63:0] of a completion record. -/
def Comp.lo (c : Comp) : Nat :=
  c.done % 2 ^ 32 + place (c.failed % 2 ^ 16) 32 + place c.status.toNat 48 + place c.detres.toNat 51 + place c.cause.toNat 56

/-- Writes a completion record where it lies; one with no place is only state. TEND comes first (R16). -/
def State.putComp (s : State) (c : Comp) : State :=
  if c.pa = 0 then s
  else s.setMem (Memory.writeN (Memory.writeN s.mem (c.pa + 8) 8 c.tend.toNat) c.pa 8 c.lo)

/-- Clears DETRES of a launch (R101). -/
def State.clearDetresOf (s : State) (lid : Nat) : State :=
  match s.launchOf lid with
  | none => s
  | some l =>
    if l.comp.detres then
      let c := { l.comp with detres := false }
      (s.modLaunch lid fun l => { l with comp := c }).putComp c
    else s

/-- The two sectors of the line of an address. -/
def lineSectors (pa : Nat) : List Nat := [pa / 128 * 2, pa / 128 * 2 + 1]

/-- Performs a plot's reduction at once at its home slice, as in a launch that is not determinate (R100, R97 to R99): the plot's
entries have been committed, its core's copies of the line go, and the checker takes the record. A check that fails ends the job, by no
instruction (log entry 70). -/
def State.performRed (p : Plot) (s : State) (e : RedEntry) : State :=
  if !s.scopeOkFor p.tag p.die e.scope e.pa then { s with pend := s.pend ++ [{ plot := p.id, pa := e.pa, cause := .scope }] }
  else
    let n := fmtBits e.fmt / 8
    let old := Memory.readN s.mem e.pa n
    let s1 := s.writeHome p.core p.die e.pa e.pa n (atomFn e.fmt (AtomOp.ofCode e.op) e.rnd old e.val.toNat 0) false
    let s2 := s1.modCore p.core fun c => { c with l1 := c.l1.filter fun x => !(lineSectors e.pa).contains x.sector }
    { s2 with rdc := s2.rdc.filter fun q => !(q.1 == p.die && (lineSectors e.pa).contains q.2.sector) }.addRecord
      { line := e.pa / 128, scope := e.scope, die := p.die, core := (p.core - 1) % 96, remote := false, ptag := p.tag }

/-- Entries that a launch's staging area still takes. -/
def Launch.redSpace (l : Launch) : Nat := if l.stageVa = 0 then 0 else l.stageN - l.staged.length

/-- Moves a plot's buffered reductions on a core to its launch's staging area, as far as they fit there. -/
def State.stageSome (s : State) (core pid : Nat) : State :=
  match s.plotOf pid with
  | none => s
  | some p =>
    let mine := (s.coreOf core).red.filter (·.plot = pid)
    let room := ((s.launchOf p.launch).getD {}).redSpace
    (s.modCore core fun c => { c with red := (c.red.filter (·.plot ≠ pid)) ++ mine.drop room }).modLaunch p.launch
      fun l => { l with staged := l.staged ++ mine.take room }

/-- A plot's buffered reductions that its launch's staging area would not take. -/
def State.redOver (s : State) (core pid : Nat) : List RedEntry :=
  match s.plotOf pid with
  | none => []
  | some p => ((s.coreOf core).red.filter (·.plot = pid)).drop ((s.launchOf p.launch).getD {}).redSpace

/-- Moves a plot's buffered reductions on a core to its launch's staging area; those that no longer fit there are performed at
once, and clear DETRES (R100, R101). -/
def State.stagePlot (s : State) (core pid : Nat) : State :=
  match s.plotOf pid with
  | none => s
  | some p =>
    let rest := s.redOver core pid
    let s1 := (s.stageSome core pid).modCore core fun c => { c with red := c.red.filter (·.plot ≠ pid) }
    if rest.isEmpty then s1 else (rest.foldl (State.performRed p) s1).clearDetresOf p.launch

end Sys2Proof.Machine
end

