-- ==== Sys2Proof/Machine/Ops.lean ====
section
/-! DEFINITION. Operations shared by many meanings: completion records (R15), messages (R313), the kernel's frames and
mappings (R318, R321), queues and trap records (R328), contexts (R329), TAKING A FAULT (R18, R325) and the return from
one (R224), the end of furrows, plots and jobs (R17, R52, R326), rollback and checkpoints (R38). -/

namespace Sys2Proof.Machine

/-! ### Causes (R324) -/

/-- The code of a cause. -/
def causeCode : Cause → BitVec 8
  | .illegal => 0x01 | .priv => 0x02 | .pcrange => 0x03 | .budget => 0x04 | .latch => 0x05 | .owner => 0x06
  | .align => 0x07 | .addr => 0x08 | .page => 0x09 | .splits => 0x0A | .shapefmt => 0x0B | .copyflt => 0x0C
  | .scope => 0x0D | .yokemis => 0x0E | .binbusy => 0x0F | .yieldovr => 0x10 | .bartimeout => 0x11 | .arena => 0x12
  | .user => 0x13 | .rngwrap => 0x14 | .legacy => 0x15 | .memecc => 0x20 | .integrity => 0x21 | .diverge => 0x22
  | .sensor => 0x23 | .collmis => 0x30 | .netrefuse => 0x31 | .netdown => 0x32 | .transl => 0x38
  | .nobucket => 0x40 | .bindfail => 0x41 | .launchfmt => 0x42 | .loadfmt => 0x43 | .feature => 0x44 | .hint => 0x45
  | .pinrej => 0x46 | .quota => 0x47

/-- One more use of a legacy opcode: the count holds at 2^63 − 1 (R130). -/
def countLegacy (n : Nat) : Nat := if n < 2 ^ 63 - 1 then n + 1 else n

/-- `LEGMC` or `LEGTR` as it reads: SAT is set once the count has reached its maximum (R130). -/
def legacyWord (n : Nat) : Nat := if n < 2 ^ 63 - 1 then n else 2 ^ 64 - 1

/-- What is done about a precise fault (R324). -/
inductive Disposition
  | endJob | host | service
deriving DecidableEq, Repr

def disposition : Cause → Disposition
  | .user | .rngwrap => .host
  | .legacy => .service
  | _ => .endJob

/-! ### Memory images -/

/-- The cells of a list that lie in `[lo, hi)` in rising order and are no zero. -/
def risingCells (hi : Nat) : Nat → List Host.Cell → List Host.Cell
  | _, [] => []
  | lo, c :: rest =>
    if lo ≤ c.1 ∧ c.1 < hi ∧ c.2 ≠ memFill then c :: risingCells hi (c.1 + 1) rest else risingCells hi lo rest

/-- Replaces `n` bytes from `lo` by the listed cells, which lie there in rising order. -/
def Memory.splice (m : Memory) (lo n : Nat) (cells : List Host.Cell) : Memory :=
  (m.filter fun c => decide (c.1 < lo)) ++ risingCells (lo + n) lo cells ++ (m.filter fun c => decide (lo + n ≤ c.1))

/-- The cells of a little-endian number of `n` bytes, zero bytes left out (log entry 3: an unlisted byte reads zero). -/
def numCells (a : Nat) : Nat → Nat → List Host.Cell
  | 0, _ => []
  | n + 1, v =>
    if v % 256 = 0 then numCells (a + 1) n (v / 256)
    else (a, BitVec.ofNat 8 v) :: numCells (a + 1) n (v / 256)

/-- The cells of items (offset, bytes, value) in rising order of offset. -/
def itemCells (base : Nat) (items : List (Nat × Nat × Nat)) : List Host.Cell :=
  items.flatMap fun it => if it.2.2 = 0 then [] else numCells (base + it.1) it.2.1 it.2.2

/-- The cells of a byte string. -/
def byteCells (a : Nat) : List Byte → List Host.Cell
  | [] => []
  | b :: rest => if b = memFill then byteCells (a + 1) rest else (a, b) :: byteCells (a + 1) rest

/-- Writes a byte string. -/
def Memory.writeBytes (m : Memory) (a : Nat) (bs : List Byte) : Memory := Memory.splice m a bs.length (byteCells a bs)
/-- Reads a byte string. -/
def Memory.readBytes (m : Memory) (a : Nat) : Nat → List Byte
  | 0 => []
  | n + 1 => Memory.byte m a :: Memory.readBytes m (a + 1) n

/-! ### Completion records (R15) and messages (R313, R316) -/

/-- The record of a unit that ends now, with its STATUS and CAUSE (R15, R16, R17, R326). -/
def Comp.finish (c : Comp) (cancel : Bool) (cause : Option Cause) (t : Nat) : Comp :=
  match cause with
  | some k => { c with status := 3, cause := causeCode k, tend := BitVec.ofNat 64 t }
  | none => { c with status := if cancel then 2 else 1, tend := BitVec.ofNat 64 t }

/-- Counts one contained unit that has ended. -/
def Comp.countOne (c : Comp) (bad : Bool) : Comp := { c with done := c.done + 1, failed := c.failed + bad.toNat }

/-- Clears DETRES of the launch in the issue stage (R101). -/
def State.clearDetres (s : State) : State :=
  if s.launch.comp.detres then
    let c := { s.launch.comp with detres := false }
    (s.setLaunch { s.launch with comp := c }).putComp c
  else s

def State.slotOf (s : State) (n : Nat) : Option TSlot := s.fleet.slots.find? (·.num = n)

/-- A slot's key: the management key, or a tenant slot's (R314). -/
def State.slotKey (s : State) (slot : Nat) : BitVec 256 :=
  if slot = 0xFFFFFFFF then s.fleet.store.key.getD 0 else ((s.slotOf slot).map (·.key)).getD 0

/-- A message of the module: its 64-byte header, with the module's own SEQ, signed under the slot's key, and its body (R313,
R314). -/
def State.message (s : State) (type : BitVec 8) (resp : Bool) (rstat : Nat) (slot : Nat) (asid : BitVec 16) (body : List Word) : CmdHdr :=
  ({ type := type, resp := resp, rstat := BitVec.ofNat 8 rstat, slot := BitVec.ofNat 32 slot, length := BitVec.ofNat 32 (8 * body.length)
     seq := BitVec.ofNat 64 s.fleet.outSeq, asid := asid, tag := 0, body := body } : CmdHdr).sign (s.slotKey slot)

/-- Sends a message. -/
def State.emit (s : State) (m : CmdHdr) : State :=
  { s with fleet := { s.fleet with out := s.fleet.out ++ [m], outSeq := s.fleet.outSeq + 1 } }

/-- Sends an event (R316). -/
def State.send (s : State) (type : BitVec 8) (slot : Nat) (asid : BitVec 16) (body : List Word) : State :=
  s.emit (s.message type false 0 slot asid body)

/-- Sends a response to a command (R313, R314). -/
def State.respond (s : State) (type : BitVec 8) (rstat : Nat) (slot : Nat) (asid : BitVec 16) (body : List Word) : State :=
  s.emit (s.message type true rstat slot asid body)

/-! ### The kernel's frames and mappings (R318, R320, R321; where frames lie: log entry 7) -/

/-- Where the kernel's free memory begins in each range: the first MiB is its own. -/
def kernelOwn : Nat := 2 ^ 20

/-- A frame that changes hands: zeros, without poison, and without copies of what it held. -/
def State.scrub (s : State) (pa size : Nat) : State :=
  let inF := fun (sec : Nat) => decide (pa ≤ 64 * sec ∧ 64 * sec < pa + size)
  let s1 := { s with
    mem := Memory.splice s.mem pa size [], poisoned := s.poisoned.filter (!inF ·), l2 := s.l2.filter fun p => !inF p.1
    rdc := s.rdc.filter fun p => !inF p.2.sector, checker := s.checker.filter fun r => !inF (2 * r.line) }
  s1.mapCores fun c => { c with l1 := c.l1.filter fun x => !inF x.sector }

/-- The far-memory channel of a physical address, numbered over the module: each channel of a die holds 16 GiB in address
order (log entry 24). -/
def channelOf (pa : Nat) : Nat := homeDie pa * 32 + pa / 2 ^ 34 % 32

/-- A channel that gives no frame: retired, or leaving service (R311, R359). -/
def State.channelOut (s : State) (n : Nat) : Bool := s.fleet.retired.contains (.channel n) || s.fleet.draining.contains n

/-- A frame of `size` bytes of a die's near memory, or of its channel `c`, aligned to its size and filled with zeros (R323). -/
def State.frameIn (s : State) (die : Nat) (near : Bool) (c size : Nat) : Option (Nat × State) :=
  let base := die * 2 ^ 40 + (if near then 2 ^ 39 else c * 2 ^ 34)
  let limit := if near then 2 ^ 32 else 2 ^ 34
  let key := (die, near, c)
  match s.freed.find? fun p => p.2 == size && homeDie p.1 == die && isNear p.1 == near && (near || channelOf p.1 == 32 * die + c) with
  | some p =>
    some (p.1, { s with freed := s.freed.filter (· ≠ p) }.scrub p.1 size)
  | none =>
    let used := ((s.nextFrame.find? fun p => p.1 == key).map (·.2)).getD (if near || c = 0 then kernelOwn else 0)
    let at_ := (used + size - 1) / size * size
    if limit < at_ + size then none
    else some (base + at_, { s with nextFrame := (key, at_ + size) :: s.nextFrame.filter (fun p => p.1 ≠ key) }.scrub (base + at_) size)

/-- A frame of a die's memory: of its first channel that has one, where it is far. -/
def State.allocFrame (s : State) (die : Nat) (near : Bool) (size : Nat) : Option (Nat × State) :=
  if near then s.frameIn die true 0 size
  else (List.range 32).findSome? fun c => if s.channelOut (32 * die + c) then none else s.frameIn die false c size

/-- Installs a leaf in a job's table, making the tables on the way (R321). `n` levels are left below `table`. -/
def State.setLeaf (s : State) (va leafLevel entry : Nat) : Nat → Nat → State
  | 0, table => s.setMem (Memory.writeN s.mem (table + 8 * walkIndex va 3) 8 entry)
  | n + 1, table =>
    let level := 2 - n
    let at_ := table + 8 * walkIndex va level
    if level = leafLevel then s.setMem (Memory.writeN s.mem at_ 8 entry)
    else
      let e := Memory.readN s.mem at_ 8
      if bitOf e 0 && bitOf e 1 then s.setLeaf va leafLevel entry n (bitsOf e 8 40 * 256)
      else
        match s.allocFrame 0 true (match n with | 2 => 2 ^ 14 | 1 => 2 ^ 12 | _ => 2 ^ 8) with
        | none => s
        | some (t, s1) => (s1.setMem (Memory.writeN s1.mem at_ 8 (t + 3))).setLeaf va leafLevel entry n t

/-- A leaf entry (R321). -/
def leafEntry (pa size : Nat) (r w x p : Bool) (key : BitVec 12) : Nat :=
  1 + place size 2 + place r.toNat 4 + place w.toNat 5 + place x.toNat 6 + place p.toNat 7 + pa + place key.toNat 48

/-- Maps one 64 KiB page of a job to a frame. -/
def State.mapLeaf (s : State) (j : Job) (va pa : Nat) (r w x p : Bool) : State :=
  s.setLeaf va 3 (leafEntry pa 0 r w x p j.keySlot) 3 j.root

/-- The region of a job that holds an address (R318). -/
def Job.regionOf (j : Job) (va : Nat) : Option RegionDesc :=
  j.regions.find? fun r => decide (r.base.toNat ≤ va ∧ va < r.base.toNat + r.len)

/-- Pages of near or far memory that the jobs of a slot have mapped. -/
def State.slotPages (s : State) (slot : Nat) (near : Bool) : Nat :=
  (s.allJobs.filter (·.slot = slot)).foldl (fun n j => n + if near then j.pagesNear else j.pagesFar) 0

/-- Whether a slot's quota admits one more page (R318). -/
def State.quotaOk (s : State) (slot : Nat) (near : Bool) : Bool :=
  match s.slotOf slot with
  | some t => decide (s.slotPages slot near < if near then t.near else t.far)
  | none => true

/-- First touch of a page by its job (R318, R321): a frame of its region's memory, nothing new where the page has been mapped
since, or no answer where the touch lies outside every region, lacks a permission, or exceeds the quota. -/
def State.touchPage (s : State) (jid va : Nat) (acc : Access) : Option State :=
  match s.jobOf jid with
  | none => none
  | some j =>
    match j.regionOf va with
    | none => none
    | some r =>
      let ok := match acc with | .load => r.rd | .store => r.wr | .atomic => r.rd && r.wr | .fetch => false
      if !ok then none
      else match s.walk j va with
        | .leaf e => if e.allows acc false then some s else none
        | .poisoned => none
        | .invalid =>
          match if s.quotaOk j.slot r.near then s.allocFrame r.die.toNat r.near pageSize else none with
          | none => none
          | some (pa, s1) =>
            some ((s1.mapLeaf j (va / pageSize * pageSize) pa r.rd r.wr false false).modJob jid fun j =>
              if r.near then { j with pagesNear := j.pagesNear + 1 } else { j with pagesFar := j.pagesFar + 1 })

/-- Maps the pages of `n` bytes from an address on first touch, as far as the regions and the quota allow. -/
def State.touchRange (s : State) (jid va : Nat) (acc : Access) : Nat → State
  | 0 => s
  | k + 1 =>
    let s1 := match s.jobOf jid with
      | some j => if (s.jobPa j acc va).isSome then s else (s.touchPage jid va acc).getD s
      | none => s
    s1.touchRange jid (va / pageSize * pageSize + pageSize) acc k

/-- Drops translations from every core and every die (R226). -/
def State.dropTlb (s : State) (pick : TlbEntry → Bool) : State :=
  { s.mapCores fun c => { c with tlb := c.tlb.filter (!pick ·) } with tcache := s.tcache.filter fun p => !pick p.2 }

/-- Start of a job's pool: above every region (R330). -/
def Job.poolBase (j : Job) : Nat := j.regions.foldl (fun m r => Nat.max m (r.base.toNat + r.len)) pageSize

/-- The lowest address of the pool where `n` bytes are free. -/
def Job.poolFree (j : Job) (n : Nat) : Option Nat :=
  let ends := j.poolBase :: j.areas.map fun (a : Area) => a.va + a.pages * pageSize
  let ok := fun (v : Nat) => decide (j.poolBase ≤ v ∧ v + n ≤ aperture) &&
    j.areas.all fun (a : Area) => decide (v + n ≤ a.va ∨ a.va + a.pages * pageSize ≤ v)
  (ends.filter ok).foldl (fun acc v => match acc with | none => some v | some w => some (Nat.min v w)) none

/-- Pages that hold `n` bytes. -/
def pagesOf (n : Nat) : Nat := (n + pageSize - 1) / pageSize

/-- Places `n` bytes of a die's near memory in a job's pool (R330), for a plot or (0) for records that the job may read:
virtual and physical address. -/
def State.poolAlloc (s : State) (jid plot die n : Nat) : Option (Nat × Nat × State) :=
  match s.jobOf jid with
  | none => none
  | some j =>
    let pages := pagesOf n
    match j.poolFree (pages * pageSize) with
    | none => none
    | some va =>
      match s.allocFrame die true (pages * pageSize) with
      | none => none
      | some (pa, s1) =>
        let s2 := (List.range pages).foldl
          (fun t i => t.mapLeaf j (va + pageSize * i) (pa + pageSize * i) true (plot != 0) false (plot != 0)) s1
        some (va, pa, s2.modJob jid fun j =>
          { j with
            areas := { va := va, pa := pa, pages := pages, plot := plot } :: j.areas
            pagesNear := j.pagesNear + if plot = 0 then 0 else pages })

/-- Releases one area of a job. -/
def State.freeArea (s : State) (j : Job) (a : Area) : State :=
  let s1 := (List.range a.pages).foldl (fun t i => t.setLeaf (a.va + pageSize * i) 3 0 3 j.root) s
  let s2 := s1.dropTlb fun e => e.asid == j.asid && decide (a.va ≤ e.va ∧ e.va < a.va + a.pages * pageSize)
  { s2 with freed := (a.pa, a.pages * pageSize) :: s2.freed }

/-- Releases the areas of a plot (R330). -/
def State.freeAreas (s : State) (jid pid : Nat) : State :=
  match s.jobOf jid with
  | none => s
  | some j =>
    let mine := j.areas.filter fun (a : Area) => a.plot == pid
    (mine.foldl (fun t a => t.freeArea j a) s).modJob jid fun j =>
      { j with
        areas := j.areas.filter fun (a : Area) => a.plot != pid
        pagesNear := j.pagesNear - (mine.map (·.pages)).foldl (· + ·) 0 }

/-- A new completion record of a job (R15), where the kernel keeps them: its addresses. -/
def State.newComp (s : State) (jid : Nat) : Option (Comp × State) :=
  match s.jobOf jid with
  | none => none
  | some j =>
    let k := j.comps % 4096
    let page := if k = 0 then s.poolAlloc jid 0 0 pageSize
      else (j.areas.find? fun (a : Area) => a.plot == 0).map fun a => (a.va, a.pa, s)
    page.map fun p =>
      ({ va := BitVec.ofNat 64 (p.1 + 16 * k), pa := p.2.1 + 16 * k }, p.2.2.modJob jid fun j => { j with comps := j.comps + 1 })

/-! ### The end of a job's space (R316) -/

/-- The leaves below a table: physical address and size, each frame once. -/
def leavesBelow (mem : Memory) : Nat → Nat → List (Nat × Nat)
  | 0, table => (List.range 32).filterMap fun i =>
      let e := Memory.readN mem (table + 8 * i) 8
      if bitOf e 0 then some (bitsOf e 8 40 * 256, pageSize) else none
  | n + 1, table =>
    let rows := if n = 0 then 512 else 2048
    ((List.range rows).flatMap fun i =>
      let e := Memory.readN mem (table + 8 * i) 8
      if !bitOf e 0 then []
      else if bitOf e 1 then leavesBelow mem n (bitsOf e 8 40 * 256)
      else [(bitsOf e 8 40 * 256, match bitsOf e 2 2 with | 0 => 2 ^ 16 | 1 => 2 ^ 21 | 2 => 2 ^ 26 | _ => 2 ^ 30)]).eraseDups

/-- The leaves below a table with the addresses of their entries: entry, physical address, size. -/
def leafCells (mem : Memory) : Nat → Nat → List (Nat × Nat × Nat)
  | 0, table => (List.range 32).filterMap fun i =>
      let e := Memory.readN mem (table + 8 * i) 8
      if bitOf e 0 then some (table + 8 * i, bitsOf e 8 40 * 256, pageSize) else none
  | n + 1, table =>
    (List.range (if n = 0 then 512 else 2048)).flatMap fun i =>
      let at_ := table + 8 * i
      let e := Memory.readN mem at_ 8
      if !bitOf e 0 then []
      else if bitOf e 1 then leafCells mem n (bitsOf e 8 40 * 256)
      else [(at_, bitsOf e 8 40 * 256, match bitsOf e 2 2 with | 0 => 2 ^ 16 | 1 => 2 ^ 21 | 2 => 2 ^ 26 | _ => 2 ^ 30)]

/-- Destroys a job: its key slot, pages and contexts (R316). -/
def State.destroyJob (s : State) (jid : Nat) : State :=
  match s.jobOf jid with
  | none => s
  | some j =>
    let s1 := { s with freed := leavesBelow s.mem 3 j.root ++ s.freed }.dropTlb fun e => e.asid == j.asid
    { s1 with
      job := if s1.job.id = jid then {} else s1.job
      jobs := s1.jobs.filter (·.id ≠ jid) }

/-! ### Queues (R328) -/

def QHead.full (q : QHead) : Bool := decide (q.size ≤ (q.prod + 2 ^ 64 - q.cons) % 2 ^ 64)
/-- Where the next entry of `w` bytes goes. -/
def QHead.slot (q : QHead) (w : Nat) : Nat := (q.base + w * (q.prod % q.size)) % 2 ^ 64

/-- Whether a queue has room for `n` entries. -/
def QHead.room (q : QHead) (n : Nat) : Bool := decide ((q.prod + 2 ^ 64 - q.cons) % 2 ^ 64 + n ≤ q.size)

/-- Writes an entry and then PROD (R328). The addresses are physical; one with no memory is the model's fault. -/
def State.pushEntry (s : State) (at_ w : Nat) (items : List (Nat × Nat × Nat)) : Option State :=
  let q := qHead s.mem at_
  let e := q.slot w
  if paOk at_ && paOk (at_ + 63) && paOk e && paOk (e + w - 1) then
    some (s.setMem (Memory.writeN (Memory.splice s.mem e w (itemCells e items)) (at_ + 16) 8 (q.prod + 1)))
  else none

/-- A fault-queue entry's fields (R328). `queue` is where it goes: the queue of the plot that it concerns (R223), or the one that
`FAULTQ` names. -/
structure FaultRec where
  queue   : Option Nat := none
  code    : BitVec 8
  kind    : Nat
  tagskip : Bool := false
  asid    : BitVec 16 := 0
  die     : Nat := 0
  core    : Nat := 127
  unit    : Nat := 0
  addr    : Nat := 0
  element : Nat := 0
  lplot   : Nat := 0
  stamp   : Nat := 0
deriving DecidableEq, Repr

/-- The items of an entry with a sequence number. -/
def State.faultItems (s : State) (r : FaultRec) : List (Nat × Nat × Nat) :=
  [(0, 8, r.code.toNat + place r.kind 8 + place r.tagskip.toNat 12 + place r.asid.toNat 16
      + place r.die 32 + place r.core 34 + place r.unit 41),
   (8, 8, r.addr), (16, 4, r.element), (20, 4, r.lplot), (24, 8, r.stamp), (32, 8, s.timeNs % 2 ^ 64),
   (40, 8, s.faultSeq + 1)]

/-- The words of an image given as items. -/
def itemWords (n : Nat) (items : List (Nat × Nat × Nat)) : List Word :=
  let v := items.foldl (fun acc it => acc + it.2.2 % 2 ^ (8 * it.2.1) * 2 ^ (8 * it.1)) 0
  (List.range n).map fun i => BitVec.ofNat 64 (v / 2 ^ (64 * i))

/-- The services read everything that a queue holds (R328): CONS follows PROD. In this model they do so when something waits
for room (log entry 33). -/
def State.serve (s : State) (at_ : Nat) : State := s.setMem (Memory.writeN s.mem (at_ + 24) 8 (qHead s.mem at_).prod)
/-- The services read the trap queue of the plot in the issue stage. -/
def State.serveTraps (s : State) : State := s.serve s.plot.trapq.toNat

/-- Whether the queue of an entry has no room. -/
def State.faultsFull (s : State) (r : FaultRec) : Bool := (qHead s.mem (r.queue.getD s.faultq.toNat)).full

/-- Writes a fault-queue entry; a full queue drops it and counts it in LOST (R328). -/
def State.pushFault (s : State) (r : FaultRec) : State :=
  let at_ := r.queue.getD s.faultq.toNat
  if s.faultsFull r then
    (s.setMem (Memory.writeN s.mem (at_ + 32) 8 (Memory.readN s.mem (at_ + 32) 8 + 1))).serve at_
  else
    match s.pushEntry at_ 64 (s.faultItems r) with
    | some s1 => { s1 with faultSeq := s1.faultSeq + 1 }
    | none => s

/-! ### Contexts (R329) -/

/-- The items of a furrow context before its slices, in rising order of offset; the layout inside a watch slot is log
entry 20. -/
def Furrow.header (f : Furrow) (full : Bool) : List (Nat × Nat × Nat) :=
  [(0, 4, 1 + (if full then 256 else 0)), (4, 4, f.yields), (8, 1, f.latches.length), (9, 1, f.tag.toNat)]
  ++ (mapIdxFrom (fun e (sp : Split) =>
      [(16 + 16 * e, 8, sp.pc.toNat), (24 + 16 * e, 4, sp.mask.toNat), (28 + 16 * e, 1, sp.valid.toNat), (29 + 16 * e, 1, sp.pass)])
      0 f.splits).flatten
  ++ mapIdxFrom (fun k (m : Mask) => (80 + 4 * k, 4, m.toNat)) 0 f.masks
  ++ mapIdxFrom (fun k (x : Word) => (144 + 8 * k, 8, x.toNat)) 0 f.xregs
  ++ [(656, 8, f.xpoison.toNat)]
  ++ (mapIdxFrom (fun w (ws : WatchSlot) =>
      [(664 + 32 * w, 1, ws.armed.toNat), (672 + 32 * w, 8, ws.addr.toNat), (680 + 32 * w, 8, ws.value.toNat),
       (688 + 32 * w, 1, match ws.cmp with | .ge => 0 | .eq => 1 | .ne => 2), (689 + 32 * w, 1, ws.scope.toNat),
       (690 + 32 * w, 1, ws.fired.toNat)]) 0 f.watch).flatten
  ++ (mapIdxFrom (fun j (l : LatchEntry) => mapIdxFrom (fun i (v : Word) => (1024 + 256 * j + 8 * i, 8, v.toNat)) 0 l.vals) 0 f.latches).flatten
  ++ mapIdxFrom (fun j (l : LatchEntry) => (3072 + 4 * j, 4, l.poison.toNat)) 0 f.latches

/-- The items of a full furrow context (R329). -/
def Furrow.image (f : Furrow) : List (Nat × Nat × Nat) :=
  let lanes := List.range 32
  f.header true
  ++ (List.range (f.budget / 16)).flatMap (fun g => lanes.map fun i => (4096 + 256 * g + 8 * i, 8, (f.lanes.getD i {}).read (16 * g) 64))
  ++ (List.range (f.budget / 16)).flatMap (fun g => lanes.map fun i =>
      (20480 + 64 * g + 2 * i, 2, (f.lanes.getD i {}).poison.toNat / 2 ^ (16 * g) % 2 ^ 16))

/-- Writes the units of a live-slice map, each 8 slices of every lane, and their poison (R329). -/
def Furrow.writeUnits (f : Furrow) (live : BitVec 128) (mem : Memory) : Memory :=
  (((List.range (f.budget / 8)).filter fun u => live.getLsbD u).flatMap fun u => (List.range 32).map fun i => (u, i)).foldl
    (fun m p =>
      let l := f.lanes.getD p.2 {}
      let at_ := f.ctxPa + 4096 + 256 * (p.1 / 2) + 8 * p.2 + 4 * (p.1 % 2)
      let pz := f.ctxPa + 20480 + 64 * (p.1 / 2) + 2 * p.2 + p.1 % 2
      Memory.writeN (Memory.writeN m at_ 4 (l.read (8 * p.1) 32)) pz 1 (l.poison.toNat / 2 ^ (8 * p.1) % 2 ^ 8)) mem

/-- Writes a furrow's context where its area lies, if one is reserved (R329, R330): all of it, or for a yield the units of
its live-slice map alone. -/
def State.saveContext (s : State) (f : Furrow) (live : Option (BitVec 128)) : State :=
  if f.ctxPa = 0 then s
  else match live with
    | none => s.setMem (Memory.splice s.mem f.ctxPa 24576 (itemCells f.ctxPa f.image))
    | some l => s.setMem (f.writeUnits l (Memory.splice s.mem f.ctxPa 4096 (itemCells f.ctxPa (f.header false))))

/-! ### Ends (R17, R52, R326) -/

/-- A furrow that waits, so that a cancel ends it at once (R17, R322, R325). A `DRAIN`'s wait for its support sizes is no
such wait: that furrow goes on to its next yield. -/
def FStatus.waits : FStatus → Bool
  | .absent | .ready | .counts | .ended => false
  | _ => true

/-- Marks the trap record of a sequence number at `e` RETURNED (R328). -/
def State.markReturned (s : State) (e seq : Nat) : State :=
  if Memory.readN s.mem (e + 88) 8 = seq then
    s.setMem (Memory.writeN s.mem (e + 2) 1 (Memory.readN s.mem (e + 2) 1 ||| 4))
  else s

/-- The season, and with it its job, counts one more end when every graph of it has ended (R291, R15). -/
def State.settleSeason (s : State) (sid : Nat) : State :=
  match s.seasonOf sid with
  | none => s
  | some z =>
    if s.graphs.any (·.season = sid) then s
    else
      let c := z.comp.finish z.cancel z.cause s.timeNs
      let s1 := { s.putComp c with seasons := s.seasons.filter (·.id ≠ sid) }
      match s1.jobOf z.job with
      | none => s1
      | some j =>
        let k := j.comp.countOne (z.cancel || z.cause.isSome)
        (s1.modJob z.job fun j => { j with comp := k, pastRecs := (2, c.va) :: j.pastRecs }).putComp k

/-- A job that was cancelled ends when its last season has ended (R15, R17); one ended by a fault sends EVJOBEND (R328). -/
def State.settleJob (s : State) (jid : Nat) : State :=
  match s.jobOf jid with
  | none => s
  | some j =>
    if !j.live || !j.cancel || s.seasons.any (·.job = jid) || s.allLaunches.any (·.job = jid) then s
    else
      let c := j.comp.finish j.cancel j.faulted s.timeNs
      let s1 := (s.modJob jid fun j => { j with comp := c, live := false }).putComp c
      let s2 := if j.faulted.isSome then
          s1.send 0x80 j.slot j.asid
            ([BitVec.ofNat 64 c.lo, c.tend] ++ j.endBody)
        else s1
      match j.deleting with
      | some d => (s2.destroyJob jid).respond 0x11 0 d j.asid []
      | none => s2

/-- A graph ends when its sources have started all instances, its slots are free or empty and its instances have ended
(R291); a cancelled or faulted one when its running instances have ended. -/
def State.settleGraph (s : State) (gid : Nat) : State :=
  match s.graphOf gid with
  | none => s
  | some g =>
    let idle := !(s.allLaunches.any (·.graph = gid))
    let drained := g.stages.all (fun st => st.inEdge.isSome || decide (st.instances ≤ st.started))
      && g.edges.all fun e => e.slots.all fun p => p.2 == .free || p.2 == .empty
    if idle && (drained || g.cancel || g.cause.isSome) then
      let c := g.comp.finish g.cancel g.cause s.timeNs
      let s1 := { s.putComp c with graphs := s.graphs.filter (·.id ≠ gid) }
      let s1 := s1.modJob g.job fun j => { j with pastRecs := (1, c.va) :: j.pastRecs }
      let s2 := match s1.seasonOf g.season with
        | none => s1
        | some z =>
          let k := z.comp.countOne (g.cancel || g.cause.isSome)
          (s1.modSeason g.season fun z =>
            { z with comp := k, cause := z.cause.or g.cause, cancel := z.cancel || g.cancel }).putComp k
      s2.settleSeason g.season
    else s

/-- ORs the flags that a plot has accumulated into its launch's flag word (R68): its page was mapped when the loader
wrote it. -/
def State.orFlags (s : State) (p : Plot) : State :=
  match s.launchOf p.launch with
  | none => s
  | some l =>
    match s.jobOf l.job with
    | none => s
    | some j =>
      match s.jobPa j .store l.flagw.toNat with
      | none => s
      | some pa =>
        if p.flags = 0 then s
        else s.setMem (Memory.writeN s.mem pa 8 ((BitVec.ofNat 64 (Memory.readN s.mem pa 8)) ||| p.flags.setWidth 64).toNat)

/-- A commit of the plot in the issue stage at a boundary wider than plot scope (R94), with its flags (R68). -/
def State.commitFlags (s : State) : State := (s.commitPlot s.plot).orFlags s.plot

/-- A phase boundary at a scope (R94, R68): nothing, plot-visible entries, or a commit. -/
def State.boundary (s : State) (sc : BitVec 3) : State :=
  match sc.toNat with
  | 0 => s
  | 1 => s.showAll
  | _ => s.commitFlags

/-- A plot that is compared: it is sampled and on its cores, or ends there. -/
def Plot.compared (p : Plot) : Bool := p.sampled && (p.status == .resident || p.status == .ending)

/-- A sampled plot waits at a commit point: its second run has not come to the same there (R39, R40). -/
def Plot.runsApart (p : Plot) : Bool := p.sampled && p.second != .alike

/-- The stores of a run since the last agreed point, in issue order: address, byte mask, data (R39; log entry 38). -/
def Plot.streamDigest (p : Plot) : BitVec 512 :=
  shake256 ((sortOrd (fun (a b : SiloEntry) => decide (a.num < b.num)) p.entries).flatMap fun e =>
    bytesOfNat (64 * e.sector) 8 ++ bytesOfNat e.mask.toNat 8 ++ bytesOfNat e.data.toNat 64)

/-- What the first run has come to. -/
def Plot.firstEnd (p : Plot) : RunEnd := match p.runFault with | some c => .fault c | none => .stores p.streamDigest

/-- A job-ending fault of a sampled plot is held until the other run has come as far: an identical one ends the job (R325). -/
def Plot.holdsFault (p : Plot) (c : Cause) : Bool :=
  p.sampled && disposition c == .endJob && match p.second with | .alike => false | .apart (.fault d) => d != c | _ => true

def State.boundaryBlocked (s : State) (sc : BitVec 3) : Bool :=
  decide (2 ≤ sc.toNat) && (s.commitBlocked s.plot || s.plot.runsApart)

/-- A plot whose furrows have ended commits at module scope and ends, once no job in flight holds its stores and the
sequencer has done its operations; a cancelled one discards its held stores (R16, R17, R94, R100, R103). Its context areas
are released (R330). -/
def State.settlePlot (s : State) (pid : Nat) : State :=
  match s.plotOf pid with
  | none => s
  | some p =>
    match s.launchOf p.launch with
    | none => s
    | some l =>
      let c := s.coreOf p.core
      if p.status != .ending || s.ejobs.any (·.plot = pid) then s
      else if !l.cancel && (s.commitBlocked p || p.runsApart || c.seq.any (·.plot = pid)) then s
      else
        let s1 := (if l.cancel then s else (s.commitPlot p).stagePlot p.core pid).orFlags p
        let s2 := s1.modCore p.core fun c => { c with red := c.red.filter (·.plot ≠ pid), seq := c.seq.filter (·.plot ≠ pid) }
        let k := l.comp.countOne l.cancel
        let s3 := s2.modLaunch l.id fun l => { l with comp := k }
        let s4 := (s3.putComp k).freeAreas l.job pid
        { s4 with
          plot := if s4.plot.id = pid then {} else s4.plot
          plots := s4.plots.filter (·.id ≠ pid) }

/-- Whether a plot has no furrow left, on its core, saved or queued. -/
def State.plotDone (s : State) (p : Plot) : Bool :=
  !(s.allFurs.any (·.plot = p.id)) && !((s.coreOf p.core).callq.any (·.plot = p.id))

/-- Begins the end of a plot without furrows. -/
def State.plotEnd (s : State) (pid : Nat) : State :=
  match s.plotOf pid with
  | none => s
  | some p =>
    if s.plotDone p then (s.modPlot pid fun p => { p with status := .ending }).settlePlot pid else s

/-- Releases a furrow (R52): its entries become plot-visible, and its slices, slot, context number and tag are free. -/
def State.release (s : State) (f : Furrow) : State :=
  let show' := fun (e : SiloEntry) => if e.tag == f.tag then { e with vis := true } else e
  let s1 := s.modPlot f.plot fun p => { p with silo := p.silo.map show', held := p.held.map show' }
  { s1 with
    fur := if s1.fur.id = f.id then {} else s1.fur
    furs := s1.furs.filter (·.id ≠ f.id) }

/-- Ends a furrow and, with its last furrow, its plot. -/
def State.endFur (s : State) (fid : Nat) : State :=
  match s.furOf fid with
  | none => s
  | some f => (s.release f).plotEnd f.plot

/-- Ends a furrow that a cancel finds waiting (R17); a trapped one's record becomes RETURNED (R326). -/
def State.endWaiting (s : State) (fid : Nat) : State :=
  match s.furOf fid with
  | none => s
  | some f =>
    if !f.status.waits then s
    else match f.status with
      | .trapped seq _ _ e => (s.markReturned e seq).endFur fid
      | _ => s.endFur fid

/-- A furrow comes to wait (R23); one of a cancelled launch ends instead (R17). -/
def State.waitOr (s : State) : State :=
  if s.fur.status.waits && s.launch.cancel then s.endFur s.fur.id
  else if s.fur.status.waits || s.fur.status == .counts then s.setFur { s.fur with waitFrom := s.steps, waitClk := s.cycles }
  else s

/-- The fault-queue entry of an engine element (R216, R324). -/
def State.elementFault (s : State) (e : EJob) (va first stamp : Nat) (c : BitVec 8) : State :=
  let p := (s.plotOf e.plot).getD {}
  s.pushFault
    { queue := some p.faultq.toNat, code := c, kind := 0, asid := ((s.jobOf e.job).getD {}).asid, die := p.die
      core := (e.core - 1) % 96, unit := e.chan, addr := va, element := first, lplot := p.lplot, stamp := stamp }

/-- Abandons what the transport or a collective has not completed (R17). -/
def abandonJob (e : EJob) : EJob :=
  if e.performed then e
  else match e.kind with
    | .coll => { e with performed := true, started := true, fault := true, cause := causeCode .collmis }
    | .nwr | .nrd => { e with performed := true, started := true, fault := true, cause := causeCode .netdown }
    | _ => e

/-- A job card's first buffer and its stamp address (R217). -/
def cardLocal (e : EJob) : Nat := bitsOf e.card.toNat 64 64
def cardStamp (e : EJob) : Nat := bitsOf e.card.toNat 384 64

/-- What a cancel cuts off is recorded in its status and, by its cause, in the fault queue (R17, R324). -/
def State.abandon (s : State) (e : EJob) : State :=
  let x := abandonJob e
  let t := s.modEJob e.id fun _ => x
  if !e.performed && x.performed then t.elementFault e (cardLocal e) 0 (cardStamp e) x.cause else t

/-- `CANCEL` of the launches that a predicate picks (R17): no further plot starts, waiting furrows end, and plots that
are off their cores or not yet placed end. -/
def State.cancelLaunches (s : State) (pick : Launch → Bool) : State :=
  let ids := (s.allLaunches.filter fun l => l.live && pick l).map (·.id)
  let s1 := s.mapLaunches fun l => if ids.contains l.id then { l with cancel := true } else l
  let s2 := (s1.ejobs.filter fun (e : EJob) => ids.contains e.launch).foldl State.abandon s1
  let plots : List Nat := (s2.allPlots.filter fun (p : Plot) => ids.contains p.launch).map (·.id)
  let s3 : State := s2.mapCores fun (c : Core) => { c with callq := c.callq.filter fun (q : Queued) => !plots.contains q.plot }
  let s4 := ((s3.allFurs.filter fun f => plots.contains f.plot).map (·.id)).foldl State.endWaiting s3
  ((s4.allPlots.filter fun p => plots.contains p.id && p.status != .ending).map (·.id)).foldl State.plotEnd s4

/-- Cancels the graphs that a predicate picks, with their launches; one with no instance left ends (R17). -/
def State.cancelGraphs (s : State) (pick : Graph → Bool) : State :=
  let ids := (s.graphs.filter pick).map (·.id)
  let s1 : State := { s with graphs := s.graphs.map fun (g : Graph) => if ids.contains g.id then { g with cancel := true } else g }
  let s2 := s1.cancelLaunches fun l => ids.contains l.graph
  ids.foldl State.settleGraph s2

def State.cancelSeasons (s : State) (pick : Season → Bool) : State :=
  let ids := (s.seasons.filter pick).map (·.id)
  let s1 : State := { s with seasons := s.seasons.map fun (z : Season) => if ids.contains z.id then { z with cancel := true } else z }
  s1.cancelGraphs fun g => ids.contains g.season

/-- Cancels a job, with everything in it (R17). -/
def State.cancelJob (s : State) (jid : Nat) : State :=
  let s1 := s.modJob jid fun j => { j with cancel := true }
  (s1.cancelSeasons fun z => z.job = jid).settleJob jid

/-- Ends a job by a fault (R326): the launch and the units around it take the cause, that of the job's first record where
it has faulted before, and the job is cancelled. -/
def State.endJob (s : State) (jid lid : Nat) (cause : Cause) : State :=
  let c := ((s.jobOf jid).bind (·.faulted)).getD cause
  let l := s.launchOf lid
  let gid := (l.map (·.graph)).getD 0
  let zid := ((s.graphOf gid).map (·.season)).getD 0
  let s1 := s.modJob jid fun j => { j with faulted := j.faulted.or (some c) }
  let s2 := s1.modLaunch lid fun l => { l with cause := l.cause.or (some c) }
  let s3 := s2.modGraph gid fun g => { g with cause := g.cause.or (some c) }
  let s4 := s3.modSeason zid fun z => { z with cause := z.cause.or (some c) }
  s4.cancelJob jid

/-! ### Returns (R51) -/

/-- Writes the bytes of a return into a furrow whose generation still matches (R51). -/
def Furrow.fillGroup (f : Furrow) (it : Nat × Nat × Word × BitVec 16) : Furrow :=
  { f with lanes := modAt (fun l =>
      { data := (l.write (16 * it.2.1) 64 ⟨it.2.2.1.toNat, false⟩).data
        poison := (l.poison &&& ~~~(BitVec.ofNat 1024 (0xFFFF * 2 ^ (16 * it.2.1)))) |||
          BitVec.ofNat 1024 (it.2.2.2.toNat * 2 ^ (16 * it.2.1)) }) f.lanes it.1 }

def Furrow.deliver (f : Furrow) (r : Ret) : Furrow :=
  if f.ctx == r.ctx && f.gen == r.gen then
    match r.data with
    | .value dst signed w vals =>
      let act := maskOf fun i => ((vals.getD i none).isSome)
      f.result dst signed w act fun i => match vals.getD i none with | some v => ⟨v.1.toNat, v.2⟩ | none => ⟨0, false⟩
    | .fill items => items.foldl Furrow.fillGroup f
  else f

/-- Whether a furrow stands on the core that a return comes to (R51): one of a plot that has moved since does not. -/
def State.retHere (s : State) (r : Ret) : Bool :=
  (s.furOf r.fur).any fun f => (s.plotOf f.plot).all fun p => p.core == r.core

/-- Delivers one return, in whatever furrow it names (R51); one of another core is discarded. -/
def State.deliverRet (s : State) (r : Ret) : State :=
  { (if s.retHere r then s.modFur r.fur (·.deliver r) else s) with rets := s.rets.filter (·.id ≠ r.id) }

/-- Delivers every pending return of the furrows that a predicate picks, in the order of issue (R44, R52). -/
def State.deliverWhere (s : State) (pick : Nat → Bool) : State :=
  (s.rets.filter fun r => pick r.fur).foldl State.deliverRet s

/-! ### Taking a fault (R18, R325 to R328) -/

/-- A word of code at an address, as fetch reads it, by a walk where no translation is held any more; zero where it cannot
be read. -/
def State.codeWord (s : State) (pc : Word) : Word :=
  match (s.pa .fetch pc.toNat).or (s.jobPa s.job .fetch pc.toNat) with
  | some a => Memory.word s.mem a
  | none => 0

/-- The index of the open region in its object's table, or 0xFFFF (R283). -/
def State.regionIndex (s : State) : Nat :=
  match s.fur.region, s.job.objs.find? (·.va = s.fur.obj) with
  | some r, some o => (o.regions.findIdx? (· = (r.at_ - s.fur.codeLo).toNat)).getD 0xFFFF
  | _, _ => 0xFFFF

/-- The record of a fault of the issuing split: its program counter, words and lanes (R18, R328). -/
def State.fillTrap (s : State) (r : TrapRec) : TrapRec :=
  let pc := s.split.pc
  let at_ := pc &&& ~~~7#64
  let w0 := s.codeWord at_
  let w1 := if w0.extractLsb' 62 2 == 2 then s.codeWord (at_ + 8) else 0
  { r with pc := pc, w0 := w0, w1 := if w1.extractLsb' 62 2 == 3 then w1 else 0, split := s.split.mask }

/-- The items of a trap record (R328). -/
def State.trapItems (s : State) (r : TrapRec) (f : Furrow) : List (Nat × Nat × Nat) :=
  [(0, 4, (causeCode r.cause).toNat + place r.code.toNat 8 + place r.returned.toNat 18),
   (4, 4, s.job.asid.toNat + place s.plot.die 16 + place ((s.plot.core - 1) % 96) 18),
   (8, 8, r.pc.toNat), (16, 8, r.w0.toNat), (24, 8, r.w1.toNat), (32, 4, r.lanes.toNat), (36, 4, r.split.toNat),
   (40, 8, r.addr.toNat), (48, 4, s.plot.lplot), (52, 4, f.logical.toNat + place s.regionIndex 16),
   (56, 8, f.ctxVa.toNat), (64, 8, (r.time.getD s.timeNs) % 2 ^ 64), (72, 8, s.launch.comp.va.toNat), (80, 4, r.arrived.toNat),
   (84, 4, r.barId.toNat + place r.yokeJ.toNat 3), (88, 8, s.trapSeq + 1)]

/-- The split tables of a plot's logical furrows 0 to 31 as words (R328, R329). -/
def State.splitBody (s : State) (pid : Nat) : List Word :=
  (List.range 32).flatMap fun k =>
    match s.allFurs.find? fun f => f.plot == pid && f.logical.toNat == k with
    | none => List.replicate 8 0
    | some f => f.splits.flatMap fun sp =>
        [if sp.valid then sp.pc else 0,
         if sp.valid then BitVec.ofNat 64 (sp.mask.toNat + place 1 32 + place sp.pass 40) else 0]

/-- Whether the causes save every resident furrow of the plot (R328). -/
def savesPlot (c : Cause) : Bool := c == .bartimeout || c == .yokemis

/-- A furrow that has not left its core: its context is not saved yet (R62). -/
def FStatus.resident : FStatus → Bool
  | .absent | .saved | .waitStamp .. | .reactivate | .trapped .. | .returning | .ended => false
  | _ => true

/-- What a cause saves, once no write-back is pending (R62, R328): the context of the furrow in the issue stage, and for two
causes those of the plot's other resident furrows. -/
def State.saveTrap (s : State) (c : Cause) : State :=
  let all := savesPlot c
  let s0 := s.deliverWhere fun id => id == s.fur.id || (all && s.furs.any fun f => f.id == id && f.plot == s.plot.id)
  let s1 := s0.saveContext s0.fur none
  if all then (s1.furs.filter fun f => f.plot == s.plot.id && f.status.resident).foldl (fun t f => t.saveContext f none) s1 else s1

/-- The words of a trap record as EVJOBEND carries it: a job's end marks it RETURNED (R326, R343). -/
def State.endRecord (s : State) (r : TrapRec) (f : Furrow) : List Word := itemWords 32 (s.trapItems { r with returned := true } f)

/-- Writes the record of a fault of the furrow in the issue stage, saves its context, and does what its cause's
disposition says (R324 to R328). An address of the queue with no memory is the model's fault. -/
def State.writeTrap (s : State) (r : TrapRec) : Out :=
  let at_ := s.plot.trapq.toNat
  let rec_ := (qHead s.mem at_).slot 256
  let s0 := s.saveTrap r.cause
  match s0.pushEntry at_ 256 (s0.trapItems r s0.fur) with
  | none => .fault .noMemory
  | some s1 =>
    let s2 := { s1 with trapSeq := s1.trapSeq + 1 }
    let s3 := s2.setFur { s2.fur with status := .trapped s2.trapSeq r.cause s2.timeNs rec_, active := false }
    match disposition r.cause with
    | .endJob =>
      let body := s0.endRecord r s0.fur ++ if savesPlot r.cause then s3.splitBody s3.plot.id else []
      let s4 := if s3.job.faulted.isNone then s3.setJob { s3.job with endBody := body } else s3
      .next (s4.endJob s4.job.id s4.launch.id r.cause)
    | .host =>
      .next (s3.send 0x81 s3.job.slot s3.job.asid ((List.range 32).map fun i => Memory.word s3.mem (rec_ + 8 * i)))
    | .service => .next s3

/-- A furrow of the plot still receives the support sizes of a `DRAIN`: a write-back that every save waits for (R52, R62). -/
def State.countsOpen (s : State) : Bool := s.furs.any fun f => f.plot == s.plot.id && f.status == .counts

/-- Whether the trap queue of the plot in the issue stage has no room (R328). -/
def State.trapsFull (s : State) : Bool := (qHead s.mem s.plot.trapq.toNat).full

/-- TAKING A PRECISE FAULT (R18, R325): the record names the issuing split; the furrow waits where the trap queue is
full, and otherwise leaves with its context saved. In a sampled plot a fault that ends the job is first held for the other run. A cause that saves the plot's other furrows waits for their write-backs
(R62). -/
def State.takeFault (s : State) (r : TrapRec) : Out :=
  let r := s.fillTrap r
  if s.plot.holdsFault r.cause then .next (s.setPlot { s.plot with runFault := some r.cause })
  else if savesPlot r.cause && s.countsOpen then .next s
  else if s.trapsFull then .next (s.setFur { s.fur with status := .trapFull { r with time := some s.timeNs } }).waitOr
  else s.writeTrap r

/-- THE RETURN FROM A TRAP (R224): the record is RETURNED, and the furrow waits for a slot and its units on the core
where its plot resides, which `furrowSwap` finds; it then resumes at its saved program counter, its latch window as saved. -/
def State.returnTrap (s : State) (fid e seq : Nat) : State :=
  (s.markReturned e seq).modFur fid fun f => { f with status := .returning, waitFrom := s.steps, waitClk := s.cycles }

/-- Where the record of a trapped furrow lies. -/
def Furrow.trapRecord (f : Furrow) : Nat := match f.status with | .trapped _ _ _ e => e | _ => 0

/-- Ends the job of a trapped furrow with its trap's cause (R327): the record that EVJOBEND carries is the trap's. -/
def State.endTrapped (s : State) (f : Furrow) : State :=
  match f.status with
  | .trapped _ c _ at_ =>
    let p := (s.plotOf f.plot).getD {}
    let l := (s.launchOf p.launch).getD {}
    let words := (List.range 32).map fun i =>
      let w := Memory.word s.mem (at_ + 8 * i)
      if i = 0 then w ||| 0x40000#64 else w
    let s1 := s.modJob l.job fun j => if j.faulted.isNone then { j with endBody := words } else j
    s1.endJob l.job l.id c
  | _ => s

/-! ### Rollback and checkpoints (R38) -/

/-- The size of a frame, and the address of frame n of a job (R292). -/
def frameBytes : Nat := 21504
def Job.frameVa (j : Job) (n : Nat) : Nat := j.arenaVa.toNat + frameBytes * n

/-- Where a fault that no furrow takes precisely came from (R326). -/
structure Source where
  /-- the trap queue of its plot (R223); the one that `TRAPQ` names where it has none -/
  queue   : Option Nat := none
  die     : Nat := 0
  core    : Nat := 127
  lplot   : Nat := 0
  logical : Nat := 0
  pc      : Word := 0
  w0      : Word := 0
  w1      : Word := 0
  addr    : Word := 0
deriving DecidableEq, Repr

/-- The record of such a fault: it says RETURNED and names no context. -/
def State.jobRecord (s : State) (jid lid : Nat) (x : Source) (c : Cause) : List (Nat × Nat × Nat) :=
  [(0, 4, (causeCode c).toNat + place 1 18),
   (4, 4, ((s.jobOf jid).getD {}).asid.toNat + place x.die 16 + place x.core 18),
   (8, 8, x.pc.toNat), (16, 8, x.w0.toNat), (24, 8, x.w1.toNat), (40, 8, x.addr.toNat), (48, 4, x.lplot),
   (52, 4, x.logical % 32 + place 0xFFFF 16), (64, 8, s.timeNs % 2 ^ 64), (72, 8, ((s.launchOf lid).getD {}).comp.va.toNat),
   (88, 8, s.trapSeq + 1)]

/-- A job-ending fault that no furrow takes precisely (R326). Its record waits for room in the trap queue: the services read a full
one (R328; log entry 33). -/
def State.jobFault (s : State) (jid lid : Nat) (x : Source) (c : Cause) : State :=
  let at_ := x.queue.getD s.trapq.toNat
  let s := if (qHead s.mem at_).full then s.serve at_ else s
  let items := s.jobRecord jid lid x c
  match s.pushEntry at_ 256 items with
  | none => s.endJob jid lid c
  | some s1 =>
    ({ s1 with trapSeq := s1.trapSeq + 1 }.modJob jid fun j =>
      if j.faulted.isNone then { j with endBody := itemWords 32 items } else j).endJob jid lid c

/-- A word of code of a job at a virtual address. -/
def State.jobCode (s : State) (j : Job) (va : Nat) : Word :=
  match s.walk j va with
  | .leaf e => Memory.word s.mem (e.pa + (va - e.va))
  | _ => 0

/-- The source of a fault of a plot's operation: its issuing instruction (R326). -/
def State.sourceOf (s : State) (p : Plot) (logical : Nat) (pc : Word) (addr : Nat) : Source :=
  let j := (s.jobOf ((s.launchOf p.launch).getD {}).job).getD {}
  let at_ := pc &&& ~~~7#64
  let w0 := s.jobCode j at_.toNat
  { queue := some p.trapq.toNat, die := p.die, core := (p.core - 1) % 96, lplot := p.lplot, logical := logical, pc := pc, w0 := w0
    w1 := if w0.extractLsb' 62 2 == 2 then s.jobCode j (at_.toNat + 8) else 0, addr := BitVec.ofNat 64 addr }

/-- A virtual address of a plot at which a physical one stands, by a translation that its core or die holds; 0 where none does. -/
def State.vaOf (s : State) (p : Plot) (pa : Nat) : Nat :=
  let asid := ((s.jobOf ((s.launchOf p.launch).getD {}).job).getD {}).asid
  let hit := fun (e : TlbEntry) => e.asid == asid && decide (e.pa ≤ pa ∧ pa < e.pa + e.size)
  match ((s.coreOf p.core).tlb.find? hit).or ((s.tcache.find? fun q => q.1 == p.die && hit q.2).map (·.2)) with
  | some e => e.va + (pa - e.pa)
  | none => 0

/-- A fault of a plot as a whole (R326): at the instruction that it comes from, else at that of its furrow in the issue stage; where no
instruction issued it, at no core. -/
def State.plotFault (s : State) (p : Plot) (x : Option Source) (addr : Nat) (c : Cause) : State :=
  s.jobFault ((s.launchOf p.launch).getD {}).job p.launch
    (x.getD (if s.fur.plot = p.id then s.sourceOf p s.fur.logical.toNat s.split.pc addr
      else { queue := some p.trapq.toNat, die := p.die, addr := BitVec.ofNat 64 addr })) c

/-- The jobs end whose checks have failed in the background (R326). -/
def State.settlePend (s : State) : State :=
  s.pend.foldl (fun t x => match t.plotOf x.plot with
    | some p => t.plotFault p (some { queue := some p.trapq.toNat, die := p.die, lplot := p.lplot, addr := BitVec.ofNat 64 (t.vaOf p x.pa) }) 0 x.cause
    | none => t) { s with pend := [] }

/-- The reductions of a plot that lie before its checkpoint (R38, R108): those after it are dropped. -/
def Plot.keepsRed (p : Plot) (r : RedEntry) : Bool :=
  match p.check with
  | none => false
  | some c => decide (r.key.2.2.2 < ((c.redCount.find? fun q => q.1 == (r.key.2.1, r.key.2.2.1)).map (·.2)).getD 0)

/-- Where JOIN of a frame of a job lies (R292, R293). -/
def State.joinPa (s : State) (j : Job) (n : Nat) : Option Nat := s.jobPa j .load (j.frameVa n + 12)

/-- JOIN of a frame becomes what a checkpoint kept: the returns since then are done again (R38, R140; log entry 47). -/
def State.restoreJoin (jid : Nat) (s : State) (u : FrameUse) : State :=
  match (s.jobOf jid).bind fun j => s.joinPa j u.n with
  | some pa => s.setMem (Memory.writeN s.mem pa 4 u.join)
  | none => s

/-- Poison was consumed, or a check failed outside a region: the plot's uncommitted stores are discarded, its furrows
leave, and it waits for its stamps and a core (R38). Buffered reductions since the checkpoint never become writes (R108);
earlier ones go to staging. Poison of the same sector as before a relaunch ends the job (R333), by the instruction `x` that it comes
from. -/
def State.rollPlotFrom (s : State) (pid : Nat) (x : Option Source) : State :=
  match s.plotOf pid with
  | none => s
  | some p =>
    if p.eccSeen.any p.eccAt.contains then
      s.plotFault p x (s.vaOf p (64 * ((p.eccSeen.find? p.eccAt.contains).getD 0))) .memecc
    else
      let s1 := s.modPlot pid fun p =>
        { p with
          status := .rolledBack, silo := [], held := [], savedRed := [], yokes := [], bars := [], team := 0
          flags := (p.check.map (·.flags)).getD 0, redCount := (p.check.map (·.redCount)).getD []
          eccAt := p.eccSeen, eccSeen := [], runFault := none }
      let kept := ((s1.coreOf p.core).red.filter (·.plot = pid) ++ p.savedRed).filter p.keepsRed
      let s2 := s1.modCore p.core fun c =>
        { c with seq := c.seq.filter (·.plot ≠ pid), red := c.red.filter (·.plot ≠ pid), callq := c.callq.filter (·.plot ≠ pid) }
      let s3 := s2.modLaunch p.launch fun l => { l with staged := (l.staged.filter fun r => r.plot ≠ pid || p.keepsRed r) ++ kept }
      let kept := (p.check.map (·.frames)).getD []
      let jid := ((s.launchOf p.launch).getD {}).job
      let s4 := (kept.foldl (State.restoreJoin jid) s3).modJob jid fun j => { j with
        frames := (kept.map fun (u : FrameUse) => { u with join := 0 }) ++ j.frames.filter fun (u : FrameUse) => u.plot != pid }
      let s5 : State := { s4 with
        fur := if s4.fur.plot = pid then {} else s4.fur
        furs := s4.furs.filter (·.plot ≠ pid) }
      -- the relaunch of a cancelled launch's plot is abandoned: it ends (R17, R40)
      if ((s.launchOf p.launch).getD {}).cancel then s5.plotEnd pid else s5

def State.rollPlot (s : State) (pid : Nat) : State := s.rollPlotFrom pid none
def State.rollback (s : State) : State := s.rollPlot s.plot.id

/-- Notes poisoned sectors that the plot in the issue stage has read (R333). -/
def State.notePoison (s : State) (secs : List Nat) : State :=
  if secs.isEmpty then s else s.setPlot { s.plot with eccSeen := secs.foldl (fun l x => insertNat x l) s.plot.eccSeen }

/-- Waits whose furrow's program counter already stands past its instruction: a checkpoint keeps them. -/
def FStatus.outlasts : FStatus → Bool
  | .waitStamp .. | .reactivate | .counts | .trapFull _ | .trapped .. | .returning => true
  | _ => false

/-! ### Merging and pass counts (R20, R21) -/

/-- The lowest entry before `i` with the program counter of entry `i`. -/
def mergeInto (l : List Split) (i : Nat) (sp : Split) : Option Nat :=
  ((mapIdxFrom (fun k x => (k, x)) 0 (l.take i)).find? fun p => p.2.valid && p.2.pc == sp.pc).map (·.1)

/-- One pass of merging: the first pair of valid splits with equal program counters becomes one (R20). The merged split keeps
the lower entry's pass count, on which R21 is silent (the model's choice, log entry 75). -/
def Furrow.mergeOnce (f : Furrow) : Furrow :=
  let pairs := (mapIdxFrom (fun i sp => (i, sp)) 0 f.splits).filterMap fun p =>
    if p.2.valid then (mergeInto f.splits p.1 p.2).map fun k => (k, p.1) else none
  match pairs with
  | [] => f
  | (k, i) :: _ =>
    let hi := f.splits.getD i {}
    { f with
      splits := (setAt (modAt (fun sp => { sp with mask := sp.mask ||| hi.mask }) f.splits k) i {}).map
        fun sp => { sp with held := false }
      latches := []
      cur := if f.cur = i then k else f.cur }

/-- All merges of a boundary; a table of four entries needs at most three. -/
def Furrow.merge (f : Furrow) : Furrow := f.mergeOnce.mergeOnce.mergeOnce

/-- Pass counts after an issue of entry `k` (R21): the splits that were ready at the issue, in the table `before`, were passed
over; one that stalled (R19) or that the instruction has just made was not. -/
def Furrow.passed (f : Furrow) (before : List Split) (k : Nat) : Furrow :=
  { f with splits := mapIdxFrom (fun i (sp : Split) =>
      let old := before.getD i {}
      if i = k then { sp with pass := 0 }
      else if sp.valid && old.valid && !old.held then { sp with pass := sp.pass + 1 } else sp) 0 f.splits }

/-- The furrow at the boundary after an instruction that issued from entry `k` of the table `before`. -/
def Furrow.settled (f : Furrow) (before : List Split) (k : Nat) : Furrow := (f.passed before k).merge

/-! ### Plot contexts (R33, R329) -/

def plotBytes (tiles bins : Nat) : Nat := 4096 + 36864 * tiles + 73728 * bins
def furBytes : Nat := 24576

/-- The header of a bin (R59). -/
def Bin.header (b : Bin) : Nat :=
  b.step + place b.steps 19 + place b.busy.toNat 38 + place b.parked.toNat 39 + place b.link 40

/-- The record address of a streamed operand. -/
def MatOp.addr : MatOp → Nat
  | .stream va _ => va.toNat
  | .tile _ => 0

/-- A queued operation in a plot context, with the addresses of the records that it may stream; the layout inside its 64 bytes is log
entry 20. -/
def State.opItems (s : State) (j : Job) (q : Nat) (o : SeqOp) : List (Nat × Nat × Nat) :=
  let at_ := 1024 + 64 * q
  let pc := o.pc.toNat / 8 * 8
  let recs := match o.kind with
    | .mma _ a b .. => (a.addr, b.addr)
    | .dmma _ _ _ x w .. => (x.addr, w.addr)
    | _ => (0, 0)
  [(at_, 8, (s.jobCode j pc).toNat), (at_ + 8, 8, (s.jobCode j (pc + 8)).toNat),
   (at_ + 16, 8, o.bins.foldl (fun m k => m ||| 2 ^ k) 0), (at_ + 24, 4, (o.tiles ++ o.tiles2).foldl (fun m k => m ||| 2 ^ k) 0),
   (at_ + 28, 4, o.step), (at_ + 32, 8, recs.1), (at_ + 40, 8, recs.2), (at_ + 48, 1, o.parked.toNat)]

/-- Bytes of a row of a tile (R58). -/
def tileRowBytes (t : Tile) : Nat := (t.ctl.extractLsb' 12 8).toNat + 1

/-- The cells of a tile in a plot context. -/
def Tile.cells (base : Nat) (t : Tile) : List Host.Cell :=
  let n := max 1 (tileRowBytes t)
  numCells base 4 t.ctl.toNat
    ++ ((List.range 64).map fun k => (base + 64 + k, sget (0x7F : Byte) t.scales k))
    ++ t.bytes.filterMap fun p => if p.2 = 0 then none else some (base + 4096 + 256 * (p.1 / n) + p.1 % n, p.2)

/-- The cells of a bin in a plot context. -/
def Bin.cells (base : Nat) (b : Bin) : List Host.Cell :=
  numCells base 8 b.header
    ++ (b.recs.flatMap fun p => numCells (base + 1024 + 32 * p.1) 32 p.2.toNat)
    ++ b.elems.flatMap fun p => numCells (base + 8192 + 4 * p.1) 4 p.2.toNat

/-- Writes a plot's context, with queued operations, into an area, if one is reserved (R329). -/
def State.writePlot (s : State) (p : Plot) (ops : List SeqOp) (at_ : Nat) : State :=
  if at_ = 0 then s
  else
    let j := (s.jobOf ((s.launchOf p.launch).getD {}).job).getD {}
    let head := [(0, 4, p.team.toNat), (4, 1, p.tiles.length), (5, 1, p.bins.length), (6, 3, p.tag.toNat)]
      ++ (mapIdxFrom (fun q o => s.opItems j q o) 0 (ops.take 16)).flatten
    let cells := itemCells at_ head
      ++ (mapIdxFrom (fun k (t : Tile) => t.cells (at_ + 4096 + 36864 * k)) 0 p.tiles).flatten
      ++ (mapIdxFrom (fun k (b : Bin) => b.cells (at_ + 4096 + 36864 * p.tiles.length + 73728 * k)) 0 p.bins).flatten
    s.setMem (Memory.splice s.mem at_ (plotBytes p.tiles.length p.bins.length) cells)

/-- A pre-emption writes the plot's context where its area lies (R33). -/
def State.savePlot (s : State) (p : Plot) : State := s.writePlot p p.savedOps p.ctxPa

/-- Where a checkpoint writes a furrow's context: in the copy of its plot's furrow contexts, or, for a callee or a continuation, in its
own (R330; log entry 40). -/
def Plot.copyOf (p : Plot) (furrows : Nat) (f : Furrow) : Nat :=
  if (f.kind == .granted || f.kind == .spawned) && decide (f.logical.toNat < furrows) then
    (if p.fursCopy = 0 then 0 else p.fursCopy + furBytes * f.logical.toNat)
  else f.ctxPa

/-- Writes a checkpoint's contexts (R329, R330). -/
def State.writeCheck (s : State) (p : Plot) (c : Checkpoint) : State :=
  let n := ((s.launchOf p.launch).getD {}).furrows
  c.furs.foldl (fun (t : State) f => t.saveContext { f with ctxPa := p.copyOf n f } none)
    (s.writePlot { p with tiles := c.tiles, bins := c.bins, team := c.team } c.ops p.copyPa)

/-! ### Checkpoints (R38) -/

/-- A furrow as a checkpoint keeps it (R62): its latch window empty, its watch slots disarmed (R207), no region. -/
def Furrow.kept (f : Furrow) : Furrow :=
  { f with latches := [], watch := List.replicate 4 {}, region := none, status := if f.status.outlasts then f.status else .ready }

/-- A frame as a checkpoint keeps it, with its JOIN. -/
def State.keepJoin (s : State) (u : FrameUse) : FrameUse :=
  { u with join := match s.joinPa s.job u.n with | some pa => Memory.readN s.mem pa 4 | none => 0 }

/-- Takes a checkpoint of the plot in the issue stage, a `PHASE.K` (R38, R62, R92): every entry is committed, which is no phase
boundary, and full contexts, tiles, bins and team register are saved, in State and in the job's pool (R329), once the pending write-backs of its furrows have completed. -/
def State.checkpoint (s : State) : State :=
  let s := s.commitPlot s.plot
  let ids := (s.allFurs.filter (·.plot = s.plot.id)).map (·.id)
  let s1 := s.deliverWhere ids.contains
  let fs := (s1.allFurs.filter (·.plot = s1.plot.id)).map Furrow.kept
  let ops := ((s1.coreOf s1.plot.core).seq.filter (·.plot = s1.plot.id)).map fun (o : SeqOp) =>
    { o with running := false, retried := false, parked := false, req := none, readA := [], readB := [] }
  let c : Checkpoint :=
    { furs := fs, tiles := s1.plot.tiles, bins := s1.plot.bins, team := s1.plot.team, flags := s1.plot.flags
      redCount := s1.plot.redCount, ops := ops, at_ := s1.nextId, chans := s1.plot.chans
      queue := (s1.coreOf s1.plot.core).callq.filter fun (q : Queued) => q.plot == s1.plot.id
      frames := (s1.job.frames.filter fun (u : FrameUse) => u.plot == s1.plot.id).map s1.keepJoin }
  (s1.writeCheck s1.plot c).setPlot { s1.plot with check := some c }

/-- What a furrow between the halves of a P frame may be doing: it is ready, or it waits for the translation of its second half. -/
def FStatus.between : FStatus → Bool
  | .ready | .translate .. => true
  | _ => false

/-- Another furrow of the plot stands between the halves of a P frame: a checkpoint waits, since a rollback re-enters at a
frame boundary (R120). -/
def State.pairOpen (s : State) : Bool :=
  s.furs.any fun f => f.plot == s.plot.id && f.status.between && (f.splits.getD f.cur {}).valid && (f.splits.getD f.cur {}).pc.getLsbD 2

/-- A checkpoint must wait: for the stamps of jobs that hold entries back (R92, R103), for the second half of a P frame (R120),
for a pending write-back (R62), or for the other run of a sampled plot (R39). -/
def State.checkBlocked (s : State) : Bool := s.commitBlocked s.plot || s.pairOpen || s.countsOpen || s.plot.runsApart

/-- Closes the open region (R36). -/
def State.endRegion (s : State) : State := s.setFur { s.fur with region := none }

/-- Disarms the furrow's watch slots (R207). -/
def State.disarm (s : State) : State := s.setFur { s.fur with watch := List.replicate 4 {} }

/-- Immediately before an effect outside the plot: the region is closed and a checkpoint stands at the instruction (R36,
R38). -/
def State.beforeEffect (s : State) : State := s.endRegion.checkpoint

/-- The checkpoint takes a furrow as it stands after an effect that has been performed, with the plot's counts of buffered
reductions and its channels, so that no replay performs the effect twice (R38; log entry 47). -/
def State.noteFur (s : State) (f : Furrow) : State :=
  s.setPlot { s.plot with
    check := s.plot.check.map fun c =>
      { c with furs := c.furs.map fun old => if old.id = f.id then f.kept else old
               redCount := s.plot.redCount, chans := s.plot.chans, at_ := s.nextId } }

/-- The table of the issuing furrow in the checkpoint. -/
def State.keptSplits (s : State) : List Split :=
  match s.plot.check with
  | some c => ((c.furs.find? fun f => f.id == s.fur.id).map (·.splits)).getD s.fur.splits
  | none => s.fur.splits

/-- The checkpoint's copy of the issuing furrow moves past its instruction, to the boundary after it (R20). -/
def State.noteEffect (s : State) : State :=
  let s1 := s.deliverWhere (· == s.fur.id)
  s1.noteFur (s1.fur.settled s1.keptSplits s1.fur.cur)

/-- The end of an instruction whose effect outside the plot has been performed. -/
def State.afterEffect (s : State) : State := s.advance.noteEffect

/-- Entries that fit the held-store area: 1,024 per 64 KiB (R92, R330). -/
def Plot.heldRoom (p : Plot) : Nat := 1024 * p.heldPages

/-- Grows the held-store area by 64 KiB, up to 4 MiB and as far as the quota allows (R330). -/
def State.growHeld (s : State) : Option State :=
  if 64 ≤ s.plot.heldPages || !s.quotaOk s.job.slot true then none
  else (s.poolAlloc s.job.id s.plot.id s.plot.die pageSize).map fun r =>
    r.2.2.setPlot { r.2.2.plot with heldPages := r.2.2.plot.heldPages + 1 }

/-- Grows the held-store area until `n` entries fit it, by at most so many steps. -/
def State.growFor (n : Nat) : Nat → State → Option State
  | 0, s => if n ≤ s.plot.heldRoom then some s else none
  | k + 1, s => if n ≤ s.plot.heldRoom then some s else s.growHeld.bind (State.growFor n k)

/-- What a store that ends in `t` finds room by: nothing where its entries fit, a larger held-store area, or the implicit
`PHASE.K` of R92, which commits every held entry and takes a checkpoint at the store. -/
def State.makeRoom (s t : State) : State :=
  if t.plot.held.length ≤ s.plot.heldRoom then s else (State.growFor t.plot.held.length 64 s).getD s.checkpoint

/-- Whether that `PHASE.K` must wait (R92). -/
def State.roomBlocked (s t : State) : Bool :=
  !(decide (t.plot.held.length ≤ s.plot.heldRoom)) && (State.growFor t.plot.held.length 64 s).isNone && s.checkBlocked

/-- One store of an instruction, with room for its entry (R92). -/
def State.putRoom (vis : Bool) (s : State) (x : Nat × Nat × Nat × Bool) : Except Stop State :=
  let t := s.putStore vis x.1 x.2.1 x.2.2.1 x.2.2.2
  if s.roomBlocked t then .error .stall else .ok ((s.makeRoom t).putStore vis x.1 x.2.1 x.2.2.1 x.2.2.2)

/-- Several, in order: address, bytes, data, poison. -/
def State.putRooms (vis : Bool) : State → List (Nat × Nat × Nat × Bool) → Except Stop State
  | s, [] => .ok s
  | s, x :: rest => match s.putRoom vis x with | .error e => .error e | .ok t => State.putRooms vis t rest

/-! ### Answers -/

/-- Does what a stop says. -/
def State.stop (s : State) : Stop → Out
  | .fault r => s.takeFault r
  | .rollback => .next s.rollback
  | .rollbackAt secs => .next (s.notePoison secs).rollback
  | .stall => .next s
  | .hold => .next (s.setFur { s.fur with
      splits := putAt {} s.fur.splits s.fur.cur { s.split with held := true } })
  | .walk va acc => .next (s.setFur { s.fur with status := .translate va acc none }).waitOr

/-- An instruction: its effect where nothing stops it, else what stops it. -/
def guarded (chk : Option Stop) (s : State) (body : State) : Out :=
  match chk with
  | none => .next body
  | some st => s.stop st

/-- An instruction whose effect may itself have no memory to go to. -/
def guardedOut (chk : Option Stop) (s : State) (body : Out) : Out :=
  match chk with
  | none => body
  | some st => s.stop st

/-- An outcome of `Except`. -/
def answer (s : State) : Except Stop State → Out
  | .ok t => .next t
  | .error st => s.stop st

/-! ### Traps that are handled at once (R129, R323) -/

/-- The trap record of a trap that the kernel or the services handle at once: it is written RETURNED. -/
def State.handledRecord (s : State) (r : TrapRec) : State :=
  match (s.saveContext s.fur none).pushEntry s.plot.trapq.toNat 256 (s.trapItems { r with returned := true } s.fur) with
  | some t => { t with trapSeq := t.trapSeq + 1 }
  | none => s

/-- The trap of a rung-3 opcode to its emulation, counted once per issued instruction (R129). -/
def State.legacyTrap (s : State) : State :=
  let t := s.handledRecord (s.fillTrap { cause := .legacy })
  t.setJob { t.job with legtr := countLegacy t.job.legtr }

/-- A stop of an emulated instruction: the trap comes first (R131, order 6), so that a fault or a rollback finds it written
and counted; an instruction that only waits has not issued yet. -/
def State.stopLegacy (s : State) (st : Stop) : Out :=
  match st with
  | .fault _ | .rollback | .rollbackAt _ => s.legacyTrap.stop st
  | _ => s.stop st

/-- A trap to the services that performs an entry's full effect and resumes at the next frame; it waits for room in the trap
queue (R325), and the emulation's own stops are the entry's (R131). -/
def emulated (s : State) (chk : Option Stop) (body : State → State) : Out :=
  if s.trapsFull then .next (if s.launch.cancel then s.endFur s.fur.id else s.serveTraps)
  else match chk with
    | none => .next (body s.legacyTrap)
    | some st => s.stopLegacy st

/-- Entries of the split table have freed: splits that stalled for one try again (R19). -/
def State.unhold (s : State) : State :=
  s.setFur { s.fur with splits := s.fur.splits.map fun sp => { sp with held := false } }

/-- Moves the issuing split to another address and empties the latch window (R53, R133). -/
def State.jump (s : State) (pc : Word) : State := ((s.setPc pc).emptyLatch).count

/-- A branch target: the instruction's own address plus eight times a raw signed offset (R132). -/
def State.target (s : State) (o : Operand) : Word :=
  s.split.pc + (o.rawBits.signExtend 64) * 8

end Sys2Proof.Machine
end

