-- ==== Sys2Proof/Machine/Frames.lean ====
section
/-! DEFINITION. Live-slice maps (R282), entry records (R281), frames (R292 to R295) and the ends of splits and furrows
that calls need (R137 to R140). -/

namespace Sys2Proof.Machine

/-! ### Live-slice maps (R145, R282) -/

/-- The map that the code object lists for the issuing split's address. -/
def State.liveMap (s : State) : Option (BitVec 128) :=
  match s.job.objs.find? (·.va = s.fur.obj) with
  | some o => (o.maps.find? fun p => p.1 == (s.split.pc - s.fur.codeLo).toNat).map (·.2)
  | none => none

/-- Whether unit `u` (slices 8u to 8u + 7) is live; an absent map means every granted slice. -/
def unitLive (budget : Nat) (m : Option (BitVec 128)) (u : Nat) : Bool :=
  decide (u < budget / 8) && (match m with | some b => b.getLsbD u | none => true)

/-- The LIVE field of a map over a budget. -/
def liveBits (budget : Nat) (m : Option (BitVec 128)) : BitVec 128 :=
  BitVec.ofNat 128 ((List.range 128).foldl (fun acc u => if unitLive budget m u then acc + 2 ^ u else acc) 0)

/-- A lane with the slices of units that are not live cleared (R62). -/
def Lane.keepUnits (l : Lane) (live : BitVec 128) : Lane :=
  { data := l.data &&& BitVec.ofNat 4096 ((List.range 128).foldl (fun acc u => if live.getLsbD u then acc + (2 ^ 32 - 1) * 2 ^ (32 * u) else acc) 0)
    poison := l.poison &&& BitVec.ofNat 1024 ((List.range 128).foldl (fun acc u => if live.getLsbD u then acc + 255 * 2 ^ (8 * u) else acc) 0) }

/-- A furrow saved with a map: other slices read zero with clear poison (R62), the latch window is empty. -/
def Furrow.savedWith (f : Furrow) (live : BitVec 128) : Furrow :=
  { f with lanes := f.lanes.map (·.keepUnits live), latches := [] }

/-! ### Entry records (R281, R284) -/

def entryOffset (e : BitVec 256) : Nat := (e.extractLsb' 0 32).toNat
def entryBudget (e : BitVec 256) : Nat := ((e.extractLsb' 32 4).toNat + 1) * 64
def entryTiles (e : BitVec 256) : Nat := (e.extractLsb' 36 5).toNat
def entryBins (e : BitVec 256) : Nat := (e.extractLsb' 41 7).toNat
def entryKind (e : BitVec 256) : Nat := (e.extractLsb' 48 2).toNat

def CodeObj.codeOff (o : CodeObj) : Nat := (o.hdr.extractLsb' 256 32).toNat
def CodeObj.codeSize (o : CodeObj) : Nat := (o.hdr.extractLsb' 288 32).toNat
def CodeObj.entOff (o : CodeObj) : Nat := (o.hdr.extractLsb' 320 32).toNat
/-- Start of an object's code section. -/
def CodeObj.codeLo (o : CodeObj) : Nat := o.va.toNat + o.codeOff

/-- The entry record of an object at an address. -/
def CodeObj.entryAt (o : CodeObj) (va : Nat) : Option (BitVec 256) :=
  let base := o.va.toNat + o.entOff
  if base ≤ va && (va - base) % 32 == 0 then o.entries[(va - base) / 32]? else none

/-- The call target that an address names (R139, R281): a record of KIND 1 or 2 of an object of the job; an object that
declares a class is called only from itself (R284). -/
def State.callTarget (s : State) (va : Nat) : Option (CodeObj × BitVec 256) :=
  s.job.objs.findSome? fun o =>
    match o.entryAt va with
    | some e => if (entryKind e == 1 || entryKind e == 2) && (!o.classes || o.va == s.fur.obj) then some (o, e) else none
    | none => none

/-! ### Frames (R292, R293) -/

/-- Whether a checkpoint of a plot of the job in the issue stage keeps a frame: a relaunch takes it up again. -/
def State.frameKept (s : State) (n : Nat) : Bool :=
  s.allPlots.any fun p => (s.launchOf p.launch).any (·.job == s.job.id) && p.check.any fun c => c.frames.any fun (u : FrameUse) => u.n == n
/-- The lowest free frame of the arena (R292): in use neither now nor in a plot's last checkpoint (R38; log entry 47). -/
def State.freeFrame (s : State) : Option Nat := (List.range s.job.arenaN).find? fun n => !s.job.frames.any (·.n == n) && !s.frameKept n
/-- Frees the frame at an address. -/
def Job.dropFrame (j : Job) (va : Nat) : Job :=
  { j with frames := j.frames.filter fun (u : FrameUse) => j.frameVa u.n ≠ va }
/-- The use of the frame at an address. -/
def Job.frameUse (j : Job) (va : Nat) : Option FrameUse := j.frames.find? fun u => j.frameVa u.n = va
/-- The continuation of a frame, as it is queued (R140). -/
def Job.continuation (j : Job) (plot : Nat) (va : Word) : Queued :=
  let u := (j.frameUse va.toNat).getD { n := 0, obj := 0, budget := 64, logical := 0, parent := none }
  { kind := .continuation, plot := plot, entryVa := 0, pc := 0, obj := u.obj, budget := u.budget, logical := u.logical
    mask := 0, xregs := [], xpoison := 0, frame := some va, parent := u.parent }

/-- Stores an image as entries of the furrow, one for each sector it touches (R295); addresses are translated. -/
def State.putImage (s : State) (vis : Bool) (base : Nat) (items : List (Nat × Nat × Nat)) : State :=
  let es := items.foldl (fun acc it =>
    let va := base + it.1
    let pa := (s.pa .store va).getD 0
    siloPut 0 s.fur.tag false (pa / 64) (va / 64) (pa % 64) it.2.1 it.2.2 false acc) ([] : List SiloEntry)
  let n := s.plot.entryNum
  let p : Plot := { s.plot with
    silo := s.plot.silo ++ mapIdxFrom (fun i (e : SiloEntry) => { e with vis := vis, num := i }) n es, entryNum := n + es.length }
  s.setPlot p.spillSilo

/-- The words of a unit in the lanes of a mask: data and poison bytes (R293), as items of a frame. -/
def unitData (lanes : List Lane) (m : Mask) (u : Nat) : List (Nat × Nat × Nat) :=
  (lanesOf m).map fun i => (1024 + 128 * u + 4 * i, 4, (lanes.getD i {}).read (8 * u) 32)
def unitPoison (lanes : List Lane) (m : Mask) (u : Nat) : List (Nat × Nat × Nat) :=
  (lanesOf m).map fun i => (17408 + 32 * u + i, 1, (lanes.getD i {}).poison.toNat / 2 ^ (8 * u) % 256)

/-- Everything a call saves (R139, R293). -/
def State.frameItems (s : State) (cont : Word) (join : Nat) (live : BitVec 128) : List (Nat × Nat × Nat) :=
  let us := (List.range 128).filter fun u => live.getLsbD u
  [(0, 8, cont.toNat), (8, 4, s.split.mask.toNat), (12, 4, join), (16, 8, live.toNat % 2 ^ 64), (24, 8, live.toNat / 2 ^ 64),
   (32, 4, s.fur.logical.toNat), (40, 8, (s.fur.ownFrame.getD 0).toNat)]
  ++ mapIdxFrom (fun k (m : Mask) => (64 + 4 * k, 4, m.toNat)) 0 s.fur.masks
  ++ mapIdxFrom (fun k (x : Word) => (128 + 8 * k, 8, x.toNat)) 0 s.fur.xregs
  ++ [(640, 8, s.fur.xpoison.toNat)]
  ++ us.flatMap (unitData s.fur.lanes s.split.mask)
  ++ us.flatMap (unitPoison s.fur.lanes s.split.mask)

/-- Translation of a whole frame for the furrow (R192, R295). -/
def State.frameStop (s : State) (va : Nat) : Option Stop :=
  let i := (lowest s.m0).getD 0
  (s.accessStop .load 1 1 [(i, va), (i, va + frameBytes - 1)]).or (s.accessStop .store 1 1 [(i, va), (i, va + frameBytes - 1)])

/-- The reads that fill units from a frame: addresses and sizes. -/
def unitReads (va : Nat) (m : Mask) (us : List Nat) : List (Nat × Nat) :=
  us.flatMap fun u => (lanesOf m).flatMap fun i => [(va + 1024 + 128 * u + 4 * i, 4), (va + 17408 + 32 * u + i, 1)]

/-- Fills units of slices from a frame in the lanes of a mask (R140, R294): poison is the frame's bit ORed with the
poison of the sector that holds the data word. -/
def State.fillUnits (s : State) (va : Nat) (m : Mask) (us : List Nat) (lanes : List Lane) : List Lane :=
  mapIdxFrom (fun i (l : Lane) =>
    if m.getLsbD i then
      us.foldl (fun (l : Lane) u =>
        let d := s.view false (va + 1024 + 128 * u + 4 * i) 4
        let p := s.view false (va + 17408 + 32 * u + i) 1
        let l1 := l.write (8 * u) 32 ⟨d.v, d.p⟩
        { l1 with poison := l1.poison ||| BitVec.ofNat 1024 (p.v * 2 ^ (8 * u)) }) l
    else l) 0 lanes

/-! ### Ends of splits and returns (R137, R140) -/

/-- Frees the issuing split's entry; a split that stalled for one tries again (R19, R20). -/
def State.freeSplit (s : State) : State :=
  (s.setFur { s.fur with splits := putAt {} s.fur.splits s.fur.cur {} }).unhold

/-- The furrow's last split is the issuing one. -/
def State.lastSplit (s : State) : Bool := decide (s.splitCount ≤ 1)

/-- Whether the JOIN word of the furrow's own frame lies in an entry that a job in flight holds back (R97, R103). -/
def State.joinBlocked (s : State) : Bool :=
  match s.fur.ownFrame with
  | none => false
  | some f =>
    match s.jobPa s.job .store (f.toNat + 12) with
    | none => false
    | some pa => (s.plot.taken (·.meetsPa pa 4)).any (s.entryHeld s.plot.id)

/-- Decrements JOIN of the furrow's own frame at its home slice, and queues the continuation at 0 (R140). A call queue that holds
64 entries takes it beyond them: R139 makes a call wait for room, and of a return the spec says nothing (the model's choice, log
entry 82). -/
def State.joinFrame (s : State) : State :=
  match s.fur.ownFrame with
  | none => s
  | some f =>
    match s.jobPa s.job .store (f.toNat + 12) with
    | none => s
    | some pa =>
      let s1 := (s.commitWhere (·.meetsPa pa 4)).dropCopies [pa / 64]
      let n := (Memory.readN s1.mem pa 4 + 2 ^ 32 - 1) % 2 ^ 32
      let s2 := s1.writePart s1.plot.core s1.plot.die pa 4 n false
      if n = 0 then
        s2.setCore { s2.core with callq := s2.core.callq ++ [s2.job.continuation s2.plot.id f] }
      else s2

/-- The furrow ends by `RET`, `EXIT` or `END`: a callee, or a continuation that inherits a frame, returns (R140). -/
def State.finishFur (s : State) : State :=
  if s.fur.ownFrame.isSome then (s.showAll.joinFrame).endFur s.fur.id else s.endFur s.fur.id

end Sys2Proof.Machine
end

