-- ==== Sys2Proof/Machine/Lanes.lean ====
section
/-! DEFINITION. Mask algebra (R160) and the instructions that move data between and within lanes (R161 to R164, R166). -/

namespace Sys2Proof.Machine

/-! ### Shapes -/

/-- The number of a mask operand. -/
def maskNo : Operand → Nat
  | .mask k => k.toNat
  | _ => 0

/-- Writes all 32 bits of a mask, whatever the lanes (R160). -/
def maskOp (f : Args) (s : State) (v : Mask) : State := (s.setMask (maskNo f.a) 0xFFFFFFFF v).advance

/-- The index of the lowest set bit, or 32 (R160). -/
def ffs32 (m : Mask) : Nat := (lowest m).getD 32

/-- The same number in every active lane, as an n32 result (R160). -/
def maskCount (f : Args) (s : State) (v : Nat) : State :=
  (s.result f.a false 32 (s.active f.guard) fun _ => ⟨v, false⟩).advance

/-- A shuffle from a source lane per lane (R161, R162); `idx` gives it, with the poison of an index operand. -/
def shuffle (f : Args) (s : State) (idx : Nat → Src) : State :=
  let w := fmtBits f.fmt
  let sg := fmtSigned f.fmt
  (s.result f.a sg w (s.active f.guard) fun i =>
    let k := idx i
    let x := s.cross (s.src sg w f.b) k.v
    ⟨x.v, x.p || k.p⟩).advance

/-- The immediate of a shuffle distance (R162). -/
def immNat : Operand → Nat
  | .imm v => v.toNat
  | _ => 0

/-- The common width of A, B and C of a packed instruction (R163, R182); 64 bits where none is slices (log entry 81). -/
def vecWidth (f : Args) : Nat := (firstWidth [f.a, f.b, f.c]).getD 64

/-- Sub-element `k` of `e` bits (R48). -/
def subElem (v e k : Nat) : Nat := v / 2 ^ (e * k) % 2 ^ e
/-- A value of `n` sub-elements of `e` bits. -/
def packElems (e : Nat) : List Nat → Nat
  | [] => 0
  | x :: rest => x % 2 ^ e + 2 ^ e * packElems e rest

/-- Byte `j` of `PERM.B` (R164): the first row that applies decides. -/
def permByte (b c j : Nat) : Nat :=
  let k := subElem c 8 j
  let x := subElem b 8 (k % 8)
  if k.testBit 4 then 0
  else if k.testBit 5 then 0xFF
  else if k.testBit 3 then (if x.testBit 7 then 0xFF else 0)
  else x

/-- An instruction within each lane on 64-bit operands (R164). -/
def inLane (f : Args) (s : State) (op : Nat → Nat → Nat) : State :=
  (s.result f.a false 64 (s.active f.guard) fun i =>
    let b := s.src false 64 f.b i
    let c := s.src false 64 f.c i
    ⟨op b.v c.v, b.p || c.p⟩).advance

/-- What `COMPACT` writes to each active lane (R166): the selected values in order, then zeros. -/
def compacted (f : Args) (s : State) : Nat → Src :=
  let w := fmtBits f.fmt
  let sg := fmtSigned f.fmt
  let act := s.active f.guard
  let from_ := lanesOf (act &&& s.mask (maskNo f.c))
  let dsts := lanesOf act
  fun i =>
    match dsts.findIdx? (· = i) with
    | some k => match from_[k]? with | some p => s.src sg w f.b p | none => ⟨0, false⟩
    | none => ⟨0, false⟩

/-! ### Meanings -/

/-- `mand` (R160). -/
def execMand (f : Args) (s : State) : Out :=
  .next (maskOp f s (s.mask (maskNo f.b) &&& s.mask (maskNo f.c)))

/-- `mor` (R160). -/
def execMor (f : Args) (s : State) : Out :=
  .next (maskOp f s (s.mask (maskNo f.b) ||| s.mask (maskNo f.c)))

/-- `mxor` (R160). -/
def execMxor (f : Args) (s : State) : Out :=
  .next (maskOp f s (s.mask (maskNo f.b) ^^^ s.mask (maskNo f.c)))

/-- `mandn` (R160). -/
def execMandn (f : Args) (s : State) : Out :=
  .next (maskOp f s (s.mask (maskNo f.b) &&& ~~~(s.mask (maskNo f.c))))

/-- `mnot` (R160). -/
def execMnot (f : Args) (s : State) : Out :=
  .next (maskOp f s (~~~(s.mask (maskNo f.b))))

/-- `mmov` (R160). -/
def execMmov (f : Args) (s : State) : Out :=
  .next (maskOp f s (s.mask (maskNo f.b)))

/-- `mset`: an immediate sign-extended, an x-register zero-extended; a poisoned x-register is a control point (R160). -/
def execMset (f : Args) (s : State) : Out :=
  guarded (rollIf (s.src false 64 f.b 0).p) s
    (maskOp f s (BitVec.ofNat 32 (s.src (match f.b with | .imm _ => true | _ => false) 64 f.b 0).v))

/-- `mget`: a mask zero-extended into an x-register, clean (R160). -/
def execMget (f : Args) (s : State) : Out :=
  match f.a with
  | .xreg x _ _ => .next (s.setX x.toNat ⟨(s.mask (maskNo f.b)).toNat, false⟩).advance
  | _ => .next s.advance

/-- `mpopc` (R160). -/
def execMpopc (f : Args) (s : State) : Out :=
  guarded (s.namesStop f.operands) s (maskCount f s (popcount (s.mask (maskNo f.b)).toNat 32))

/-- `mffs` (R160). -/
def execMffs (f : Args) (s : State) : Out :=
  guarded (s.namesStop f.operands) s (maskCount f s (ffs32 (s.mask (maskNo f.b))))

/-- `shfl.idx`: lane c mod 32 (R162). -/
def execShflIdx (f : Args) (s : State) : Out :=
  guarded (s.namesStop f.operands) s
    (shuffle f s fun i => let c := s.own (fmtBits f.fmt) f.c i; ⟨c.v % 32, c.p⟩)

/-- `shfl.up`: lane i − k, or i itself (R162). -/
def execShflUp (f : Args) (s : State) : Out :=
  guarded (s.namesStop f.operands) s (shuffle f s fun i => ⟨if i < immNat f.c then i else i - immNat f.c, false⟩)

/-- `shfl.down`: lane i + k, or i itself (R162). -/
def execShflDown (f : Args) (s : State) : Out :=
  guarded (s.namesStop f.operands) s (shuffle f s fun i => ⟨if 31 < i + immNat f.c then i else i + immNat f.c, false⟩)

/-- `shfl.xor`: lane i XOR k (R162). -/
def execShflXor (f : Args) (s : State) : Out :=
  guarded (s.namesStop f.operands) s (shuffle f s fun i => ⟨i ^^^ immNat f.c, false⟩)

/-- `shfe`: by lane and sub-element over the furrow's elements (R163). -/
def execShfe (f : Args) (s : State) : Out :=
  guarded (s.namesStop f.operands) s
    (let w := vecWidth f
     let e := fmtBits f.fmt
     let n := w / e
     (s.result f.a false w (s.active f.guard) fun i =>
       let c := s.src false w f.c i
       let qs := (List.range n).map fun j => subElem c.v e j % (32 * n)
       let from_ := fun q => s.cross (s.src false w f.b) (q / n)
       ⟨packElems e (qs.map fun q => subElem (from_ q).v e (q % n)), c.p || qs.any fun q => (from_ q).p⟩).advance)

/-- `perm.b` (R164). -/
def execPermB (f : Args) (s : State) : Out :=
  guarded (s.namesStop f.operands) s (inLane f s fun b c => packElems 8 ((List.range 8).map (permByte b c)))

/-- `perm.n`: nibble j is the nibble of B that nibble j of C selects (R164). -/
def execPermN (f : Args) (s : State) : Out :=
  guarded (s.namesStop f.operands) s (inLane f s fun b c => packElems 4 ((List.range 16).map fun j => subElem b 4 (subElem c 4 j)))

/-- `lut`: nibble j is the entry of the x-register's table that nibble j of B selects, at the width of A and B (R164). -/
def execLut (f : Args) (s : State) : Out :=
  let w := (firstWidth [f.a, f.b]).getD 64
  guarded (s.namesStop f.operands) s
    ((s.result f.a false w (s.active f.guard) fun i =>
      let b := s.src false w f.b i
      let c := s.src false 64 f.c i
      ⟨packElems 4 ((List.range (w / 4)).map fun j => subElem c.v 4 (subElem b.v 4 j)), b.p || c.p⟩).advance)

/-- `compact` (R166). -/
def execCompact (f : Args) (s : State) : Out :=
  guarded (s.namesStop f.operands) s
    ((s.result f.a (fmtSigned f.fmt) (fmtBits f.fmt) (s.active f.guard) (compacted f s)).advance)

end Sys2Proof.Machine
end

