-- ==== Sys2Proof/Machine/Control.lean ====
section
/-! DEFINITION. Control instructions (R132 to R150) and hints (R127): branches, calls, ends, yields, waits, barriers. -/

namespace Sys2Proof.Machine

/-! ### Branches and jumps (R133 to R136) -/

/-- The x-register an operand names. -/
def xNo : Operand → Nat
  | .xreg i _ _ => i.toNat
  | _ => 0

/-- A uniform branch over the active lanes (R133). -/
def uniformBranch (f : Args) (s : State) (cond : Mask → Bool) : Out :=
  let act := s.active f.guard
  .next (if act != 0 && cond act then s.jump (s.target f.a) else s.advance)

/-- Always taken (R133). -/
def execBr (f : Args) (s : State) : Out := uniformBranch f s fun _ => true
/-- Taken when every active lane is in the mask (R133). -/
def execBrall (f : Args) (s : State) : Out := uniformBranch f s fun act => act &&& ~~~(s.mask (maskNo f.b)) == 0
/-- Taken when some active lane is in the mask (R133). -/
def execBrany (f : Args) (s : State) : Out := uniformBranch f s fun act => act &&& s.mask (maskNo f.b) != 0
/-- Taken when no active lane is in the mask (R133). -/
def execBrnone (f : Args) (s : State) : Out := uniformBranch f s fun act => act &&& s.mask (maskNo f.b) == 0

/-- Decrements its x-register and branches while it is nonzero, whatever its lanes (R133, R136). -/
def execBrdec (f : Args) (s : State) : Out :=
  let n := xNo f.b
  let v := s.x n - 1
  let s1 := s.setX n ⟨v.toNat, false⟩
  guarded (rollIf (s.xp n)) s (if v ≠ 0 then s1.jump (s.target f.a) else s1.advance)

/-- Puts lanes into the group of a destination; groups stand by ascending address. -/
def addDest (t : Word) (m : Mask) : List (Word × Mask) → List (Word × Mask)
  | [] => [(t, m)]
  | g :: rest =>
    if t = g.1 then (t, g.2 ||| m) :: rest
    else if t.toNat < g.1.toNat then (t, m) :: g :: rest
    else g :: addDest t m rest

/-- The free entries of the split table, ascending (R19). -/
def Furrow.freeSplits (f : Furrow) : List Nat := (List.range 4).filter fun k => !(f.splits.getD k {}).valid

/-- Divides the issuing split (R19): the lowest destination keeps the entry, the others take the free ones in order. -/
def State.divide (s : State) (groups : List (Word × Mask)) : State :=
  match groups with
  | [] => s
  | g :: rest =>
    let split := fun (g : Word × Mask) => ({ valid := true, pc := g.1, mask := g.2 } : Split)
    let first := putAt {} s.fur.splits s.fur.cur { s.split with pc := g.1, mask := g.2 }
    let all := (s.fur.freeSplits.zip rest).foldl (fun l p => putAt {} l p.1 (split p.2)) first
    (s.setFur { s.fur with splits := all, latches := [] }).count

/-- Whether too few entries are free to divide into `k` splits (R19). -/
def State.cannotDivide (s : State) (k : Nat) : Option Stop :=
  if s.fur.freeSplits.length + 1 < k then some .hold else none

/-- A divergent branch (R134). -/
def execBrd (f : Args) (s : State) : Out :=
  let t := s.active f.guard &&& s.mask (maskNo f.b)
  let n := s.m0 &&& ~~~t
  let groups := addDest (s.target f.a) t (addDest s.fur.npc n [])
  if t = 0 then .next s.advance
  else if n = 0 then .next (s.jump (s.target f.a))
  else guarded (s.cannotDivide groups.length) s (s.divide groups)

/-- A jump to an absolute address (R133, R135, R136). -/
def execJmp (f : Args) (s : State) : Out :=
  let n := xNo f.b
  if s.active f.guard = 0 then .next s.advance
  else
    guarded ((rollIf (s.xp n)).or (if (s.x n).toNat % 8 != 0 then some (.fault { cause := .align, addr := s.x n }) else none)) s
      (s.jump (s.x n))

/-- A jump per lane; lanes outside the guard go to the next frame (R135, R136). -/
def execJmpd (f : Args) (s : State) : Out :=
  let act := s.active f.guard
  let a := fun i => s.src false 64 f.b i
  let groups := (lanesOf s.m0).foldl
    (fun l i => addDest (if act.getLsbD i then BitVec.ofNat 64 (a i).v else s.fur.npc) (BitVec.ofNat 32 (2 ^ i)) l) []
  let bad := lanesWhere act fun i => (a i).v % 8 != 0
  let chk := (s.namesStop [f.b]).or <| (rollIf (lanesWhere act (fun i => (a i).p) != 0)).or <|
    (stopIf (decide (4 < groups.length)) .splits).or <|
    (if bad != 0 then
      some (.fault { cause := .align, lanes := bad, addr := BitVec.ofNat 64 (a ((lowest bad).getD 0)).v })
     else none).or (s.cannotDivide groups.length)
  guarded chk s
    (match groups with
     | [g] => if g.1 = s.fur.npc then s.advance else s.jump g.1
     | _ => s.divide groups)

/-! ### Ends and calls (R137 to R143) -/

/-- Ends the issuing split's lanes (R137). -/
def execExit (s : State) : Out :=
  guarded (stallIf (s.lastSplit && s.joinBlocked)) s (if s.lastSplit then s.finishFur else s.freeSplit.count)

/-- Ends every split of the furrow (R137). -/
def execEndAll (s : State) : Out := guarded (stallIf s.joinBlocked) s s.finishFur

/-- The distinct targets of a call over the active lanes, ascending (R139). -/
def callGroups (act : Mask) (e : Nat → Word) : List (Word × Mask) :=
  (lanesOf act).foldl (fun l i => addDest (e i) (BitVec.ofNat 32 (2 ^ i)) l) []

/-- The frame that a call writes, as plot-visible stores of the caller after its boundary (R139, R295). -/
def State.callImage (s : State) (va : Nat) (cont : Word) (n : Nat) : State :=
  (s.endRegion.disarm.showAll).putImage true va (s.frameItems cont n (liveBits s.fur.budget s.liveMap))

/-- The checks of a call (R139, R142, R284, R292): `ceil` is the W form's ceiling in slices. -/
def State.callStop (s : State) (names : List Operand) (act : Mask) (e : Nat → Src) (ceil : Option Nat) : Option Stop :=
  let groups := callGroups act fun i => BitVec.ofNat 64 (e i).v
  let bad := lanesWhere act fun i => (s.callTarget (e i).v).isNone
  let tooBig := match ceil with
    | none => false
    | some u => groups.any fun g => match s.callTarget g.1.toNat with | some t => decide (u < entryBudget t.2) | none => false
  (s.namesStop names).or <| (stopIf (s.plot.team != 0) .illegal).or <|
  (rollIf (lanesWhere act (fun i => (e i).p) != 0)).or <|
  (if bad != 0 then
    some (.fault { cause := .pcrange, lanes := bad, addr := BitVec.ofNat 64 (e ((lowest bad).getD 0)).v })
   else none).or <|
  (stopIf tooBig .budget).or <|
  (stallIf (decide (64 < s.core.callq.length + max groups.length 1))).or <|
  match s.freeFrame with
  | none => some (stopOf .arena)
  | some n => (s.frameStop (s.job.frameVa n)).or
      (stallIf (s.roomBlocked (s.callImage (s.job.frameVa n) s.fur.npc groups.length)))

/-- The callee furrow queued for a target (R139): the caller's x-registers, with the frame in `x63`. -/
def State.callee (s : State) (f : Word) (g : Word × Mask) : Queued :=
  let t := (s.callTarget g.1.toNat).getD ({}, 0)
  { kind := .callee, plot := s.plot.id, entryVa := g.1, pc := BitVec.ofNat 64 (t.1.codeLo + entryOffset t.2), obj := t.1.va
    budget := entryBudget t.2, logical := s.fur.logical, mask := g.2
    xregs := putAt 0 s.fur.xregs 63 f, xpoison := s.fur.xpoison &&& ~~~(BitVec.ofNat 64 (2 ^ 63)), frame := some f, parent := none }

/-- A call (R139, R293, R295): boundary, frame, queued callees or continuation, and the end of the issuing split. -/
def State.call (s : State) (cont : Word) (act : Mask) (e : Nat → Src) : State :=
  let groups := callGroups act fun i => BitVec.ofNat 64 (e i).v
  let n := s.freeFrame.getD 0
  let va := BitVec.ofNat 64 (s.job.frameVa n)
  let use_ : FrameUse := { plot := s.plot.id, n := n, obj := s.fur.obj, budget := s.fur.budget, logical := s.fur.logical, parent := s.fur.ownFrame }
  let s1 := (s.makeRoom (s.callImage va.toNat cont groups.length)).callImage va.toNat cont groups.length
  let s2 := s1.setJob { s1.job with frames := use_ :: s1.job.frames }
  let q := match groups with | [] => [s2.job.continuation s2.plot.id va] | _ => groups.map (s.callee va)
  let s3 := s2.setCore { s2.core with callq := s2.core.callq ++ q }
  if s.lastSplit then s3.endFur s.fur.id else s3.freeSplit.count

/-- A call to the address in an x-register (R138, R139). -/
def execCall (f : Args) (s : State) : Out :=
  let act := s.active f.guard
  let e := fun i => s.src false 64 f.b i
  guarded (s.callStop [f.b] act e none) s (s.call (s.target f.a) act e)

/-- A call per lane (R138, R139). -/
def execCalli (f : Args) (s : State) : Out :=
  let act := s.active f.guard
  let e := fun i => s.src false 64 f.b i
  guarded (s.callStop [f.b] act e none) s (s.call (s.target f.a) act e)

/-- A call per lane under a budget ceiling (R138, R139). -/
def execCalliBudget (f : Args) (s : State) : Out :=
  let act := s.active f.guard
  let e := fun i => s.src false 64 f.b i
  guarded (s.callStop [f.b] act e (some (64 * immNat f.d))) s (s.call (s.target f.a) act e)

/-- Returns to the furrow's own frame (R140, R294, R295). -/
def execRet (s : State) : Out :=
  let va := (s.fur.ownFrame.getD 0).toNat
  let live := (s.view false (va + 16) 16).v
  let us := (List.range (min 8 (s.fur.budget / 8))).filter fun u => live.testBit u
  let items := us.flatMap (unitData s.fur.lanes s.m0) ++ us.flatMap (unitPoison s.fur.lanes s.m0)
  let t := s.putImage false va items
  guarded ((stopIf s.fur.ownFrame.isNone .illegal).or <| (s.frameStop va).or (stallIf (s.joinBlocked || s.roomBlocked t))) s
    (((s.fillAll (s.readSectors (va + 16) 16)).makeRoom t).putImage false va items).finishFur

/-- A furrow of the plot with a logical index, live or queued. -/
def State.indexInUse (s : State) (k : Nat) : Bool :=
  (s.allFurs.any fun f => f.plot == s.plot.id && f.logical.toNat == k) ||
    s.core.callq.any fun q => q.plot == s.plot.id && q.logical.toNat == k

/-- Queues a new furrow of the plot (R143). With no active lane it checks its index but performs no boundary and queues
nothing, on which R143 is silent (the model's choice, log entry 75). Its boundary, like a call's, orders no operation on tiles
or bins: R256 names `BAR` and a yoke for that, and R141 an edge of R109 (the model's choice, log entry 82). -/
def execSpawn (f : Args) (s : State) : Out :=
  let act := s.active f.guard
  let k := immNat f.c % 32
  let s1 := s.showAll
  let q : Queued :=
    { kind := .spawned, plot := s.plot.id, entryVa := s.fur.entryVa, pc := s.target f.a, obj := s.fur.obj, budget := s.fur.budget
      logical := BitVec.ofNat 5 k, mask := act, xregs := s.fur.xregs, xpoison := s.fur.xpoison, frame := none, parent := none }
  let s2 := s1.setPlot { s1.plot with had := s1.plot.had ||| BitVec.ofNat 32 (2 ^ k) }
  guarded ((stopIf (s.indexInUse k) .illegal).or (stallIf (act != 0 && decide (64 ≤ s.core.callq.length)))) s
    (if act = 0 then s.advance else (s2.setCore { s2.core with callq := s2.core.callq ++ [q] }).advance)

/-! ### Barriers (R148, R94) -/

/-- Logical indices of the plot's furrows that a pre-emption has saved (R34). -/
def State.savedMask (s : State) : Mask :=
  maskOf fun k => s.allFurs.any fun f => f.plot == s.plot.id && f.status == .saved && f.logical.toNat == k

/-- Moves a furrow that waited past its instruction, which now completes (R32). -/
def Furrow.pass (f : Furrow) : Furrow :=
  { f with
    status := .ready, splits := movePc f.splits f.cur f.npc
    yields := f.yields + (if f.npc.getLsbD 2 then 0 else 1) }

/-- Lets every barrier of the plot depart whose participants have all arrived. -/
def State.tryBars (s : State) : State :=
  let saved := s.savedMask
  let full := s.plot.bars.filter fun b => b.parts &&& ~~~(b.arrived ||| saved) == 0
  let s0 := full.foldl (fun (t : State) b => t.syncOps s.plot.id s.plot.core b.parts) s
  let s1 := s0.setPlot { s0.plot with bars := s0.plot.bars.filter fun b => !full.contains b }
  s1.mapFurs fun f => if f.plot == s.plot.id && full.any (fun b => f.status == .barrier b.n) then f.pass else f

/-- The participants of a barrier (R148). -/
def State.barParts (s : State) (f : Args) : Mask :=
  match f.b with
  | .xreg .. => BitVec.ofNat 32 (s.uniU (s.active f.guard) f.b).v
  | _ => BitVec.ofNat 32 (2 ^ s.launch.furrows - 1)

/-- Whether the arriving furrow is a barrier's first arrival: in the first's clock, with a lower logical index (R341). -/
def State.firstHere (s : State) (b : Barrier) : Bool :=
  b.since == s.cycles && (s.furOf b.fur).any fun f => decide (s.fur.logical.toNat < f.logical.toNat)

/-- Arrives at a plot barrier (R148, R142). -/
def execBar (f : Args) (s : State) : Out :=
  let n := BitVec.ofNat 3 (immNat f.c)
  let parts := s.barParts f
  let me := BitVec.ofNat 32 (2 ^ s.fur.logical.toNat)
  let old := s.plot.bars.find? (·.n = n)
  let chk := (stopIf (s.fur.ownFrame.isSome || decide (1 < s.splitCount) || parts &&& me == 0 || parts &&& ~~~s.plot.had != 0) .illegal).or
    (match old with
     | some b => if b.parts = parts then none
                 else some (.fault { cause := .yokemis, arrived := b.arrived, barId := n })
     | none => none)
  let s1 := s.showAll
  let b : Barrier := match old with
    | some b => { b with arrived := b.arrived ||| me, fur := if s.firstHere b then s.fur.id else b.fur }
    | none => { n := n, parts := parts, arrived := me, fur := s.fur.id, since := s.cycles }
  let s2 := s1.setPlot { s1.plot with bars := b :: s1.plot.bars.filter (·.n ≠ n) }
  guarded chk s (s2.setFur { s2.fur with status := .barrier n }).tryBars.waitOr

/-! ### Yields (R145, R146) -/

/-- A furrow after a yield: window empty, count 0, region closed, watch slots disarmed (R145, R32, R207), split moved. -/
def Furrow.yielded (f : Furrow) (pc : Word) : Furrow :=
  { f with
    latches := [], yields := 0, region := none, watch := List.replicate 4 {}
    splits := movePc f.splits f.cur pc }

/-- A furrow leaves its core at a yield with the slices of the map, in a status (R33, R146). -/
def State.leave (s : State) (pc : Word) (live : BitVec 128) (st : FStatus) : State :=
  let f := { (s.fur.yielded pc).savedWith live with status := st, active := false }
  ((s.setFur f).saveContext f (some live)).tryBars

/-- What a yield does at its end (R145): the furrow ends, leaves, or goes on at `pc`. -/
def State.yieldTo (s : State) (pc : Word) : State :=
  if s.launch.cancel then s.endFur s.fur.id
  else if s.plot.preempt then s.leave pc (liveBits s.fur.budget s.liveMap) .saved
  else s.setFur (s.fur.yielded pc)

/-- Yields (R145, R34). -/
def execYield (s : State) : Out := guarded (stopIf (s.plot.team != 0) .illegal) s (s.yieldTo s.fur.npc)

/-- Whether a stamp meets a wait's value, compared unsigned (R144, R206). -/
def Cmp.holds (c : Cmp) (stamp v : Nat) : Bool :=
  match c with
  | .ge => decide (v ≤ stamp)
  | .eq => stamp == v
  | .ne => stamp != v

/-- The physical address of a watched word: the held translation, or a walk's. -/
def State.homeAddr (s : State) (va : Nat) : Option Nat := (s.pa .load va).or (s.jobPa s.job .load va)
def State.homePa (s : State) (va : Nat) : Nat := (s.homeAddr va).getD 0

/-- The 64-bit word at a virtual address, at its home slice (R105, R206). -/
def State.homeWord (s : State) (va : Nat) : Nat := Memory.readN s.mem (s.homePa va) 8

/-- The acquire of a wait at an address: its scope check (R99) as a stop. -/
def State.acquireStop (s : State) (sc : BitVec 3) (lane va : Nat) : Option Stop :=
  if s.scopeOk sc (s.homePa va) then none
  else some (.fault { cause := .scope, lanes := BitVec.ofNat 32 (2 ^ lane), addr := BitVec.ofNat 64 va })

/-- The acquire of a wait (R105): the word was read at home, and its check has used the line's record (R98). -/
def State.waitAcquire (s : State) (sc : BitVec 3) (va : Nat) : State :=
  ((s.useRecord (s.homePa va)).dropCopies [s.homePa va / 64]).refresh sc

/-- A yield that waits for a stamp (R146). -/
def State.yieldW (s : State) (names : List Operand) (f : Args) (v : Nat) (cmp : Cmp) (sc : BitVec 3) : Out :=
  let n := xNo f.b
  let a := (s.x n).toNat
  let lane := s.uniLane (s.active f.guard)
  let met := cmp.holds (s.homeWord a) v
  let chk := (s.namesStop names).or <| (stopIf (decide (1 < s.splitCount) || s.plot.team != 0) .illegal).or <|
    (rollIf (s.xp n)).or <| (s.accessStop .load 8 8 [(lane, a)]).or (if met then s.acquireStop sc lane a else none)
  let label := s.target f.a
  guarded chk s
    (if met then (s.waitAcquire sc a).yieldTo label
     else if s.launch.cancel then s.endFur s.fur.id
     else s.leave label (liveBits s.fur.budget s.liveMap) (.waitStamp (s.x n) (BitVec.ofNat 64 v) cmp sc s.split.pc))

/-- The form with an immediate value and `≥`: at module scope as an S frame, at its SCOPE as a W frame (R144, R146). -/
def execYieldW (f : Args) (s : State) : Out :=
  s.yieldW [] f (s.uni (s.active f.guard) f.c).v .ge (if f.wide then f.scope else 3)

/-- The W form: a value in slices, `≥` or `=`, and a scope (R144, R146). -/
def execYieldWWide (f : Args) (s : State) : Out :=
  s.yieldW [f.c] f (s.uni (s.active f.guard) f.c).v (if f.xmod = 1 then .eq else .ge) f.scope

/-! ### Waits for time (R147, R101) -/

/-- `TIMEN`. -/
def State.timen (s : State) : Nat := s.timeNs % 2 ^ 64

/-- Waits until `TIMEN` has reached t (R147). -/
def execWaitt (f : Args) (s : State) : Out :=
  let t := (s.uni (s.active f.guard) f.b).v
  let s1 := s.clearDetres
  guarded (s.namesStop [f.b]) s
    (if t ≤ s.timen then s1.advance
     else (s1.setFur { s1.fur with status := .waitTime (BitVec.ofNat 64 t) none }).waitOr)

/-- Waits unless t lies beyond the horizon, and reports how late or early it is (R147). -/
def execWaittD (f : Args) (s : State) : Out :=
  let act := s.active f.guard
  let t := s.uni act f.b
  let h := s.uni act f.c
  let s1 := s.clearDetres
  let δ := toSigned 64 (wrap 64 ((t.v : Int) - s.timen))
  guarded (s.namesStop [f.a, f.b, f.c]) s
    (if toSigned 64 h.v < δ then (s1.result f.a false 64 act fun _ => ⟨wrap 64 (-δ), t.p || h.p⟩).advance
     else if t.v ≤ s.timen then (s1.result f.a false 64 act fun _ => ⟨wrap 64 ((s.timen : Int) - t.v), t.p || h.p⟩).advance
     else (s1.setFur { s1.fur with status := .waitTime (BitVec.ofNat 64 t.v) (some (f.a, act, t.p || h.p)) }).waitOr)

/-! ### Regions, cancels, hints (R149, R150, R127) -/

/-- Opens an idempotent region (R36, R149). The split table it records is that of the boundary after it (R20). -/
def execRegion (s : State) : Out :=
  let at_ := s.split.pc
  let s1 := s.advance
  let table := (s1.fur.settled s.fur.splits s.fur.cur).splits
  .next (s1.setFur { s1.fur with
    region := some { at_ := at_, pc := s.fur.npc, splits := table, masks := s1.fur.masks, yields := s1.fur.yields, restarts := 0
                     own := s.plot.entries.filter fun e => e.tag == s.fur.tag && !e.vis } })

/-- The cancel that a completion record's address and a level name (R150); `none` where they name no unit of the job. -/
def State.cancelUnit (s : State) (j : Job) (va : Word) (level : Nat) : Option State :=
  let past := fun (n : Nat) => if j.pastRecs.contains (n, va) then some s else none
  match level with
  | 0 =>
    match s.allLaunches.find? fun l => l.job == j.id && l.live && l.comp.va == va with
    | some l => some (s.cancelLaunches fun x => x.id == l.id)
    | none => past 0
  | 1 =>
    match s.graphs.find? fun g => g.job == j.id && g.comp.va == va with
    | some g => some (s.cancelGraphs fun x => x.id == g.id)
    | none => past 1
  | 2 =>
    match s.seasons.find? fun z => z.job == j.id && z.comp.va == va with
    | some z => some (s.cancelSeasons fun x => x.id == z.id)
    | none => past 2
  | _ => if j.comp.va = va then some (if j.live then s.cancelJob j.id else s) else none

/-- Cancels a unit of the job by its completion record (R150). -/
def execCancel (f : Args) (s : State) : Out :=
  let va := s.x (xNo f.b)
  let r := s.advance.cancelUnit s.job va (immNat f.c)
  guarded ((rollIf (s.xp (xNo f.b))).or (stopIf r.isNone .illegal)) s (r.getD s)

/-- No effect (R127). -/
def execNop (s : State) : Out := .next s.advance
/-- A hint without visible effect (R127). -/
def execHreuse (s : State) : Out := .next s.advance
/-- A hint without visible effect (R127). -/
def execHlikely (s : State) : Out := .next s.advance

/-- A word that names no instruction: the fault of R131's first order that applies; the field checks of a rung-3 opcode are
made by its emulation. -/
def execReservedOpcode (s : State) : Out :=
  match s.input with
  | .reservedOpcode r =>
    match r with
    | .outsideRange => s.stop (stopOf .pcrange)
    | .field op => if op == 0x2EA || op == 0x378 then emulated s (some (stopOf .illegal)) id else s.stop (stopOf .illegal)
    | .continuation | .noContinuation | .unclaimed _ => s.stop (stopOf .illegal)
    | .privBlock _ | .privField _ => s.stop (stopOf (if s.fur.priv then .illegal else .priv))
  | _ => .next s

end Sys2Proof.Machine
end

