-- ==== Sys2Proof/Machine/Integer.lean ====
section
/-! DEFINITION. Integer instructions, the scalar side, and the P halves that execute as integer instructions
(R46, R120, R151 to R159). -/

namespace Sys2Proof.Machine

/-! ### Shapes -/

/-- The value of a `w`-bit pattern by type: signed for `.i`, unsigned for `.n` (R65). -/
def typed (sg : Bool) (w v : Nat) : Int := if sg then toSigned w v else ((v % 2 ^ w : Nat) : Int)

/-- An instruction typed by a value class raises `ILLEGAL` when it issues, since no class is an integer type (R46); then
`BUDGET` and `LATCH` (R42, R53). -/
def State.intStop (s : State) (f : Args) : Option Stop :=
  (stopIf (fmtIsClass f.fmt) .illegal).or (s.namesStop f.operands)

/-- Writes a result computed in every active lane, and goes on (R151). -/
def intDone (f : Args) (s : State) (w : Nat) (r : Nat → Src) : State :=
  (s.result f.a f.sx w (s.active f.guard) r).advance

/-- One source (R151). -/
def int1 (f : Args) (s : State) (op : Nat → Bool → Nat → Int) : State :=
  intDone f s f.w fun i =>
    let a := s.src f.sx f.w f.b i
    ⟨wrap f.w (op f.w f.sg a.v), a.p⟩

/-- Two sources by type (R151). -/
def int2 (f : Args) (s : State) (op : Nat → Bool → Int → Int → Int) : State :=
  intDone f s f.w fun i =>
    let a := s.src f.sx f.w f.b i
    let b := s.src f.sx f.w f.c i
    ⟨wrap f.w (op f.w f.sg (typed f.sg f.w a.v) (typed f.sg f.w b.v)), a.p || b.p⟩

/-- Two sources as patterns (R153). -/
def intBits (f : Args) (s : State) (op : Nat → Nat → Nat → Nat) : State :=
  intDone f s f.w fun i =>
    let a := s.src f.sx f.w f.b i
    let b := s.src f.sx f.w f.c i
    ⟨op f.w a.v b.v % 2 ^ f.w, a.p || b.p⟩

/-- A source and a count, read unsigned at its own width (R153). -/
def intShift (f : Args) (s : State) (op : Nat → Nat → Nat → Nat) : State :=
  intDone f s f.w fun i =>
    let a := s.src f.sx f.w f.b i
    let c := s.own f.w f.c i
    ⟨op f.w a.v c.v % 2 ^ f.w, a.p || c.p⟩

/-- Limits a result to the range of its type (R65, R152). -/
def saturate (w : Nat) (sg : Bool) (r : Int) : Int :=
  if sg then max (-(2 ^ (w - 1) : Nat)) (min r ((2 ^ (w - 1) : Nat) - 1)) else max 0 (min r ((2 ^ w : Nat) - 1))

/-- Shifts (R153). -/
def shlN (w a c : Nat) : Nat := if w ≤ c then 0 else a * 2 ^ c % 2 ^ w
def shrN (w a c : Nat) : Nat := if w ≤ c then 0 else a / 2 ^ c
def sarN (w a c : Nat) : Nat := wrap w (toSigned w a / (2 ^ (min c (w - 1)) : Nat))
def rotlN (w a c : Nat) : Nat := (a * 2 ^ (c % w) + a / 2 ^ (w - c % w)) % 2 ^ w
def rotrN (w a c : Nat) : Nat := (a / 2 ^ (c % w) + a * 2 ^ (w - c % w)) % 2 ^ w

/-- Counts (R153): leading and trailing zero bits among `n` bits. -/
def clzN : Nat → Nat → Nat
  | 0, _ => 0
  | n + 1, a => if a.testBit n then 0 else clzN n a + 1
def ctzN : Nat → Nat → Nat
  | 0, _ => 0
  | n + 1, a => if a % 2 = 1 then 0 else ctzN n (a / 2) + 1
/-- The low `n` bits in reverse order (R159). -/
def revN : Nat → Nat → Nat
  | 0, _ => 0
  | n + 1, a => (a % 2) * 2 ^ n + revN n (a / 2)

/-- Division truncated toward zero; a zero divisor gives all ones (R159). -/
def divN (w : Nat) (a b : Int) : Int := if b = 0 then ((2 ^ w : Nat) : Int) - 1 else Int.tdiv a b

/-- Counts one microcoded or trapped legacy use (R129, R130); the count holds at its maximum. -/
def State.countLegmc (s : State) : State := s.setJob { s.job with legmc := countLegacy s.job.legmc }

/-- A compare into a mask (R156): bits of the active lanes only. -/
def intCompare (f : Args) (s : State) (rel : Int → Int → Bool) : State :=
  match f.a with
  | .mask k =>
    (s.setMask k.toNat (s.active f.guard) (maskOf fun i =>
      rel (typed f.sg f.w (s.src f.sx f.w f.b i).v) (typed f.sg f.w (s.src f.sx f.w f.c i).v))).advance
  | _ => s.advance

/-- Poison of an operand in an active lane (R49). -/
def State.poisonedIn (_s : State) (act : Mask) (f : Nat → Src) : Bool := (lanesOf act).any fun i => (f i).p

/-- The checks of a compare: a poisoned operand in an active lane is a control point (R49, R156). -/
def State.compareStop (s : State) (f : Args) : Option Stop :=
  (s.intStop f).or (rollIf (s.poisonedIn (s.active f.guard) (s.src f.sx f.w f.b) ||
    s.poisonedIn (s.active f.guard) (s.src f.sx f.w f.c)))

/-- A field of `B` from a position, above `w` the extension of the type (R154, R155). -/
def fieldOf (sg : Bool) (w v pos n : Nat) : Nat := wrap n (typed sg w v / ((2 ^ min pos w : Nat) : Int))

/-- Bits `[pos + n - 1 : pos]` of a `wd`-bit value replaced (R154, R155). -/
def insertBits (wd a v pos n : Nat) : Nat :=
  if wd ≤ pos then a % 2 ^ wd
  else (a - (a / 2 ^ pos % 2 ^ n) * 2 ^ pos + (v % 2 ^ n) * 2 ^ pos) % 2 ^ wd

/-- An operation of the scalar side at 64 bits on x-registers, whose elements extend by R46 (R158): nothing changes with no active lane. -/
def scalar (f : Args) (s : State) (op : Nat → Nat → Nat) : State :=
  if s.active f.guard = 0 then s.advance
  else
    let a := s.src f.sx 64 f.b 0
    let b := s.src f.sx 64 f.c 0
    match f.a with
    | .xreg x _ _ => (s.setX x.toNat ⟨op a.v b.v % 2 ^ 64, a.p || b.p⟩).advance
    | _ => s.advance

/-! ### Meanings -/

/-- `add` (R152). -/
def execAddInt (f : Args) (s : State) : Out :=
  guarded (s.intStop f) s (int2 f s fun _ _ a b => a + b)

/-- `sub` (R152). -/
def execSubInt (f : Args) (s : State) : Out :=
  guarded (s.intStop f) s (int2 f s fun _ _ a b => a - b)

/-- `mul`: the low bits of the product (R152). -/
def execMulInt (f : Args) (s : State) : Out :=
  guarded (s.intStop f) s (int2 f s fun _ _ a b => a * b)

/-- `mulh`: the high bits of the double-width product (R152). -/
def execMulh (f : Args) (s : State) : Out :=
  guarded (s.intStop f) s (int2 f s fun w _ a b => (a * b) / ((2 ^ w : Nat) : Int))

/-- `min`, by type (R152). -/
def execMinInt (f : Args) (s : State) : Out :=
  guarded (s.intStop f) s (int2 f s fun _ _ a b => min a b)

/-- `max`, by type (R152). -/
def execMaxInt (f : Args) (s : State) : Out :=
  guarded (s.intStop f) s (int2 f s fun _ _ a b => max a b)

/-- `abs`: on an `.n` type the value itself; the most negative number stays (R152). -/
def execAbsInt (f : Args) (s : State) : Out :=
  guarded (s.intStop f) s (int1 f s fun w sg a => if typed sg w a < 0 then - typed sg w a else typed sg w a)

/-- `neg` (R152). -/
def execNegInt (f : Args) (s : State) : Out :=
  guarded (s.intStop f) s (int1 f s fun w sg a => - typed sg w a)

/-- `adds`: saturating add (R152). -/
def execAdds (f : Args) (s : State) : Out :=
  guarded (s.intStop f) s (int2 f s fun w sg a b => saturate w sg (a + b))

/-- `subs`: saturating subtract (R152). -/
def execSubs (f : Args) (s : State) : Out :=
  guarded (s.intStop f) s (int2 f s fun w sg a b => saturate w sg (a - b))

/-- `muls`: saturating multiply (R152). -/
def execMuls (f : Args) (s : State) : Out :=
  guarded (s.intStop f) s (int2 f s fun w sg a b => saturate w sg (a * b))

/-- `and` (R153). -/
def execAnd (f : Args) (s : State) : Out :=
  guarded (s.intStop f) s (intBits f s fun _ a b => a &&& b)

/-- `or` (R153). -/
def execOr (f : Args) (s : State) : Out :=
  guarded (s.intStop f) s (intBits f s fun _ a b => a ||| b)

/-- `xor` (R153). -/
def execXor (f : Args) (s : State) : Out :=
  guarded (s.intStop f) s (intBits f s fun _ a b => a ^^^ b)

/-- `andn`: a AND NOT b (R153). -/
def execAndn (f : Args) (s : State) : Out :=
  guarded (s.intStop f) s (intBits f s fun w a b => a &&& (2 ^ w - 1 - b))

/-- `not` (R153). -/
def execNot (f : Args) (s : State) : Out :=
  guarded (s.intStop f) s (int1 f s fun w _ a => ((2 ^ w - 1 - a : Nat) : Int))

/-- `shl`: 0 for counts of w or more (R153). -/
def execShl (f : Args) (s : State) : Out :=
  guarded (s.intStop f) s (intShift f s shlN)

/-- `shr`: fills with zeros (R153). -/
def execShr (f : Args) (s : State) : Out :=
  guarded (s.intStop f) s (intShift f s shrN)

/-- `sar`: fills with bit w − 1 (R153). -/
def execSar (f : Args) (s : State) : Out :=
  guarded (s.intStop f) s (intShift f s sarN)

/-- `rotl`: by the count modulo w (R153). -/
def execRotl (f : Args) (s : State) : Out :=
  guarded (s.intStop f) s (intShift f s rotlN)

/-- `rotr`: by the count modulo w (R153). -/
def execRotr (f : Args) (s : State) : Out :=
  guarded (s.intStop f) s (intShift f s rotrN)

/-- `popc`: the number of 1 bits (R153). -/
def execPopc (f : Args) (s : State) : Out :=
  guarded (s.intStop f) s (int1 f s fun w _ a => (popcount a w : Int))

/-- `clz`: leading zero bits at width w (R153). -/
def execClz (f : Args) (s : State) : Out :=
  guarded (s.intStop f) s (int1 f s fun w _ a => (clzN w a : Int))

/-- `ctz`: trailing zero bits; w for zero (R153). -/
def execCtz (f : Args) (s : State) : Out :=
  guarded (s.intStop f) s (int1 f s fun w _ a => (ctzN w a : Int))

/-- `mov` (R154). -/
def execMov (f : Args) (s : State) : Out :=
  guarded (s.intStop f) s (int1 f s fun _ _ a => (a : Int))

/-- `ext`: bits `[pos + wd − 1 : pos]`, `wd` being the destination's width (R154); `l0` as the destination has width w, which R154
does not say (the model's choice, log entry 81). -/
def execExt (f : Args) (s : State) : Out :=
  guarded (s.intStop f) s
    (let wd := f.a.destWidth f.w
     intDone f s wd fun i =>
       let b := s.src f.sx f.w f.b i
       let c := s.own f.w f.c i
       ⟨fieldOf f.sg f.w b.v c.v wd, b.p || c.p⟩)

/-- `ins`: bits `[pos + wb − 1 : pos]` of the destination, `wb` being B's width (R154); an immediate B has width w, which R154
does not say (the model's choice, log entry 81). -/
def execIns (f : Args) (s : State) : Out :=
  guarded (s.intStop f) s
    (let wd := f.a.destWidth f.w
     let wb := match f.b with | .imm _ => f.w | o => o.ownWidth f.w
     intDone f s wd fun i =>
       let a := s.dest f.w f.a i
       let b := s.src f.sx wb f.b i
       let c := s.own f.w f.c i
       ⟨insertBits wd a.v b.v c.v wb, a.p || b.p || c.p⟩)

/-- `mad`: a × b + c (R155). -/
def execMad (f : Args) (s : State) : Out :=
  guarded (s.intStop f) s
    (intDone f s f.w fun i =>
      let a := s.src f.sx f.w f.b i
      let b := s.src f.sx f.w f.c i
      let c := s.src f.sx f.w f.d i
      ⟨wrap f.w (typed f.sg f.w a.v * typed f.sg f.w b.v + typed f.sg f.w c.v), a.p || b.p || c.p⟩)

/-- `bfx`: `len` bits from `pos`, extended by type; 0 for a length of 0 or above 64 (R155). -/
def execBfx (f : Args) (s : State) : Out :=
  guarded (s.intStop f) s
    (intDone f s f.w fun i =>
      let b := s.src f.sx f.w f.b i
      let c := s.own f.w f.c i
      let n := s.own f.w f.d i
      ⟨if n.v = 0 ∨ 64 < n.v then 0 else extend f.sg n.v f.w (fieldOf f.sg f.w b.v c.v n.v), b.p || c.p || n.p⟩)

/-- `sel`: by the bit of a mask, which carries no poison; the result takes the poison of both sources (R49, R155). -/
def execSel (f : Args) (s : State) : Out :=
  guarded (s.intStop f) s
    (intDone f s f.w fun i =>
      let b := s.src f.sx f.w f.b i
      let c := s.src f.sx f.w f.c i
      ⟨if (s.src false 1 f.d i).v = 1 then b.v else c.v, b.p || c.p⟩)

/-- `bfi`: the low `len` bits of B into the destination at `pos`; nothing for a length of 0 or above 64 (R155). -/
def execBfi (f : Args) (s : State) : Out :=
  guarded (s.intStop f) s
    (let wd := f.a.destWidth f.w
     intDone f s wd fun i =>
       let a := s.dest f.w f.a i
       let b := s.src f.sx f.w f.b i
       let c := s.own f.w f.c i
       let n := s.own f.w f.d i
       ⟨if n.v = 0 ∨ 64 < n.v then a.v else insertBits wd a.v (wrap n.v (typed f.sg f.w b.v)) c.v n.v, a.p || b.p || c.p || n.p⟩)

/-- `cmp.eq` into a mask (R156). -/
def execCmpEqInt (f : Args) (s : State) : Out :=
  guarded (s.compareStop f) s (intCompare f s fun a b => decide (a = b))

/-- `cmp.ne` into a mask (R156). -/
def execCmpNeInt (f : Args) (s : State) : Out :=
  guarded (s.compareStop f) s (intCompare f s fun a b => decide (a ≠ b))

/-- `cmp.lt` into a mask (R156). -/
def execCmpLtInt (f : Args) (s : State) : Out :=
  guarded (s.compareStop f) s (intCompare f s fun a b => decide (a < b))

/-- `cmp.le` into a mask (R156). -/
def execCmpLeInt (f : Args) (s : State) : Out :=
  guarded (s.compareStop f) s (intCompare f s fun a b => decide (a ≤ b))

/-- `cmp.gt` into a mask (R156). -/
def execCmpGtInt (f : Args) (s : State) : Out :=
  guarded (s.compareStop f) s (intCompare f s fun a b => decide (b < a))

/-- `cmp.ge` into a mask (R156). -/
def execCmpGeInt (f : Args) (s : State) : Out :=
  guarded (s.compareStop f) s (intCompare f s fun a b => decide (b ≤ a))

/-- `ixa`: B + C × 2^k, C read at the width of the type and extended by it (R157). -/
def execIxa (k : BitVec 3) (f : Args) (s : State) : Out :=
  guarded (s.intStop f) s
    ((s.result f.a f.sx 64 (s.active f.guard) fun i =>
      let b := s.src f.sx 64 f.b i
      let c := s.src f.sx f.w f.c i
      ⟨(b.v + extend f.sx f.w 64 c.v * 2 ^ k.toNat) % 2 ^ 64, b.p || c.p⟩).advance)

/-- `xadd` (R158). -/
def execXadd (f : Args) (s : State) : Out :=
  guarded (s.intStop f) s (scalar f s fun a b => a + b)

/-- `xsub` (R158). -/
def execXsub (f : Args) (s : State) : Out :=
  guarded (s.intStop f) s (scalar f s fun a b => a + 2 ^ 64 - b)

/-- `xmul` (R158). -/
def execXmul (f : Args) (s : State) : Out :=
  guarded (s.intStop f) s (scalar f s fun a b => a * b)

/-- `xand` (R158). -/
def execXand (f : Args) (s : State) : Out :=
  guarded (s.intStop f) s (scalar f s fun a b => a &&& b)

/-- `xior` (R158). -/
def execXior (f : Args) (s : State) : Out :=
  guarded (s.intStop f) s (scalar f s fun a b => a ||| b)

/-- `xshl` (R158). -/
def execXshl (f : Args) (s : State) : Out :=
  guarded (s.intStop f) s (scalar f s fun a b => shlN 64 a b)

/-- `xshr`: by type (R158). -/
def execXshr (f : Args) (s : State) : Out :=
  guarded (s.intStop f) s (scalar f s fun a b => if f.sg then sarN 64 a b else shrN 64 a b)

/-- `xmov` (R158). -/
def execXmov (f : Args) (s : State) : Out :=
  guarded (s.intStop f) s (scalar f s fun a _ => a)

/-- `lea`: B + C × 8 at 64 bits, rung 1 (R159). -/
def execLea (f : Args) (s : State) : Out :=
  guarded (s.intStop f) s (int2 f s fun _ _ a b => a + b * 8)

/-- `mulhi`: `mulh` at 32 bits, rung 1 (R159). -/
def execMulhi (f : Args) (s : State) : Out :=
  guarded (s.intStop f) s (int2 f s fun w _ a b => (a * b) / ((2 ^ w : Nat) : Int))

/-- `brev`: bits reversed at width w, rung 2 (R129, R159). -/
def execBrev (f : Args) (s : State) : Out :=
  guarded (s.intStop f) s (int1 f s fun w _ a => (revN w a : Int)).countLegmc

/-- `div`: truncated toward zero, rung 2 (R129, R159). -/
def execDivInt (f : Args) (s : State) : Out :=
  guarded (s.intStop f) s (int2 f s fun w _ a b => divN w a b).countLegmc

/-- `mov.n8 d, v` (R120). -/
def execPMovN8 (p : PArgs) (s : State) : Out :=
  guarded (s.intStop (p.asMove 23)) s (int1 (p.asMove 23) s fun _ _ a => (a : Int))

/-- `mov.n16 d, v` (R120). -/
def execPMovN16 (p : PArgs) (s : State) : Out :=
  guarded (s.intStop (p.asMove 25)) s (int1 (p.asMove 25) s fun _ _ a => (a : Int))

/-- `mov.n32 d, v` (R120). -/
def execPMovN32 (p : PArgs) (s : State) : Out :=
  guarded (s.intStop (p.asMove 27)) s (int1 (p.asMove 27) s fun _ _ a => (a : Int))

/-- `mov.n64 d, v` (R120). -/
def execPMovN64 (p : PArgs) (s : State) : Out :=
  guarded (s.intStop (p.asMove 29)) s (int1 (p.asMove 29) s fun _ _ a => (a : Int))

/-- `add.i16 d, d, v` (R120). -/
def execPAddI16 (p : PArgs) (s : State) : Out :=
  guarded (s.intStop (p.asArgs 24)) s (int2 (p.asArgs 24) s fun _ _ a b => a + b)

/-- `add.i32 d, d, v` (R120). -/
def execPAddI32 (p : PArgs) (s : State) : Out :=
  guarded (s.intStop (p.asArgs 26)) s (int2 (p.asArgs 26) s fun _ _ a b => a + b)

/-- `add.i64 d, d, v` (R120). -/
def execPAddI64 (p : PArgs) (s : State) : Out :=
  guarded (s.intStop (p.asArgs 28)) s (int2 (p.asArgs 28) s fun _ _ a b => a + b)

/-- `sub.i32 d, d, v` (R120). -/
def execPSubI32 (p : PArgs) (s : State) : Out :=
  guarded (s.intStop (p.asArgs 26)) s (int2 (p.asArgs 26) s fun _ _ a b => a - b)

/-- `sub.i64 d, d, v` (R120). -/
def execPSubI64 (p : PArgs) (s : State) : Out :=
  guarded (s.intStop (p.asArgs 28)) s (int2 (p.asArgs 28) s fun _ _ a b => a - b)

/-- `mul.i32 d, d, v` (R120). -/
def execPMulI32 (p : PArgs) (s : State) : Out :=
  guarded (s.intStop (p.asArgs 26)) s (int2 (p.asArgs 26) s fun _ _ a b => a * b)

/-- `and.n64 d, d, v` (R120). -/
def execPAndN64 (p : PArgs) (s : State) : Out :=
  guarded (s.intStop (p.asArgs 29)) s (intBits (p.asArgs 29) s fun _ a b => a &&& b)

/-- `or.n64 d, d, v` (R120). -/
def execPOrN64 (p : PArgs) (s : State) : Out :=
  guarded (s.intStop (p.asArgs 29)) s (intBits (p.asArgs 29) s fun _ a b => a ||| b)

/-- `xor.n64 d, d, v` (R120). -/
def execPXorN64 (p : PArgs) (s : State) : Out :=
  guarded (s.intStop (p.asArgs 29)) s (intBits (p.asArgs 29) s fun _ a b => a ^^^ b)

/-- `add.i32 d, d, imm` (R120). -/
def execPAddI32Imm (p : PImm) (s : State) : Out :=
  guarded (s.intStop (p.asArgs 26)) s (int2 (p.asArgs 26) s fun _ _ a b => a + b)

/-- `shl.n32 d, d, imm` (R120). -/
def execPShlN32Imm (p : PImm) (s : State) : Out :=
  guarded (s.intStop (p.asArgs 27)) s (intShift (p.asArgs 27) s shlN)

/-- `shr.n32 d, d, imm` (R120). -/
def execPShrN32Imm (p : PImm) (s : State) : Out :=
  guarded (s.intStop (p.asArgs 27)) s (intShift (p.asArgs 27) s shrN)

/-- `sar.i32 d, d, imm` (R120). -/
def execPSarI32Imm (p : PImm) (s : State) : Out :=
  guarded (s.intStop (p.asArgs 26)) s (intShift (p.asArgs 26) s sarN)

/-- `mov.i32 d, imm` (R120). -/
def execPMovI32Imm (p : PImm) (s : State) : Out :=
  guarded (s.intStop (p.asMove 26)) s (int1 (p.asMove 26) s fun _ _ a => (a : Int))

/-- A P half that does nothing (R120). -/
def execPNop (_h : Bool) (_g : BitVec 3) (s : State) : Out :=
  .next s.advance

end Sys2Proof.Machine
end

