-- ==== Sys2Proof/Machine/Float.lean ====
section
/-! DEFINITION. Floating point, conversions, packing, reductions and random numbers (R165, R167 to R188), and the P
halves that execute as float instructions (R120). -/

namespace Sys2Proof

def Args.withFmt (f : Args) (n : BitVec 5) : Args := { f with fmt := n }

end Sys2Proof

namespace Sys2Proof.Machine

/-! ### Value classes (R64, R272 to R275) -/

/-- What a class entry resolves to. -/
structure ClassRes where
  fmt    : BitVec 5
  scheme : Nat := 0
  clamp  : Nat := 0
deriving DecidableEq, Repr

/-- Whether a value is 0 or FP32 bits of a positive finite value that a format represents exactly (R274). -/
def clampFits (f : BitVec 5) (c : Nat) : Bool :=
  c == 0 ||
    match ieeeDecode 20 c with
    | .fin false m e => (encodeNum f (.fin false m e) 0 0 (some (capOf f 0))).2 == 0
    | _ => false

/-- An entry of the class table (R273), or none where it counts as unbound (R274). -/
def classEntry (e : BitVec 128) : Option ClassRes :=
  let nat := e.extractLsb' 0 5
  let sch := (e.extractLsb' 5 2).toNat
  let clamp := (e.extractLsb' 32 32).toNat
  let bad := e.getLsbD 7 || decide (nat.toNat < 16) || sch == 3 || (sch == 2 && nat != 20)
    || (sch == 1 && !fmtScalable nat) || !clampFits nat clamp || e.extractLsb' 20 12 != 0 || e.extractLsb' 64 64 != 0
  if bad then none else some { fmt := nat, scheme := sch, clamp := clamp }

/-- A fmt code as the launch's class table resolves it (R64). -/
def State.resolve (s : State) (f : BitVec 5) : Option ClassRes :=
  if fmtIsClass f then (s.launch.classes[f.toNat]?).bind classEntry else some { fmt := f }

/-- The native code of a fmt that an entry accepts; a split-3 class is accepted only by `TCFG` and the matrix products
(R64, R275). -/
def State.native (s : State) (accept : Nat) (f : BitVec 5) : Option (BitVec 5) :=
  match s.resolve f with
  | some r => if r.scheme != 2 && accept.testBit r.fmt.toNat then some r.fmt else none
  | none => none

/-- The four formats of R167. -/
def accFlt : Nat := 0x3C0000
/-- The formats of the special functions (R176). -/
def accSpecial : Nat := 0x1C0000
/-- FP32 alone (R188). -/
def accF32 : Nat := 0x100000
/-- Every native format (R178). -/
def accAll : Nat := 0xFFFF0000

/-- `ILLEGAL` for a class that does not resolve to an accepted format or whose widths then do not fit (R64, R167), then
`BUDGET` and `LATCH`. -/
def State.fltStop (s : State) (accept : Nat) (ok : Args → Bool) (f : Args) : Option Stop :=
  match s.native accept f.fmt with
  | none => some (stopOf .illegal)
  | some n => (stopIf (!ok (f.withFmt n)) .illegal).or (s.namesStop f.operands)

/-- The resolved format, once the stop has passed. -/
def State.fmtOf (s : State) (accept : Nat) (f : Args) : BitVec 5 := (s.native accept f.fmt).getD 20

/-! ### Sources (R167, R169) -/

/-- An element source: an immediate is its integer value in every element (R167). -/
def State.fsrc (s : State) (nat : BitVec 5) (w : Nat) (o : Operand) (i : Nat) : Src :=
  match o with
  | .imm v =>
    let x := if fmtIsInt nat then wrap (fmtBits nat) v.toInt else (encodeNum nat (numInt v.toInt) 0 0 none).1
    ⟨packElems (fmtBits nat) (List.replicate (w / max 1 (fmtBits nat)) x), false⟩
  | _ => s.src false w o i

/-- The nonce of a stochastic rounding: operand E at its own width; the field `0x0000` is `s0:4` (R169, R11). A latch has the
width `w` of R53: W where the entry has one; a conversion and a dot product have none, and the model takes the destination's width
there, and 64 bits (the model's choice, log entry 81). -/
def State.nonce (s : State) (f : Args) (w i : Nat) : Src :=
  if f.rnd = 5 then
    match f.e with
    | .none => s.own w (.slice 0 0) i
    | o => s.own w o i
  else ⟨0, false⟩

/-- The offset of the instruction in its code section (R77). -/
def State.codeOffset (s : State) : Nat := (s.split.pc - s.fur.codeLo).toNat

/-- The random bits of element `j` of a lane (R77). -/
def State.draw (s : State) (rnd : BitVec 3) (nonce lane j : Nat) : Nat :=
  if rnd = 5 then srBits s.launch.seed.toNat s.codeOffset nonce s.plot.lplot s.fur.logical.toNat lane j else 0

/-! ### The element-wise driver (R168) -/

/-- The operand width W of an element-wise entry (R167). -/
def fltWidth (nat : BitVec 5) (f : Args) : Nat := fltW (fmtBits nat) [f.a, f.b, f.c, f.d]

/-- Element `j` of lane `i` of an entry whose result is rounded once. -/
def State.fltElem (s : State) (f : Args) (nat : BitVec 5) (ops : List Operand)
    (op : Nat → List Num → Num × Flags) (i j : Nat) : Nat × Flags :=
  let e := fmtBits nat
  let w := fltWidth nat f
  let u := s.draw f.rnd (s.nonce f w i).v i j
  let r := op u (ops.map fun o => decodeNum nat (subElem (s.fsrc nat w o i).v e j))
  let x := encodeNum nat r.1 f.rnd u none
  (x.1, x.2 ||| r.2)

/-- The poison that a lane's result takes (R49). -/
def State.fltPoison (s : State) (f : Args) (nat : BitVec 5) (ops : List Operand) (i : Nat) : Bool :=
  let w := fltWidth nat f
  (ops.any fun o => (s.fsrc nat w o i).p) || (s.nonce f w i).p

/-- Writes an element-wise result and raises its flags. -/
def fltDone (f : Args) (s : State) (nat : BitVec 5) (ops : List Operand) (el : Nat → Nat → Nat × Flags) : State :=
  let w := fltWidth nat f
  let n := w / fmtBits nat
  let act := s.active f.guard
  let s1 := s.result f.a false w act fun i =>
    ⟨packElems (fmtBits nat) ((List.range n).map fun j => (el i j).1), s.fltPoison f nat ops i⟩
  (s1.raise (flagsOver act n fun i j => (el i j).2)).advance

/-- An element-wise entry (R168). -/
def fltOp (accept : Nat) (f : Args) (s : State) (ops : List Operand) (op : Nat → List Num → Num × Flags) : Out :=
  let nat := s.fmtOf accept f
  guarded (s.fltStop accept fltOk f) s (fltDone f s nat ops (s.fltElem f nat ops op))

/-- An entry that works on bit patterns, without flags (R171). -/
def fltBitOp (f : Args) (s : State) (ops : List Operand) (op : Nat → List Nat → Nat) : Out :=
  let nat := s.fmtOf accFlt f
  let e := fmtBits nat
  guarded (s.fltStop accFlt fltOk f) s
    (fltDone f s nat ops fun i j => (op e (ops.map fun o => subElem (s.fsrc nat (fltWidth nat f) o i).v e j), 0))

/-- One and two operands of a list. -/
def on1 (g : Num → Num × Flags) : List Num → Num × Flags
  | [a] => g a
  | _ => (canonNaN, 0)
def on2 (g : Num → Num → Num × Flags) : List Num → Num × Flags
  | [a, b] => g a b
  | _ => (canonNaN, 0)
def on3 (g : Num → Num → Num → Num × Flags) : List Num → Num × Flags
  | [a, b, c] => g a b c
  | _ => (canonNaN, 0)

/-! ### Arithmetic (R171, R172) -/

/-- a + b (R171). -/
def execAddFloat (f : Args) (s : State) : Out :=
  fltOp accFlt f s [f.b, f.c] fun _ => on2 fAdd

/-- a − b (R171). -/
def execSubFloat (f : Args) (s : State) : Out :=
  fltOp accFlt f s [f.b, f.c] fun _ => on2 fun a b => fAdd a b.neg

/-- a × b (R171). -/
def execMulFloat (f : Args) (s : State) : Out :=
  fltOp accFlt f s [f.b, f.c] fun _ => on2 fMul

/-- minimumNumber (R171). -/
def execMinFloat (f : Args) (s : State) : Out :=
  fltOp accFlt f s [f.b, f.c] fun _ => on2 (fMinMax true true)

/-- maximumNumber (R171). -/
def execMaxFloat (f : Args) (s : State) : Out :=
  fltOp accFlt f s [f.b, f.c] fun _ => on2 (fMinMax false true)

/-- minimum, NaNs handed on (R171). -/
def execMinp (f : Args) (s : State) : Out :=
  fltOp accFlt f s [f.b, f.c] fun _ => on2 (fMinMax true false)

/-- maximum, NaNs handed on (R171). -/
def execMaxp (f : Args) (s : State) : Out :=
  fltOp accFlt f s [f.b, f.c] fun _ => on2 (fMinMax false false)

/-- Clears the sign bit (R171). -/
def execAbsFloat (f : Args) (s : State) : Out :=
  fltBitOp f s [f.b] fun e l => l.headD 0 % 2 ^ (e - 1)

/-- Inverts the sign bit (R171). -/
def execNegFloat (f : Args) (s : State) : Out :=
  fltBitOp f s [f.b] fun e l => l.headD 0 ^^^ 2 ^ (e - 1)

/-- The magnitude of a with the sign of b (R171). -/
def execSgn (f : Args) (s : State) : Out :=
  fltBitOp f s [f.b, f.c] fun e l => l.headD 0 % 2 ^ (e - 1) + l.getD 1 0 / 2 ^ (e - 1) * 2 ^ (e - 1)

/-- Rounds to an integral value (R171). -/
def execRint (f : Args) (s : State) : Out :=
  fltOp accFlt f s [f.b] fun u => on1 (fRint f.rnd u)

/-- a × b + c, rounded once (R172). -/
def execFma (f : Args) (s : State) : Out :=
  fltOp accFlt f s [f.b, f.c, f.d] fun _ => on3 (fFma false false)

/-- a × b − c, rounded once (R172). -/
def execFms (f : Args) (s : State) : Out :=
  fltOp accFlt f s [f.b, f.c, f.d] fun _ => on3 (fFma false true)

/-- −(a × b) + c, rounded once (R172). -/
def execFnma (f : Args) (s : State) : Out :=
  fltOp accFlt f s [f.b, f.c, f.d] fun _ => on3 (fFma true false)

/-- −(a × b) − c, rounded once (R172). -/
def execFnms (f : Args) (s : State) : Out :=
  fltOp accFlt f s [f.b, f.c, f.d] fun _ => on3 (fFma true true)

/-! ### Compare and classify (R173, R174) -/

/-- The decoded source of lane `i`, one element. -/
def State.felem (s : State) (nat : BitVec 5) (o : Operand) (i : Nat) : Num := decodeNum nat (s.fsrc nat (fmtBits nat) o i).v

/-- A float compare (R173): `rel` of the order, `none` where unordered; `quiet`: `NV` only for a signalling NaN. A
poisoned operand in an active lane is a control point (R49). -/
def fltCmp (f : Args) (s : State) (quiet : Bool) (rel : Option Int → Bool) : Out :=
  let nat := s.fmtOf accFlt f
  let act := s.active f.guard
  let w := fmtBits nat
  let poisoned := lanesWhere act fun i => (s.fsrc nat w f.b i).p || (s.fsrc nat w f.c i).p
  let bits := maskOf fun i => rel (fCmp (s.felem nat f.b i) (s.felem nat f.c i))
  let fl := flagsOver act 1 fun i _ =>
    let a := s.felem nat f.b i
    let b := s.felem nat f.c i
    flagIf (if quiet then a.isSig || b.isSig else a.isNaN || b.isNaN) flNV
  guarded ((s.fltStop accFlt fltOk1 f).or (rollIf (poisoned != 0))) s
    (((s.setMask (maskNo f.a) act bits).raise fl).advance)

/-- Equal (R173). -/
def execCmpEqFloat (f : Args) (s : State) : Out :=
  fltCmp f s true fun c => c == some 0

/-- Not equal (R173). -/
def execCmpNeFloat (f : Args) (s : State) : Out :=
  fltCmp f s true fun c => c != some 0

/-- Less (R173). -/
def execCmpLtFloat (f : Args) (s : State) : Out :=
  fltCmp f s false fun c => c == some (-1)

/-- Less or equal (R173). -/
def execCmpLeFloat (f : Args) (s : State) : Out :=
  fltCmp f s false fun c => c == some (-1) || c == some 0

/-- Greater (R173). -/
def execCmpGtFloat (f : Args) (s : State) : Out :=
  fltCmp f s false fun c => c == some 1

/-- Greater or equal (R173). -/
def execCmpGeFloat (f : Args) (s : State) : Out :=
  fltCmp f s false fun c => c == some 1 || c == some 0

/-- Unordered (R173). -/
def execCmpUn (f : Args) (s : State) : Out :=
  fltCmp f s true fun c => c.isNone

/-- Ordered (R173). -/
def execCmpOrd (f : Args) (s : State) : Out :=
  fltCmp f s true fun c => c.isSome

/-- The class of a one-element source as a one-hot n16 (R174). -/
def execFclass (f : Args) (s : State) : Out :=
  let nat := s.fmtOf accFlt f
  guarded (s.fltStop accFlt fltOk1B f) s
    (s.result f.a false 16 (s.active f.guard) fun i => ⟨2 ^ fClass nat (s.felem nat f.b i), (s.fsrc nat (fmtBits nat) f.b i).p⟩).advance

/-- Marks the lanes whose class an immediate selects (R174); a control point as a compare is (R49). -/
def execFtest (f : Args) (s : State) : Out :=
  let nat := s.fmtOf accFlt f
  let act := s.active f.guard
  let poisoned := lanesWhere act fun i => (s.fsrc nat (fmtBits nat) f.b i).p
  let k := immNat f.c
  guarded ((s.fltStop accFlt fltOk1B f).or (rollIf (poisoned != 0))) s
    (s.setMask (maskNo f.a) act (maskOf fun i => k.testBit (fClass nat (s.felem nat f.b i)))).advance

/-! ### Packed dot products (R175) -/

/-- The formats that the dot products accept. -/
def accDot : Nat := bits [16, 17, 18, 19, 22, 23, 24, 25, 30, 31]

/-- Elements of a 64-bit operand (R48, R175). -/
def dotCount (nat : BitVec 5) : Nat := if nat = 16 then 10 else 64 / fmtBits nat

/-- An exact zero sum is +0 (R175). -/
def plusZero : Num → Num
  | .zero .. => .zero false false
  | x => x

/-- The float sum of a lane before its rounding. -/
def dotFloat (nat : BitVec 5) (b c : Nat) (acc : Option Nat) : Num × Flags :=
  let n := dotCount nat
  let e := fmtBits nat
  let ps := (List.range n).map fun j => fMul (decodeNum nat (subElem b e j)) (decodeNum nat (subElem c e j))
  let all := ps.map (·.1) ++ (match acc with | some a => [ieeeDecode 20 a] | none => [])
  let nv := ps.foldl (fun a p => a ||| p.2) (0 : Flags)
  let pos := all.any (· == .inf false)
  let neg := all.any (· == .inf true)
  let sig := flagIf (all.any Num.isSig || (pos && neg)) flNV
  if all.any Num.isNaN || (pos && neg) then (canonNaN, nv ||| sig)
  else if pos then (.inf false, 0)
  else if neg then (.inf true, 0)
  else (plusZero (all.foldl (fun a x => (fAdd a x).1) (.zero false false)), 0)

/-- The integer sum of a lane modulo 2^32. -/
def dotInt (nat : BitVec 5) (b c acc : Nat) : Nat :=
  let e := fmtBits nat
  let v := fun (x : Nat) => typed (fmtSigned nat) e x
  wrap 32 ((List.range (dotCount nat)).foldl (fun t j => t + v (subElem b e j) * v (subElem c e j)) (acc : Int))

/-- A dot product, with an accumulator or without. An immediate source is sign-extended over the 64-bit operand for an
integer format, which R12 does not settle against an extension per element (the model's choice, log entry 72). -/
def dotOp (f : Args) (s : State) (acc : Option Operand) : Out :=
  let nat := s.fmtOf accDot f
  let act := s.active f.guard
  let isI := fmtIsInt nat
  let b := fun i => if isI then s.src false 64 f.b i else s.fsrc nat 64 f.b i
  let c := fun i => if isI then s.src false 64 f.c i else s.fsrc nat 64 f.c i
  let d := fun i => match acc with | some o => if isI then s.src (fmtSigned nat) 32 o i else s.fsrc 20 32 o i | none => ⟨0, false⟩
  let el := fun i =>
    if isI then (dotInt nat (b i).v (c i).v (d i).v, (0 : Flags))
    else
      let r := dotFloat nat (b i).v (c i).v (acc.map fun _ => (d i).v)
      let x := ieeeEncode 20 r.1 f.rnd (s.draw f.rnd (s.nonce f 64 i).v i 0) none
      (x.1, x.2 ||| r.2)
  let ok := fun (f : Args) => !(fmtIsInt f.fmt) || f.rnd == 0
  guarded (s.fltStop accDot ok f) s
    (((s.result f.a (isI && fmtSigned nat) 32 act fun i => ⟨(el i).1, (b i).p || (c i).p || (d i).p || (s.nonce f 64 i).p⟩).raise
      (flagsOver act 1 fun i _ => (el i).2)).advance)

/-- Packed dot product (R175). -/
def execDot (f : Args) (s : State) : Out :=
  dotOp f s none

/-- Packed dot product with accumulator (R175). -/
def execDota (f : Args) (s : State) : Out :=
  dotOp f s (some f.d)

/-! ### Special functions, divide, square root, legacy reciprocal (R176, R177, R188) -/

/-- `exp2`, rounded once (R176). -/
def execExp2 (f : Args) (s : State) : Out :=
  fltOp accSpecial f s [f.b] fun _ => on1 fExp2

/-- `log2`, rounded once (R176). -/
def execLog2 (f : Args) (s : State) : Out :=
  fltOp accSpecial f s [f.b] fun _ => on1 fLog2

/-- `rcp`, rounded once (R176). -/
def execRcp (f : Args) (s : State) : Out :=
  fltOp accSpecial f s [f.b] fun _ => on1 fRcp

/-- `rsqrt`, rounded once (R176). -/
def execRsqrt (f : Args) (s : State) : Out :=
  fltOp accSpecial f s [f.b] fun _ => on1 fRsqrt

/-- `sinpi`, rounded once (R176). -/
def execSinpi (f : Args) (s : State) : Out :=
  fltOp accSpecial f s [f.b] fun _ => on1 fSinpi

/-- `cospi`, rounded once (R176). -/
def execCospi (f : Args) (s : State) : Out :=
  fltOp accSpecial f s [f.b] fun _ => on1 fCospi

/-- `tanh`, rounded once (R176). -/
def execTanh (f : Args) (s : State) : Out :=
  fltOp accSpecial f s [f.b] fun _ => on1 fTanh

/-- Divide (R177). -/
def execDivFloat (f : Args) (s : State) : Out :=
  fltOp accFlt f s [f.b, f.c] fun _ => on2 fDiv

/-- Square root (R177). -/
def execSqrt (f : Args) (s : State) : Out :=
  fltOp accFlt f s [f.b] fun _ => on1 fSqrt

/-- The Ebuno reciprocal, microcoded (R188, R129). -/
def execRcpa (f : Args) (s : State) : Out :=
  let nat := s.fmtOf accF32 f
  guarded (s.fltStop accF32 fltOk f) s
    (fltDone f s.countLegmc nat [f.b] fun i j => fRcpa (decodeNum 20 (subElem (s.fsrc nat (fltWidth nat f) f.b i).v 32 j)))

/-! ### Conversions (R178 to R181) -/

/-- Both sides of a conversion resolved (R178), or none. -/
def State.convFmts (s : State) (d src : BitVec 5) : Option (ClassRes × ClassRes) :=
  match s.resolve d, s.resolve src with
  | some a, some b => if a.scheme == 2 || b.scheme == 2 then none else some (a, b)
  | _, _ => none

/-- Element `j` of a conversion's source. An immediate is converted to the source format and stands in every element; R12
and R178 do not say how it fills more than one (the model's choice, log entry 72). -/
def State.convSrc (s : State) (src : BitVec 5) (n wb : Nat) (o : Operand) (i j : Nat) : Nat :=
  match o with
  | .imm v => if fmtIsInt src then wrap (fmtBits src) v.toInt else (encodeNum src (numInt v.toInt) 0 0 none).1
  | _ => subElem (s.src false wb o i).v (if src == 16 && n == 1 then 6 else fmtBits src) j

/-- The extension of a conversion's result beyond its width: the destination type's (R46, R53). -/
def convSx (d : BitVec 5) : Bool := fmtIsInt d && fmtSigned d

/-- Elements packed by a format (R48, R178). -/
def convPack (d : BitVec 5) (l : List Nat) : Nat := packElems (fmtBits d) l

/-- `CVT` (R178, R179). -/
def cvtOp (src : BitVec 5) (f : Args) (s : State) : Out :=
  match s.convFmts f.fmt src with
  | none => s.stop (stopOf .illegal)
  | some (d, b) =>
    match convShape d.fmt b.fmt f.a f.b with
    | none => s.stop (stopOf .illegal)
    | some (n, wa, wb) =>
      let act := s.active f.guard
      let el := fun i j =>
        convElem d.fmt b.fmt (s.convSrc b.fmt n wb f.b i j) f.rnd (s.draw f.rnd (s.nonce f wa i).v i j) (capOf d.fmt 0)
      guarded (s.namesStop f.operands) s
        (((s.result f.a (convSx d.fmt) wa act fun i =>
            ⟨convPack d.fmt ((List.range n).map fun j => (el i j).1), (s.src false wb f.b i).p || (s.nonce f wa i).p⟩).raise
          (flagsOver act n fun i j => (el i j).2)).advance)

/-- The clamp bound that an FP32 operand gives (R180). -/
def clampOperand (d : BitVec 5) (c : Nat) : Nat × Int :=
  match ieeeDecode 20 c with
  | .fin false m e =>
    let x := encodeNum d (.fin false m e) 1 0 (some (capOf d 0))
    match decodeNum d x.1 with
    | .fin _ q t => (q, t)
    | _ => capOf d 0
  | _ => capOf d 0

/-- One element of `CVTX`: `sc` 0 no scale, 1 source scaled, 2 destination scaled by E (R180). -/
def cvtxElem (d src : BitVec 5) (sc e w : Nat) (rnd : BitVec 3) (u : Nat) (cap : Nat × Int) : Nat × Flags :=
  match sc with
  | 0 => convElem d src w rnd u cap
  | 1 => convNum d src (if e = 255 then canonNaN else (decodeNum src w).scale ((e : Int) - 127)) rnd u (some cap)
  | _ => if e = 255 then (0, 0) else convNum d src ((decodeNum src w).scale (127 - (e : Int))) rnd u (some cap)

/-- The scale option in force (R275): `00` where the side it names is a class bound to plain. -/
def cvtxOption (f : Args) (d src : ClassRes) : Nat :=
  match (f.xmod.extractLsb' 1 2).toNat with
  | 1 => if fmtIsClass f.f1 && src.scheme == 0 then 0 else 1
  | 2 => if fmtIsClass f.fmt && d.scheme == 0 then 0 else 2
  | n => n

/-- Whether the clamp and the scale option in force fit the resolved formats (R180). -/
def cvtxFits (f : Args) (sc : Nat) (d src : BitVec 5) : Bool :=
  (sc != 1 || fmtScalable src) && (sc != 2 || fmtScalable d) && (!f.xmod.getLsbD 0 || !(fmtIsInt d))

/-- A conversion (R178, R179). -/
def execCvt (src : BitVec 5) (f : Args) (s : State) : Out :=
  cvtOp src f s

/-- A conversion with a clamp bound or a scale (R180, R275). -/
def execCvtx (f : Args) (s : State) : Out :=
  match s.convFmts f.fmt f.f1 with
  | none => s.stop (stopOf .illegal)
  | some (d, b) =>
    match convShape d.fmt b.fmt f.a f.b with
    | none => s.stop (stopOf .illegal)
    | some (n, wa, wb) =>
      let act := s.active f.guard
      let sc := cvtxOption f d b
      let c := fun i => if f.xmod.getLsbD 0 then s.fsrc 20 32 f.c i else ⟨0, false⟩
      let e := fun i => if sc = 0 then ⟨0, false⟩ else s.src false 8 (if f.d = .none then .slice 0 0 else f.d) i
      let el := fun i j =>
        cvtxElem d.fmt b.fmt sc (e i).v (s.convSrc b.fmt n wb f.b i j) f.rnd (s.draw f.rnd (s.nonce f wa i).v i j)
          (if f.xmod.getLsbD 0 then clampOperand d.fmt (c i).v else capOf d.fmt 0)
      guarded ((stopIf (!cvtxFits f sc d.fmt b.fmt) .illegal).or (s.namesStop f.operands)) s
        (((s.result f.a (convSx d.fmt) wa act fun i =>
            ⟨convPack d.fmt ((List.range n).map fun j => (el i j).1),
             (s.src false wb f.b i).p || (c i).p || (e i).p || (s.nonce f wa i).p⟩).raise
          (flagsOver act n fun i j => (el i j).2)).advance)

/-- Chooses a block scale (R181). -/
def execEsel (f : Args) (s : State) : Out :=
  guarded (s.namesStop f.operands) s
    (s.result f.a false 8 (s.active f.guard) fun i =>
      ⟨eselOf (s.fsrc 20 32 f.b i).v (s.fsrc 20 32 f.c i).v, (s.fsrc 20 32 f.b i).p || (s.fsrc 20 32 f.c i).p⟩).advance

/-! ### Pack and unpack (R182, R183) -/

/-- An interleave: `pick n k` says which source (B first) and which sub-element gives sub-element `k` (R182). -/
def zipOp (f : Args) (s : State) (pick : Nat → Nat → Bool × Nat) : Out :=
  let e := fmtBits f.fmt
  let w := vecWidth f
  let n := w / max 1 e
  let b := fun i => s.src false w f.b i
  let c := fun i => s.src false w f.c i
  guarded (s.namesStop f.operands) s
    (s.result f.a false w (s.active f.guard) fun i =>
      ⟨packElems e ((List.range n).map fun k => let p := pick n k; subElem (if p.1 then (b i).v else (c i).v) e p.2),
       (b i).p || (c i).p⟩).advance

/-- Interleaves the low halves (R182). -/
def execZipLo (f : Args) (s : State) : Out :=
  zipOp f s fun _ k => (k % 2 == 0, k / 2)

/-- Interleaves the high halves (R182). -/
def execZipHi (f : Args) (s : State) : Out :=
  zipOp f s fun n k => (k % 2 == 0, k / 2 + n / 2)

/-- The even elements (R182). -/
def execUnzipEv (f : Args) (s : State) : Out :=
  zipOp f s fun n k => if k < n / 2 then (true, 2 * k) else (false, 2 * (k - n / 2))

/-- The odd elements (R182). -/
def execUnzipOd (f : Args) (s : State) : Out :=
  zipOp f s fun n k => if k < n / 2 then (true, 2 * k + 1) else (false, 2 * (k - n / 2) + 1)

/-- Eight T6 byte codes into dense form (R183). -/
def execPk6 (f : Args) (s : State) : Out :=
  guarded (s.namesStop f.operands) s
    (s.result f.a false 48 (s.active f.guard) fun i =>
      let b := s.src false 64 f.b i
      ⟨packElems 6 ((List.range 8).map fun k => subElem b.v 8 k), b.p⟩).advance

/-- Eight dense T6 codes into bytes (R183). -/
def execUpk6 (f : Args) (s : State) : Out :=
  guarded (s.namesStop f.operands) s
    (s.result f.a false 64 (s.active f.guard) fun i =>
      let b := s.src false 48 f.b i
      ⟨packElems 8 ((List.range 8).map fun k => subElem b.v 6 k), b.p⟩).advance

/-! ### Random numbers (R184 to R187) -/

/-- Precision of R185. -/
def rngPrec (nat : BitVec 5) : Nat := match nat.toNat with | 18 => 11 | 19 => 8 | 20 => 24 | _ => 53

/-- A draw's 64 bits (R184), or its uniform floats (R185): `sel` 0 low, 1 high, 2 [0, 1), 3 (0, 1]. -/
def rngValue (sel : Nat) (nat : BitVec 5) (n out : Nat) : Nat :=
  if sel = 0 then out % 2 ^ 64
  else if sel = 1 then out / 2 ^ 64
  else
    let p := rngPrec nat
    packElems (fmtBits nat) ((List.range n).map fun j =>
      let k := out / 2 ^ (128 - 32 * j - p) % 2 ^ p
      (encodeNum nat (mkNum false (if sel = 3 then k + 1 else k) (-(p : Int))) 0 0 none).1)

/-- The 64-bit stream, counter or key (R184, R187): an immediate is sign-extended. -/
def State.rngSrc (s : State) (o : Operand) (i : Nat) : Src := s.src true 64 o i

/-- A draw per active lane (R186). A counter that wraps sets RNGWRAP, and takes the trap after the instruction where the
code object asks for it (R280). `RNGU` into `l0` or an x-register draws one element: R184 and R167 give it no count (the model's
choice, log entry 81). -/
def rngOp (sel : Nat) (f : Args) (s : State) (key : Nat → Src) : Out :=
  let accept := if sel < 2 then bits [28, 29] else accFlt
  let nat := s.fmtOf accept f
  let act := s.active f.guard
  let w := if sel < 2 then 64 else fltW (fmtBits nat) [f.a]
  let n := w / max 1 (fmtBits nat)
  let b := fun i => s.rngSrc f.b i
  let c := fun i => s.rngSrc f.c i
  let poison := fun i => (b i).p || (c i).p || (key i).p
  let wrapped := if f.ext then lanesWhere act fun i => (c i).v == 2 ^ 64 - 1 else 0
  let ok := fun (g : Args) => sel < 2 || fltWidthOk (fmtBits g.fmt) (fltW (fmtBits g.fmt) [g.a])
  let s1 := s.result f.a (sel < 2 && f.sg) w act fun i => ⟨rngValue sel nat n (sower (key i).v (b i).v (c i).v), poison i⟩
  let s2 := match f.ext, f.c with
    | true, .slice st _ => s1.setSlices st.toNat 64 act fun i => ⟨((c i).v + 1) % 2 ^ 64, poison i⟩
    | _, _ => s1
  let s3 := (s2.raise (flagIf (wrapped != 0) flWrap)).advance
  let traps := match s.job.objs.find? (·.va = s.fur.obj) with | some o => o.hdr.getLsbD 128 | none => false
  guardedOut (s.fltStop accept ok f) s
    (if wrapped != 0 && traps then s3.takeFault { cause := .rngwrap, lanes := wrapped } else .next s3)

/-- The launch seed as a key (R184). -/
def State.seedKey (s : State) : Nat → Src := fun _ => ⟨s.launch.seed.toNat, false⟩

/-- A draw under the launch seed (R184, R186). -/
def execRngLo (f : Args) (s : State) : Out :=
  rngOp 0 f s s.seedKey

/-- A draw under the launch seed (R184, R186). -/
def execRngHi (f : Args) (s : State) : Out :=
  rngOp 1 f s s.seedKey

/-- A draw under the launch seed (R184, R186). -/
def execRngu (f : Args) (s : State) : Out :=
  rngOp 2 f s s.seedKey

/-- A draw under the launch seed (R184, R186). -/
def execRnguOc (f : Args) (s : State) : Out :=
  rngOp 3 f s s.seedKey

/-- A draw under an explicit key (R187). -/
def execRngkLo (f : Args) (s : State) : Out :=
  rngOp 0 f s fun i => s.rngSrc f.d i

/-- A draw under an explicit key (R187). -/
def execRngkHi (f : Args) (s : State) : Out :=
  rngOp 1 f s fun i => s.rngSrc f.d i

/-- A draw under an explicit key (R187). -/
def execRngku (f : Args) (s : State) : Out :=
  rngOp 2 f s fun i => s.rngSrc f.d i

/-- A draw under an explicit key (R187). -/
def execRngkuOc (f : Args) (s : State) : Out :=
  rngOp 3 f s fun i => s.rngSrc f.d i

/-! ### Reductions and scans (R83, R165) -/

/-- A value at a node of the tree, with the flags raised on the way. -/
structure Node where
  x  : Src
  fl : Flags := 0
deriving DecidableEq, Repr

/-- One level of the tree over pairs; its node `k` has index `base + k`. -/
def treeLevel (op : Nat → Node → Node → Node) : Nat → List (Option Node) → List (Option Node)
  | k, a :: b :: rest =>
    (match a, b with
     | some x, some y => some (op k x y)
     | some x, none => some x
     | none, y => y) :: treeLevel op (k + 1) rest
  | _, _ => []

/-- The tree of R83 over 32 lanes, nodes numbered as R165 numbers them. -/
def tree (op : Nat → Node → Node → Node) (l : List (Option Node)) : Option Node :=
  ((treeLevel op 30 (treeLevel op 28 (treeLevel op 24 (treeLevel op 16 (treeLevel op 0 l))))).head?).getD none

/-- What a node does with two packed values of `n` elements. -/
def nodeOp (e n : Nat) (el : Nat → Nat → Nat → Nat × Flags) (a b : Node) : Node :=
  let r := (List.range n).map fun j => el j (subElem a.x.v e j) (subElem b.x.v e j)
  { x := ⟨packElems e (r.map (·.1)), a.x.p || b.x.p⟩, fl := r.foldl (fun acc p => acc ||| p.2) (a.fl ||| b.fl) }

/-- Operations of R165's table. -/
inductive RedOp
  | add | min | max | and | or | xor
deriving DecidableEq, Repr

/-- One element at a node: integers by type modulo 2^w, floats by R171; `u` are the random bits of an SR sum. -/
def redElem (op : RedOp) (nat : BitVec 5) (rnd : BitVec 3) (u a b : Nat) : Nat × Flags :=
  let w := fmtBits nat
  if fmtIsInt nat then
    let x := typed (fmtSigned nat) w a
    let y := typed (fmtSigned nat) w b
    (match op with
     | .add => wrap w (x + y)
     | .min => wrap w (min x y)
     | .max => wrap w (max x y)
     | .and => a &&& b
     | .or => a ||| b
     | .xor => a ^^^ b, 0)
  else
    let x := decodeNum nat a
    let y := decodeNum nat b
    let r := match op with
      | .add => fAdd x y
      | .min => fMinMax true true x y
      | _ => fMinMax false true x y
    let z := encodeNum nat r.1 rnd u none
    (z.1, z.2 ||| r.2)

def redAccept : RedOp → Nat
  | .add | .min | .max => 0xFFC00000 ||| accFlt
  | _ => 0xFFC00000

/-- The operand width of a reduction: the type's, or R167's for packed floats. -/
def redWidth (nat : BitVec 5) (f : Args) : Nat := if fmtIsInt nat then fmtBits nat else fltWidth nat f

/-- The tree's value over the lanes of a mask, drawn for a lane (R165). -/
def State.redTree (s : State) (op : RedOp) (nat : BitVec 5) (f : Args) (act : Mask) (lane : Nat) : Option Node :=
  let w := redWidth nat f
  let e := fmtBits nat
  let src := fun i => if fmtIsInt nat then s.src f.sx w f.b i else s.fsrc nat w f.b i
  tree (fun k => nodeOp e (w / max 1 e) fun j a b => redElem op nat f.rnd (s.draw f.rnd 0 lane (32 * j + k)) a b)
    ((List.range 32).map fun i => if act.getLsbD i then some { x := src i } else none)

def State.redStop (s : State) (op : RedOp) (f : Args) : Option Stop :=
  s.fltStop (redAccept op) (fun g => fmtIsInt g.fmt || fltOk g) f

/-- A reduction: its single result in every active lane, or in an x-register (R165). -/
def reduceOp (op : RedOp) (f : Args) (s : State) : Out :=
  let nat := s.fmtOf (redAccept op) f
  let act := s.active f.guard
  let r := (s.redTree op nat f act 0).getD { x := ⟨0, false⟩ }
  guarded (s.redStop op f) s
    ((s.result f.a (fmtIsInt nat && f.sx) (redWidth nat f) act fun _ => r.x).raise r.fl).advance

/-- An inclusive scan (R83, R165). -/
def scanOp (op : RedOp) (f : Args) (s : State) : Out :=
  let nat := s.fmtOf (redAccept op) f
  let act := s.active f.guard
  let r := fun i => (s.redTree op nat f (act &&& BitVec.ofNat 32 (2 ^ (i + 1) - 1)) i).getD { x := ⟨0, false⟩ }
  guarded (s.redStop op f) s
    ((s.result f.a (fmtIsInt nat && f.sx) (redWidth nat f) act fun i => (r i).x).raise (flagsOver act 1 fun i _ => (r i).fl)).advance

/-- Reduction (R165). -/
def execReduceAdd (f : Args) (s : State) : Out :=
  reduceOp .add f s

/-- Reduction (R165). -/
def execReduceMin (f : Args) (s : State) : Out :=
  reduceOp .min f s

/-- Reduction (R165). -/
def execReduceMax (f : Args) (s : State) : Out :=
  reduceOp .max f s

/-- Reduction (R165). -/
def execReduceAnd (f : Args) (s : State) : Out :=
  reduceOp .and f s

/-- Reduction (R165). -/
def execReduceOr (f : Args) (s : State) : Out :=
  reduceOp .or f s

/-- Reduction (R165). -/
def execReduceXor (f : Args) (s : State) : Out :=
  reduceOp .xor f s

/-- Scan (R165). -/
def execScanAdd (f : Args) (s : State) : Out :=
  scanOp .add f s

/-- Scan (R165). -/
def execScanMin (f : Args) (s : State) : Out :=
  scanOp .min f s

/-- Scan (R165). -/
def execScanMax (f : Args) (s : State) : Out :=
  scanOp .max f s

/-- Scan (R165). -/
def execScanAnd (f : Args) (s : State) : Out :=
  scanOp .and f s

/-- Scan (R165). -/
def execScanOr (f : Args) (s : State) : Out :=
  scanOp .or f s

/-- Scan (R165). -/
def execScanXor (f : Args) (s : State) : Out :=
  scanOp .xor f s

/-! ### P halves (R120) -/

/-- Executes as the S instruction of R120. -/
def execPAddF32 (p : PArgs) (s : State) : Out :=
  let F := p.asArgs 20
  fltOp accFlt F s [F.b, F.c] fun _ => on2 fAdd

/-- Executes as the S instruction of R120. -/
def execPSubF32 (p : PArgs) (s : State) : Out :=
  let F := p.asArgs 20
  fltOp accFlt F s [F.b, F.c] fun _ => on2 fun a b => fAdd a b.neg

/-- Executes as the S instruction of R120. -/
def execPMulF32 (p : PArgs) (s : State) : Out :=
  let F := p.asArgs 20
  fltOp accFlt F s [F.b, F.c] fun _ => on2 fMul

/-- Executes as the S instruction of R120. -/
def execPMaxF32 (p : PArgs) (s : State) : Out :=
  let F := p.asArgs 20
  fltOp accFlt F s [F.b, F.c] fun _ => on2 (fMinMax false true)

/-- Executes as the S instruction of R120. -/
def execPMinF32 (p : PArgs) (s : State) : Out :=
  let F := p.asArgs 20
  fltOp accFlt F s [F.b, F.c] fun _ => on2 (fMinMax true true)

/-- Executes as the S instruction of R120. -/
def execPAddF64 (p : PArgs) (s : State) : Out :=
  let F := p.asArgs 21
  fltOp accFlt F s [F.b, F.c] fun _ => on2 fAdd

/-- Executes as the S instruction of R120. -/
def execPMulF64 (p : PArgs) (s : State) : Out :=
  let F := p.asArgs 21
  fltOp accFlt F s [F.b, F.c] fun _ => on2 fMul

/-- A packed half: R120 gives its operands 64 bits, and other widths raise `ILLEGAL` (log entry 52). -/
def pPacked (p : PArgs) (fmt : BitVec 5) (s : State) (g : Nat → List Num → Num × Flags) : Out :=
  let F := p.asArgs fmt
  if p.dst.w == 3 && p.src.w == 3 then fltOp accFlt F s [F.b, F.c] g else s.stop (stopOf .illegal)

/-- Executes as the packed S instruction of R120. -/
def execPAddBf16 (p : PArgs) (s : State) : Out :=
  pPacked p 19 s fun _ => on2 fAdd

/-- Executes as the packed S instruction of R120. -/
def execPMulBf16 (p : PArgs) (s : State) : Out :=
  pPacked p 19 s fun _ => on2 fMul

/-- Executes as the packed S instruction of R120. -/
def execPAddF16 (p : PArgs) (s : State) : Out :=
  pPacked p 18 s fun _ => on2 fAdd

/-- Executes as the packed S instruction of R120. -/
def execPMulF16 (p : PArgs) (s : State) : Out :=
  pPacked p 18 s fun _ => on2 fMul

end Sys2Proof.Machine
end

