-- ==== Sys2Proof/Machine/Records.lean ====
section
/-! DEFINITION. Shape records (R208, R209), copy templates and chain tables (R210), job cards (R217), and where elements
lie in rows of memory and of tiles (R48, R58). -/

namespace Sys2Proof.Machine

/-! ### Elements in a row (R48) -/

/-- Bit position and width of element `c` of a row: T6 packs ten to an 8-byte word. -/
def elemAt (f : BitVec 5) (c : Nat) : Nat × Nat :=
  if f == 16 then (64 * (c / 10) + 6 * (c % 10), 6) else (fmtBits f * c, fmtBits f)
/-- Bytes of a row of `n` elements. -/
def rowBytes (f : BitVec 5) (n : Nat) : Nat := if f == 16 then 8 * ((n + 9) / 10) else (fmtBits f * n + 7) / 8
/-- Elements in a row of `b` bytes. -/
def rowElems (f : BitVec 5) (b : Nat) : Nat := if f == 16 then 10 * (b / 8) else 8 * b / max 1 (fmtBits f)
/-- Alignment of an element in memory (R209): 8 bytes for T6, one byte for 4-bit types. -/
def elemAlign (f : BitVec 5) : Nat := if f == 16 then 8 else max 1 (fmtBits f / 8)
/-- Bytes first to last of an element in its row. -/
def elemSpan (f : BitVec 5) (c : Nat) : Nat × Nat :=
  let (p, w) := elemAt f c
  (p / 8, (p + w - 1) / 8)

/-! ### Shape records (R208, R209) -/

structure Rec where
  base    : Nat
  fmt     : BitVec 5
  rank    : Nat
  scaled  : Bool
  clamp   : Nat
  ext     : List Nat
  str     : List Int
  orig0   : Nat
  orig1   : Nat
  sbase   : Nat
  sstride : Nat
deriving DecidableEq, Repr

/-- The fields of a record; extents and strides only below the rank. -/
def recParse (r : Nat) : Rec :=
  let rank := bitsOf r 69 2 + 1
  { base := bitsOf r 0 64, fmt := BitVec.ofNat 5 (bitsOf r 64 5), rank := rank, scaled := bitOf r 71, clamp := bitsOf r 96 32
    ext := (List.range rank).map fun k => bitsOf r (128 + 32 * k) 32
    str := (List.range rank).map fun k => if k = 0 then 0 else toSigned 40 (bitsOf r (216 + 40 * k) 40)
    orig0 := bitsOf r 376 32, orig1 := bitsOf r 408 32, sbase := bitsOf r 440 48 * 16, sstride := bitsOf r 488 24 }

/-- The fields that lie at or above the rank, and the reserved bits, are zero (R208). -/
def recZeros (r : Nat) : Bool :=
  let rank := bitsOf r 69 2 + 1
  bitsOf r 72 24 == 0 && (List.range 4).all fun k =>
    decide (k < rank) || (bitsOf r (128 + 32 * k) 32 == 0 && (k == 0 || bitsOf r (216 + 40 * k) 40 == 0))

/-- The check of a record whose FMT is native (R209). -/
def recOk (r : Nat) : Bool :=
  let x := recParse r
  let a := elemAlign x.fmt
  recZeros r && !fmtIsClass x.fmt && x.base % a == 0 && x.str.all (fun d => d % (a : Int) == 0)
    && x.ext.all (fun e => decide (1 ≤ e ∧ e ≤ 2 ^ 24)) && decide (x.ext.foldl (· * ·) 1 ≤ 2 ^ 32)
    && (!x.scaled || (fmtScalable x.fmt && decide (2 ≤ x.rank) && x.orig0 % 32 == 0 && x.orig1 % 32 == 0))
    && (if fmtIsInt x.fmt then x.clamp == 0 else clampFits x.fmt x.clamp)

/-- A field replaced. -/
def setBits (r lo n v : Nat) : Nat := r - place (bitsOf r lo n) lo + place (v % 2 ^ n) lo

/-- The record with a class FMT resolved to its native code (R211, R275), if it passes its check. -/
def State.recOf (s : State) (r : Nat) : Option Nat :=
  match s.resolve (BitVec.ofNat 5 (bitsOf r 64 5)) with
  | none => none
  | some c =>
    if c.scheme == 2 then none
    else
      let r1 := setBits r 64 5 c.fmt.toNat
      let r2 := if c.scheme == 1 then setBits r1 71 1 1 else r1
      let r3 := if bitsOf r2 96 32 == 0 then setBits r2 96 32 c.clamp else r2
      if recOk r3 then some r3 else none

/-- Byte address of a row: `idx` are its indices in dimensions 1 and up. -/
def Rec.rowAt (x : Rec) (idx : List Nat) : Nat :=
  wrap 64 ((x.base : Int) + ((x.str.drop 1).zip idx).foldl (fun acc p => acc + p.1 * (p.2 : Int)) 0)
/-- Address of the scale byte of element (row, column) of the view (R208). -/
def Rec.scaleAt (x : Rec) (row col : Nat) : Nat :=
  (x.sbase + (x.orig1 + row) / 32 * x.sstride + (x.orig0 + col) / 32) % 2 ^ 64
/-- Base and length of the bytes a view covers. -/
def Rec.span (x : Rec) : Nat × Nat :=
  let ds := (x.str.drop 1).zip (x.ext.drop 1)
  let lo := ds.foldl (fun acc p => acc + min 0 (((p.2 : Int) - 1) * p.1)) (x.base : Int)
  let hi := ds.foldl (fun acc p => acc + max 0 (((p.2 : Int) - 1) * p.1)) (x.base : Int) + rowBytes x.fmt (x.ext.getD 0 1)
  (wrap 64 lo, (hi - lo).toNat)
/-- Base and length of a view's scale bytes. -/
def Rec.scaleSpan (x : Rec) : Nat × Nat :=
  let a := x.scaleAt 0 0
  (a, x.scaleAt (x.ext.getD 1 1 - 1) (x.ext.getD 0 1 - 1) + 1 - a)
/-- The regions of a view, with its scales (R213): base, length, written. -/
def Rec.regions (x : Rec) (wr : Bool) : List (Nat × Nat × Bool) :=
  (x.span.1, x.span.2, wr) :: (if x.scaled then [(x.scaleSpan.1, x.scaleSpan.2, wr)] else [])

/-! ### Copy templates (R210) -/

structure Tpl where
  kind   : Nat
  dfmt   : BitVec 5
  rnd    : BitVec 3
  trans  : Bool
  add    : Bool
  scope  : BitVec 3
  dtile  : Nat
  relayN : Nat
  nonce  : Nat
  dest   : Nat
  stamp  : Nat
  stampV : Nat
deriving DecidableEq, Repr

def tplParse (t : Nat) : Tpl :=
  { kind := bitsOf t 0 2, dfmt := BitVec.ofNat 5 (bitsOf t 2 5), rnd := BitVec.ofNat 3 (bitsOf t 7 3), trans := bitOf t 10
    add := bitOf t 11, scope := BitVec.ofNat 3 (bitsOf t 12 3), dtile := bitsOf t 20 4, relayN := bitsOf t 24 5
    nonce := bitsOf t 32 32, dest := bitsOf t 64 64, stamp := bitsOf t 128 64, stampV := bitsOf t 192 64 }

/-- The check of a template (R210). -/
def tplOk (t : Nat) : Bool :=
  let x := tplParse t
  x.kind != 3 && !fmtIsClass x.dfmt && decide (x.rnd.toNat ≤ 5) && decide (2 ≤ x.scope.toNat ∧ x.scope.toNat ≤ 4)
    && bitsOf t 15 5 == 0 && bitsOf t 29 3 == 0 && bitsOf t 256 256 == 0 && x.stamp % 16 == 0
    && (x.kind != 1 || x.dest == 0) && (x.kind != 2 || decide (1 ≤ x.relayN ∧ x.relayN ≤ 16))

/-- Entry `h` of a chain table (R210): plot, tile, stamp address. -/
def chainPlot (e : BitVec 128) : Nat := (e.extractLsb' 0 32).toNat
def chainTile (e : BitVec 128) : Nat := (e.extractLsb' 32 4).toNat
def chainStamp (e : BitVec 128) : Nat := (e.extractLsb' 64 64).toNat
def chainOk (e : BitVec 128) : Bool := e.extractLsb' 36 28 == 0 && chainStamp e % 16 == 0

/-! ### Job cards (R217) -/

structure Card where
  kind   : Nat
  op     : Nat
  ifmt   : BitVec 5
  res32  : Bool
  scope  : BitVec 3
  add    : Bool
  count  : Nat
  local_ : Nat
  local2 : Nat
  peer   : Nat
  param  : Nat
  seq    : Nat
  stamp  : Nat
  stampV : Nat
deriving DecidableEq, Repr

def cardParse (c : Nat) : Card :=
  { kind := bitsOf c 0 4, op := bitsOf c 4 4, ifmt := BitVec.ofNat 5 (bitsOf c 8 5), res32 := bitOf c 13
    scope := BitVec.ofNat 3 (bitsOf c 14 3), add := bitOf c 17, count := bitsOf c 32 32, local_ := bitsOf c 64 64
    local2 := bitsOf c 128 64, peer := bitsOf c 192 64, param := bitsOf c 256 64, seq := bitsOf c 320 64
    stamp := bitsOf c 384 64, stampV := bitsOf c 448 64 }

def Card.n (c : Card) : Nat := c.param % 2 ^ 32
def Card.rank (c : Card) : Nat := c.param / 2 ^ 32

/-- The conditions of a card for an opcode (R217). -/
def cardOk (kind c : Nat) : Bool :=
  let x := cardParse c
  x.kind == kind && decide (2 ≤ x.scope.toNat ∧ x.scope.toNat ≤ 4) && bitsOf c 18 14 == 0 && decide (1 ≤ x.count) && x.stamp % 16 == 0
    && (if kind = 1 then
          decide (x.op ≤ 3) && [20, 26, 27, 28, 29].contains x.ifmt.toNat && (!x.res32 || x.ifmt == 20)
            && decide (2 ≤ x.n ∧ x.n ≤ 65536) && decide (x.rank < x.n)
        else
          decide (x.op ≤ 1) && x.ifmt == 0 && !x.res32 && x.local2 == 0 && decide (x.peer < 2 ^ 32) && (kind != 3 || x.seq == 0))

/-- Elements of a collective's source and destination, in chunks (R218). -/
def Card.chunksIn (c : Card) : Nat := match c.op with | 0 | 2 => c.n | _ => 1
def Card.chunksOut (c : Card) : Nat := match c.op with | 1 | 2 => c.n | _ => 1
/-- The format of a collective's destination: BF16 for an FP32 reduction without RES32 (R84). -/
def Card.outFmt (c : Card) : BitVec 5 := if c.ifmt == 20 && (c.op == 0 || c.op == 2) && !c.res32 then 19 else c.ifmt

def Card.inBytes (c : Card) : Nat := c.chunksIn * c.count * (fmtBits c.ifmt / 8)
def Card.outBytes (c : Card) : Nat := c.chunksOut * c.count * (fmtBits c.outFmt / 8)

/-- The regions of a card (R217): base, length, written. -/
def Card.regions (c : Card) : List (Nat × Nat × Bool) :=
  match c.kind with
  | 1 => [(c.local_, c.inBytes, false), (c.local2, c.outBytes, true), (c.peer, 4 * c.n, false)]
  | 2 => [(c.local_, c.count, false)]
  | _ => [(c.local_, c.count, true)]

/-! ### Tiles (R58) -/

def tileFmt (t : Tile) : BitVec 5 := t.ctl.extractLsb' 0 5
def tileRows (t : Tile) : Nat := (t.ctl.extractLsb' 5 7).toNat + 1
def tileScaled (t : Tile) : Bool := t.ctl.getLsbD 20
def tileValid (t : Tile) : Bool := t.ctl.getLsbD 21
/-- Columns of a tile row. -/
def tileCols (t : Tile) : Nat := rowElems (tileFmt t) (tileRowBytes t)

/-- `n` bytes of a tile as a number. -/
def Tile.readN (t : Tile) (a : Nat) : Nat → Nat
  | 0 => 0
  | n + 1 => (sget (0 : Byte) t.bytes a).toNat + 256 * t.readN (a + 1) n
def Tile.writeN (t : Tile) (a : Nat) : Nat → Nat → Tile
  | 0, _ => t
  | n + 1, v => ({ t with bytes := sset (0 : Byte) t.bytes a (BitVec.ofNat 8 v) } : Tile).writeN (a + 1) n (v / 256)
/-- A row of a tile as a number. -/
def Tile.row (t : Tile) (r : Nat) : Nat := t.readN (r * tileRowBytes t) (tileRowBytes t)
def Tile.setRow (t : Tile) (r v : Nat) : Tile := t.writeN (r * tileRowBytes t) (tileRowBytes t) v
/-- The bits of an element in a row given as a number. -/
def elemBits (f : BitVec 5) (row c : Nat) : Nat := bitsOf row (elemAt f c).1 (elemAt f c).2
def setElem (f : BitVec 5) (row c v : Nat) : Nat := setBits row (elemAt f c).1 (elemAt f c).2 v
/-- A block scale of a tile. -/
def Tile.scale (t : Tile) (i j : Nat) : Nat := (sget (0x7F : Byte) t.scales (16 * i + j)).toNat
def Tile.setScale (t : Tile) (i j v : Nat) : Tile := { t with scales := sset (0x7F : Byte) t.scales (16 * i + j) (BitVec.ofNat 8 v) }

/-- A decoded element times its block scale (R78). -/
def scaleNum (x : Num) (e : Nat) : Num := if e = 255 then canonNaN else x.scale ((e : Int) - 127)

/-- A tile of the plot in the issue stage. -/
def State.tile (s : State) (k : Nat) : Option Tile := s.plot.tiles[k]?
def State.setTile (s : State) (k : Nat) (t : Tile) : State := s.setPlot { s.plot with tiles := setAt s.plot.tiles k t }

end Sys2Proof.Machine
end

