-- ==== Sys2Proof/Machine/Engine.lean ====
section
/-! DEFINITION. Issue of engine jobs: shape records and templates (R211), copies and the copy aperture (R212, R213),
collectives and network operations (R217, R220). -/

namespace Sys2Proof.Machine

/-! ### Uniform addresses -/

/-- `ADDR`, then `ALIGN`, over several uniform addresses of `n` bytes (R192). -/
def rangeStop (n : Nat) (l : List (Nat × Nat)) : Option Stop :=
  let bad := l.filter fun p => decide (aperture < p.2 + n)
  let mis := l.filter fun p => p.2 % n != 0
  let fault := fun (c : Cause) (b : List (Nat × Nat)) (a : Nat) =>
    Stop.fault { cause := c, lanes := lanesMask (b.map (·.1)), addr := BitVec.ofNat 64 a }
  match bad, mis with
  | p :: _, _ => some (fault .addr bad p.2)
  | [], p :: _ => some (fault .align mis p.2)
  | [], [] => none

/-- A stop as a failure. -/
def orThrow (o : Option Stop) : Except Stop Unit :=
  match o with
  | some st => .error st
  | none => .ok ()

/-- A precise fault at an address. -/
def faultAt (c : Cause) (a : Nat) : Stop := .fault { cause := c, addr := BitVec.ofNat 64 a }

/-- The first byte of each page that `n` bytes from an address reach. -/
def pageStarts (va n : Nat) : List Nat :=
  va :: (List.range ((va + n - 1) / pageSize - va / pageSize)).map fun i => (va / pageSize + i + 1) * pageSize

/-- `ADDR` and translation of a range of any length (R192). -/
def State.spanStop (s : State) (acc : Access) (lane va n : Nat) : Option Stop :=
  (rangeStop 1 [(lane, va), (lane, va + n - 1)]).or (s.accessStop acc 1 1 ((pageStarts va n).map fun a => (lane, a)))

/-- All sectors that reads of `n` bytes take below the silo. -/
def State.allSectors (s : State) (n : Nat) (l : List (Nat × Nat)) : List Nat :=
  l.foldl (fun acc p => (s.readSectors p.2 n).foldl (fun acc sec => insertNat sec acc) acc) []

/-- What reading does: a plain read fills the caches (R90), an acquire uses the records of its check (R98), drops copies and
refreshes (R95); poisoned sectors are noted (R333). -/
def State.afterRead (s : State) (acq : Bool) (sc : BitVec 3) (secs : List Nat) : State :=
  let bad := secs.filter fun sec => (if acq then s.memSector sec else s.snapSector sec).2
  let s1 := s.notePoison bad
  if acq then ((secs.foldl (fun t sec => t.useRecord (64 * sec)) s1).dropCopies secs).refresh sc else s1.fillAll secs

/-- `n` bytes through the plot's view, with the sectors that they are read from; poison in them is consumed at a control point
(R213, R38). -/
def State.fetchView (s : State) (lane va n : Nat) : Except Stop (Nat × List Nat) := do
  orThrow (s.spanStop .load lane va n)
  let v := s.view false va n
  if v.p then .error (.rollbackAt (s.readSectors va n)) else .ok (v.v, s.readSectors va n)

/-! ### Shape records and templates (R211) -/

/-- The lanes of a uniform address pair. -/
def State.uniAt (s : State) (act : Mask) (o : Operand) : Nat × Nat := (s.uniLane act, (s.uni act o).v)

/-- A line shared with another plot (R38): another plot of the module holds stores to it, or was the last to release it (the
model's reading, log entry 77). -/
def State.lineShared (s : State) (pa : Nat) : Bool :=
  (s.plots.any fun p => p.entries.any fun e => e.sector / 2 == pa / 128)
    || s.checker.any fun r => r.line == pa / 128 && r.ptag != s.plot.tag

/-- Reads a draft, and what else an instruction reads, through the caches (R90) and stores what it gives at an address, as a plain store of the plot's view
(R211, R92, R38). -/
def State.storeDraft (s : State) (chk : Option Stop) (reads : List (Nat × Nat)) (at_ v : Nat) (p : Bool) : Out :=
  match chk.or (rollIf (p && (s.pa .store at_).any s.lineShared)) with
  | some st => s.stop st
  | none => answer s do
    let t ← (s.afterRead false 0 (s.allSectors 64 reads)).putRoom false (at_, 64, v, p)
    return t.advance

/-- Checks a draft and stores the record (R211). -/
def execShape (f : Args) (s : State) : Out :=
  let act := s.active f.guard
  let a := s.uniAt act f.a
  let b := s.uniAt act f.b
  let d := s.view false b.2 64
  let chk := (s.namesStop [f.a, f.b]).or <| (rollIf ((s.uni act f.a).p || (s.uni act f.b).p)).or <| (rangeStop 64 [a, b]).or <|
    (s.accessStop .load 64 64 [b]).or <| (s.accessStop .store 64 64 [a]).or <|
    (if (s.recOf d.v).isNone then some (faultAt .shapefmt b.2) else none)
  s.storeDraft chk [b] a.2 ((s.recOf d.v).getD 0) d.p

/-- Entries of the job's template table. -/
def Job.templates (j : Job) : Nat := j.ctableN.toNat + 1
/-- Address of a template (R210). -/
def Job.templateAt (j : Job) (k : Nat) : Nat := j.ctableVa.toNat + 64 * k

/-- The check of a template draft, with its DEST record where KIND is 0 (R211). -/
def State.draftStop (s : State) (lane at_ d : Nat) : Option Stop :=
  let x := tplParse d
  if !tplOk d || (x.kind == 0 && x.dest % 64 != 0) then some (faultAt .shapefmt at_)
  else if x.kind == 0 then
    (s.accessStop .load 64 64 [(lane, x.dest)]).or
      (if (s.recOf (s.view false x.dest 64).v).isNone then some (faultAt .shapefmt x.dest) else none)
  else none

/-- Checks a draft and stores it as template k (R211). -/
def execTrec (f : Args) (s : State) : Out :=
  let act := s.active f.guard
  let b := s.uniAt act f.b
  let k := s.uniN 16 act f.a
  let at_ := s.job.templateAt k.v
  let d := s.view false b.2 64
  let chk := (s.namesStop [f.a, f.b]).or <| (rollIf (k.p || (s.uni act f.b).p)).or <|
    (s.accessStop .load 64 64 [b]).or <|
    (if s.job.templates ≤ k.v then some (faultAt .shapefmt b.2) else none).or <|
    (s.draftStop b.1 b.2 d.v).or (s.accessStop .store 64 64 [(b.1, at_)])
  let x := tplParse d.v
  s.storeDraft chk (b :: if x.kind == 0 then [(b.1, x.dest)] else []) at_ d.v d.p

/-! ### Issue of a job (R102, R103, R213, R220) -/

/-- Whether two lists of regions meet in a byte that one of them writes (R102). -/
def regionsMeet (a b : List (Nat × Nat × Bool)) : Bool :=
  a.any fun x => b.any fun y => (x.2.2 || y.2.2) && decide (x.1 < y.1 + y.2.1 ∧ y.1 < x.1 + x.2.1)

/-- Whether a stored entry lies in one of a job's regions (R103). -/
def EJob.overlaps (e : EJob) (x : SiloEntry) : Bool := e.regions.any fun r => x.meets r.1 r.2.1

/-- Copies share the core's channels; network and collective jobs have none. -/
def JKind.isCopy : JKind → Bool
  | .copy | .relay => true
  | _ => false

/-- A job cannot issue yet: its channel holds four, its core's scheduler 256, or a job in flight holds back an entry that the
issue would commit (R103, R213). -/
def State.issueStop (s : State) (e : EJob) : Option Stop :=
  let mine := s.ejobs.filter (·.core = e.core)
  stallIf (decide (256 ≤ mine.length)
    || (e.kind.isCopy && decide (4 ≤ (mine.filter fun x => x.kind.isCopy && x.chan = e.chan).length))
    || (s.plot.taken e.overlaps).any (s.entryHeld s.plot.id))

/-- Issues a job: the plot's overlapping entries commit first (R103). -/
def State.issueJob (s : State) (e : EJob) : State :=
  let s1 := s.commitWhere e.overlaps
  { s1 with ejobs := s1.ejobs ++ [{ e with id := s1.nextId }], nextId := s1.nextId + 1 }

/-- A job of the furrow in the issue stage. -/
def State.newJob (s : State) (kind : JKind) (chan : Nat) (card src dst : Nat) (regions : List (Nat × Nat × Bool)) : EJob :=
  { id := 0, kind := kind, plot := s.plot.id, launch := s.launch.id, job := s.job.id, core := s.plot.core, fur := s.fur.id
    pc := s.split.pc, off := s.codeOffset, chan := chan
    issuers := BitVec.ofNat 32 (2 ^ s.fur.logical.toNat), before := BitVec.ofNat 32 (2 ^ s.fur.logical.toNat)
    card := BitVec.ofNat 512 card, src := BitVec.ofNat 512 src
    dst := BitVec.ofNat 512 dst, regions := regions.filter fun r => r.2.1 != 0 }

/-- The extents of a copy's destination: the source's, swapped where it transposes (R213). -/
def destExt (t : Tpl) (x : Rec) : List Nat := if t.trans then x.ext.reverse else x.ext

/-- What KIND 1 asks of a tile (R213). -/
def tileFits (t : Tpl) (x : Rec) (tile : Option Tile) : Bool :=
  match tile with
  | none => false
  | some u =>
    tileValid u && x.rank == 2 && tileFmt u == t.dfmt && tileRows u == (destExt t x).getD 1 0
      && tileRowBytes u == rowBytes t.dfmt ((destExt t x).getD 0 0)

/-- The checks of a copy at issue, and the job they let through (R213). `cpym`: which KIND the opcode takes; an aperture
store takes either. -/
def State.copyJob (s : State) (lane : Nat) (cpym : Option Bool) (ch k rva : Nat) : Except Stop (EJob × List Nat) := do
  orThrow (if s.job.templates ≤ k then some (faultAt .copyflt rva) else none)
  let (tw, s1) ← s.fetchView lane (s.job.templateAt k) 64
  let t := tplParse tw
  let kindOk := match cpym with | some true => t.kind == 2 | some false => t.kind != 2 | none => true
  orThrow (if !tplOk tw || !kindOk || rva % 64 != 0 then some (faultAt .copyflt rva) else none)
  let (sw, s2) ← s.fetchView lane rva 64
  let r ← (match s.recOf sw with | some r => .ok r | none => .error (faultAt .copyflt rva))
  let x := recParse r
  let elems := x.ext.foldl (· * ·) 1
  orThrow (if (t.trans && x.rank != 2) || (t.rnd == 5 && decide (2 ^ 21 < elems)) then some (faultAt .copyflt rva) else none)
  match t.kind with
  | 0 =>
    orThrow (if t.dest % 64 != 0 then some (faultAt .copyflt t.dest) else none)
    let (dw, s3) ← s.fetchView lane t.dest 64
    let d ← (match s.recOf dw with | some d => .ok d | none => .error (faultAt .copyflt t.dest))
    let y := recParse d
    orThrow (if y.fmt != t.dfmt || y.ext != destExt t x then some (faultAt .copyflt rva) else none)
    return (s.newJob .copy ch tw r d ((x.regions false) ++ y.regions true), s1 ++ s2 ++ s3)
  | 1 =>
    orThrow (if tileFits t x (s.tile t.dtile) then none else some (faultAt .copyflt rva))
    return (s.newJob .copy ch tw r 0 (x.regions false), s1 ++ s2)
  | _ =>
    let (cw, s3) ← s.fetchView lane t.dest (16 * t.relayN)
    let chain := (List.range t.relayN).map fun h => BitVec.ofNat 128 (bitsOf cw (128 * h) 128)
    orThrow (if chain.all chainOk then none else some (faultAt .copyflt t.dest))
    return ({ s.newJob .relay ch tw r 0 (x.regions false) with chain := chain }, s1 ++ s2 ++ s3)

/-- Starts a copy on a channel, or says what stops it. -/
def State.startCopy (s : State) (lane : Nat) (cpym : Option Bool) (ch k rva : Nat) : Except Stop State := do
  let (e, secs) ← s.copyJob lane cpym ch k rva
  orThrow (s.issueStop e)
  return (s.fillAll secs).issueJob e

/-- Whether a job acts outside its plot so that a relaunch must not issue it again: a copy into the plot's own tile is issued
again, and so is a collective, whose second contribution the engine discards (R38, R40). -/
def EJob.once (e : EJob) : Bool :=
  match e.kind with
  | .copy => (tplParse e.card.toNat).kind != 1
  | .coll => false
  | _ => true

/-- Whether the step from `s` to `t` has issued a job that a relaunch must not repeat. -/
def State.issuedOnce (s t : State) : Bool := t.ejobs.any fun e => decide (s.nextId ≤ e.id) && e.once

/-- The end of an instruction that has issued jobs, its checkpoint taken in `s` (R38, R40, R220). -/
def State.issuedFrom (s t : State) : State := if s.issuedOnce t then t.afterEffect else t.advance

/-- A channel of the plot. -/
def State.setChan (s : State) (ch : Nat) (g : Channel → Channel) : State := s.setPlot { s.plot with chans := modAt g s.plot.chans ch }

/-- A copy from the scalar side (R212, R220): the channel's latched index is the template's, and its valid bit is clear
once the copy has started. -/
def copyOp (cpym : Bool) (f : Args) (s : State) : Out :=
  let act := s.active f.guard
  let ch := (f.a.rawBits).toNat % 16
  let i := (f.b.rawBits).toNat % 64
  let r := (f.c.rawBits).toNat % 64
  if act = 0 then .next s.advance
  else answer s do
    orThrow (rollIf (s.xp i || s.xp r))
    let (e, secs) ← s.copyJob ((lowest act).getD 0) (some cpym) ch (s.x i).toNat (s.x r).toNat
    orThrow ((s.issueStop e).or (stallIf s.checkBlocked))
    let s1 := (s.fillAll secs).beforeEffect
    return s1.issuedFrom ((s1.issueJob e).setChan ch fun _ => { index := s.x i })

/-- Starts a memory or tile copy (R212). -/
def execCpy (f : Args) (s : State) : Out := copyOp false f s
/-- Starts a relay chain (R212). -/
def execCpym (f : Args) (s : State) : Out := copyOp true f s

/-! ### The copy aperture (R212) -/

/-- An access that lies within the 256 bytes of the channels. -/
def inChannels (va n : Nat) : Bool := decide (aperture ≤ va ∧ va + n ≤ aperture + 256)

/-- A store of bytes `o` to `o + n − 1` of one channel: bytes 0 to 7 latch the index, bytes 8 to 15 the address; the store
that completes those starts the copy. -/
def State.channelStore (s : State) (lane ch o n v : Nat) : Except Stop State :=
  let low := min (o + n) 8
  let idx := if o < 8 then setBits (((s.plot.chans.getD ch {}).index).toNat) (8 * o) (8 * (low - o)) v else ((s.plot.chans.getD ch {}).index).toNat
  let ho := max o 8 - 8
  let hn := o + n - max o 8
  let hv := v / 2 ^ (8 * (max o 8 - o))
  let c : Channel := s.plot.chans.getD ch {}
  let c1 : Channel := if o < 8 then { c with index := BitVec.ofNat 64 idx, valid := true } else c
  let c2 : Channel := if 8 < o + n then
      { c1 with
        addr := BitVec.ofNat 64 (setBits c1.addr.toNat (8 * ho) (8 * hn) hv)
        got := c1.got ||| BitVec.ofNat 8 (2 ^ (ho + hn) - 2 ^ ho) }
    else c1
  let s1 := s.setChan ch fun _ => c2
  if c2.got == 0xFF then
    if !c2.valid then .error (.fault { cause := .copyflt, lanes := BitVec.ofNat 32 (2 ^ lane), addr := c2.addr })
    else do
      let t ← s1.startCopy lane none ch c2.index.toNat c2.addr.toNat
      return t.setChan ch fun _ => { index := c2.index }
  else .ok s1

/-- A store into the aperture, which may cross from one channel to the next. -/
def State.apertureStore (s : State) (lane va n v : Nat) : Except Stop State :=
  let off := va - aperture
  let n1 := min n (16 - off % 16)
  if n1 < n then do
    let s1 ← s.channelStore lane (off / 16) (off % 16) n1 v
    s1.channelStore lane (off / 16 + 1) 0 (n - n1) (v / 2 ^ (8 * n1))
  else s.channelStore lane (off / 16) (off % 16) n1 v

/-- A store of eight bytes into a channel by the furrow in the issue stage, as an engine issue: the region ends and a checkpoint
stands before it, and one that starts a copy outside the plot is not repeated (R212, R220). -/
def State.channelEvent (s : State) (ch o v : Nat) : Out :=
  if s.fur.id = 0 then .next s
  else answer s do
    orThrow (stallIf s.checkBlocked)
    let s1 := s.beforeEffect
    let t ← s1.channelStore 0 ch o 8 v
    return if s1.issuedOnce t then t.noteFur t.fur else t

/-- A store to bytes 0 to 7 of a channel by the furrow in the issue stage. -/
def execCopyApertureIndexStore (s : State) : Out :=
  match s.input with
  | .copyApertureIndexStore ch v => s.channelEvent ch.toNat 0 v.toNat
  | _ => .next s

/-- A store to bytes 8 to 15 of a channel by the furrow in the issue stage: it starts the copy. -/
def execCopyApertureStartStore (s : State) : Out :=
  match s.input with
  | .copyApertureStartStore ch v => s.channelEvent ch.toNat 8 v.toNat
  | _ => .next s

/-! ### Collectives and network operations (R217, R220) -/

/-- Issues a job card (R217): read at issue through the plot's view, with a collective's rank table. -/
def cardOp (kind : Nat) (jk : JKind) (f : Args) (s : State) : Out :=
  let act := s.active f.guard
  let b := s.uniAt act f.b
  if act = 0 then .next s.advance
  else answer s do
    orThrow (s.namesStop [f.b])
    orThrow (rollIf (s.uni act f.b).p)
    orThrow (s.accessStop .load 64 64 [b])
    let (cw, s1) ← s.fetchView b.1 b.2 64
    let c := cardParse cw
    orThrow (if cardOk kind cw then none else some (faultAt .copyflt b.2))
    let (table, s2) ← (if kind = 1 then s.fetchView b.1 c.peer (4 * c.n) else .ok (0, []))
    orThrow (if (List.range c.n).all (fun r => kind != 1 || bitsOf table (32 * r + 16) 16 == 0) then none else some (faultAt .copyflt b.2))
    let e := s.newJob jk 0 cw 0 0 c.regions
    orThrow ((s.issueStop e).or (stallIf s.checkBlocked))
    let t := (s.fillAll (s1 ++ s2)).beforeEffect
    return t.issuedFrom (t.issueJob e)

/-- Issues a collective (R218). -/
def execColl (f : Args) (s : State) : Out := cardOp 1 .coll f s
/-- Issues a network write (R219). -/
def execNwr (f : Args) (s : State) : Out := cardOp 2 .nwr f s
/-- Issues a network read (R219). -/
def execNrd (f : Args) (s : State) : Out := cardOp 3 .nrd f s

end Sys2Proof.Machine
end

