-- ==== Sys2Proof/Machine/Memory.lean ====
section
/-! DEFINITION. Loads and stores (R190 to R198), phases, fences and discard (R199, R200), spill and fill (R201). -/

namespace Sys2Proof

/-- `.ua`: the UA bit of a W frame, the mod bit of an S frame (R194). -/
def Args.unaligned (f : Args) : Bool := if f.wide then f.ua else f.ext
/-- An acquire, with its scope: `.acq` at furrow scope adds nothing to program order (R95). -/
def Args.acquires (f : Args) : Bool := f.ord.getLsbD 1 && decide (1 ≤ f.scope.toNat)
/-- A release (R94). -/
def Args.releases (f : Args) : Bool := f.ord.getLsbD 0
/-- A release performed at a home slice: die scope or wider (R94). -/
def Args.homeRelease (f : Args) : Bool := f.releases && decide (2 ≤ f.scope.toNat)

end Sys2Proof

namespace Sys2Proof.Machine

/-! ### Addresses (R190) -/

/-- The offset: sign-extended, or zero-extended with the W form's EXT bit. -/
def State.offset (s : State) (f : Args) (i : Nat) : Src :=
  let zx := f.wide && f.ext
  match f.c with
  | .none => ⟨0, false⟩
  | .imm v => ⟨if zx then v.toNat else wrap 64 v.toInt, false⟩
  | o => s.src (!zx) 64 o i

/-- The effective address of a lane. -/
def State.ea (s : State) (f : Args) (i : Nat) : Src :=
  let b := s.src false 64 f.b i
  let o := s.offset f i
  ⟨(b.v + o.v) % 2 ^ 64, b.p || o.p⟩

/-- The addresses of the active lanes. -/
def laneAddrs (act : Mask) (a : Nat → Src) : List (Nat × Nat) := (lanesOf act).map fun i => (i, (a i).v)

/-- Poison in an address of an active lane is consumed at a control point (R38). -/
def addrPoison (act : Mask) (a : Nat → Src) : Option Stop := rollIf (lanesWhere act (fun i => (a i).p) != 0)

/-- The access size in bytes of a load or store (R191). -/
def State.accessBytes (s : State) (f : Args) (o : Operand) : Nat := accessBits (f.withFmt (s.fmtOf accAll f)) o / 8

/-! ### Reads (R91, R95, R99) -/

/-- The lanes whose acquire fails the check at a line that it reads at home (R99). -/
def State.scopeBad (s : State) (sc : BitVec 3) (n : Nat) (l : List (Nat × Nat)) : List (Nat × Nat) :=
  l.filter fun p => (s.readSectors p.2 n).any fun sec => !s.scopeOk sc (64 * sec)

def State.scopeStop (s : State) (sc : BitVec 3) (n : Nat) (l : List (Nat × Nat)) : Option Stop :=
  match s.scopeBad sc n l with
  | [] => none
  | p :: rest => some (.fault { cause := .scope, lanes := lanesMask ((p :: rest).map (·.1)), addr := BitVec.ofNat 64 p.2 })

/-- A value on its way to a register (R51): delivered before the furrow's next instruction (R44). -/
def State.pushRet (s : State) (atomic : Bool) (d : RetData) : State :=
  { s with
    rets := s.rets ++ [{ id := s.nextId, fur := s.fur.id, core := s.plot.core, ctx := s.fur.ctx, gen := s.fur.gen, atomic := atomic, data := d
                         at_ := s.cycles }]
    nextId := s.nextId + 1 }

/-- The values of the active lanes, lane by lane. -/
def retVals (act : Mask) (g : Nat → Src) : List (Option (Word × Bool)) :=
  (List.range 32).map fun i => if act.getLsbD i then some (BitVec.ofNat 64 (g i).v, (g i).p) else none

/-- The stops of a load or a gather: names, poisoned addresses, the checks of R192, the check of an acquire. -/
def State.readStop (s : State) (f : Args) (n al : Nat) (l : List (Nat × Nat)) : Option Stop :=
  (s.accessStop .load n al l).or (if f.acquires then s.scopeStop f.scope n l else none)

/-- Whether a memory instruction's format is a signed integer type, whose values extend by their sign (R46, R53). -/
def State.memSx (s : State) (f : Args) : Bool := let n := s.fmtOf accAll f; fmtIsInt n && fmtSigned n

/-- Loads bytes per lane (R195). -/
def execLd (f : Args) (s : State) : Out :=
  let act := s.active f.guard
  let n := s.accessBytes f f.a
  let a := s.ea f
  let l := laneAddrs act a
  let chk := (s.fltStop accAll memOk f).or <| (addrPoison act a).or (s.readStop f n (if f.unaligned then 1 else n) l)
  let vals := retVals act fun i => s.view f.acquires (a i).v n
  guarded chk s
    ((s.afterRead f.acquires f.scope (s.allSectors n l)).pushRet false (.value f.a (s.memSx f) (8 * n) vals)).advance

/-! ### Writes (R91, R94, R196) -/

/-- One store of an instruction: lane, address, data, poison. -/
structure LaneStore where
  lane : Nat
  va   : Nat
  v    : Nat
  p    : Bool
deriving DecidableEq, Repr

/-- `ADDR`, `ALIGN` and translation of stores of `n` bytes: the channels of the copy aperture have no page (R192, R212). -/
def State.storeStop (s : State) (n al : Nat) (l : List LaneStore) : Option Stop :=
  let all := l.map fun x => (x.lane, x.va)
  let plain := all.filter fun p => !inChannels p.2 n
  match plain.filter (fun p => decide (aperture < p.2 + n)), all.filter fun p => p.2 % al != 0 with
  | [], p :: rest => some (.fault { cause := .align, lanes := lanesMask ((p :: rest).map (·.1)), addr := BitVec.ofNat 64 p.2 })
  | _, _ => s.accessStop .store n al plain

/-- A store meets a region of a job in flight, so that it could not be performed at home yet (R103). -/
def State.storeHeld (s : State) (n : Nat) (l : List LaneStore) : Bool :=
  l.any fun x => ((s.flying s.plot.id).any fun j => j.regions.any (regionHits x.va n)) ||
    (s.plotOps s.plot.id).any fun o => o.regions.any (regionHits x.va n)

/-- One ordinary store, or one into the aperture. -/
def State.storeOne (f : Args) (n : Nat) (s : State) (x : LaneStore) : Except Stop State :=
  if inChannels x.va n then s.apertureStore x.lane x.va n x.v
  else if f.homeRelease then
    let pa := (s.pa .store x.va).getD 0
    let next := (s.pa .store (x.va + (64 - pa % 64))).getD 0
    let last := (s.pa .store (x.va + n - 1)).getD 0
    let t := s.writeHome s.plot.core s.plot.die pa next n x.v x.p
    .ok ((t.addRecord (t.recordOf f.scope pa)).addRecord (t.recordOf f.scope last))
  else s.putRoom (f.releases && f.scope == 1) (x.va, n, x.v, x.p)

/-- Performs the stores of an instruction in order, lanes ascending. -/
def State.storeAll (f : Args) (n : Nat) : State → List LaneStore → Except Stop State
  | s, [] => .ok s
  | s, x :: rest =>
    match s.storeOne f n x with
    | .error st => .error st
    | .ok t => t.storeAll f n rest

/-- Poisoned data stored to a shared line is consumed at a control point (R38). -/
def State.sharedPoison (s : State) (n : Nat) (l : List LaneStore) : Bool :=
  l.any fun x => x.p && !inChannels x.va n && ((s.pa .store x.va).any s.lineShared || (s.pa .store (x.va + n - 1)).any s.lineShared)

/-- A store instruction's stores, after the boundary of a release (R94). -/
def State.storesOf (s : State) (f : Args) (n : Nat) (l : List LaneStore) : Except Stop State :=
  (if f.releases then s.boundary f.scope else s).storeAll f n l

/-- A store instruction after its own decode and address checks (R191, R192, R94, R212). A home release and an aperture store
act outside the plot: a checkpoint stands before them (R38), and one that starts a copy is issued again by a relaunch (R40);
an entry for which the held-store area has no room finds it by `putRoom` (R92). -/
def storeOp (chk : Option Stop) (f : Args) (n al : Nat) (l : List LaneStore) (s : State) : Out :=
  let chan := l.any fun x => inChannels x.va n
  let outside := f.homeRelease || chan
  let chk := chk.or <| (rollIf (l.any fun x => inChannels x.va n && x.p)).or <| (s.storeStop n al l).or <|
    (rollIf (s.sharedPoison n l)).or <|
    stallIf ((f.homeRelease && s.storeHeld n l) || (outside && s.checkBlocked))
  match chk with
  | some st => s.stop st
  | none =>
    answer s do
      let s1 := if outside then s.beforeEffect else if f.releases then s.endRegion else s
      let t ← s1.storesOf f n l
      return if f.homeRelease then t.afterEffect else s1.issuedFrom t

/-- Stores bytes per lane (R196). -/
def execSt (f : Args) (s : State) : Out :=
  let act := s.active f.guard
  let n := s.accessBytes f f.a
  let a := s.ea f
  let l := (lanesOf act).map fun i => let d := s.src (s.memSx f) (8 * n) f.a i; ({ lane := i, va := (a i).v, v := d.v, p := d.p } : LaneStore)
  storeOp ((s.fltStop accAll memOk f).or (addrPoison act a)) f n (if f.unaligned then 1 else n) l s

/-! ### Gather and scatter (R197) -/

/-- Element count and index width of a gather or scatter. -/
def State.shapeOf (s : State) (f : Args) : Nat × Nat := (gathShape (fmtBits (s.fmtOf accAll f)) f.a f.c).getD (1, 64)
/-- Element size in bytes. -/
def State.elemBytes (s : State) (f : Args) : Nat := fmtBits (s.fmtOf accAll f) / 8

/-- Address of element `j` of a lane: the index is unsigned, or signed with the modifier. -/
def State.elemAddr (s : State) (f : Args) (i j : Nat) : Nat :=
  let (n, ei) := s.shapeOf f
  let k := bitsOf (s.src false (n * ei) f.c i).v (ei * j) ei
  wrap 64 ((s.src false 64 f.b i).v + (if f.ext then toSigned ei k else (k : Int)) * (s.elemBytes f : Nat))

/-- Poison of a lane's base or index. -/
def State.elemPoison (s : State) (f : Args) (act : Mask) : Option Stop :=
  let (n, ei) := s.shapeOf f
  addrPoison act fun i => ⟨0, (s.src false 64 f.b i).p || (s.src false (n * ei) f.c i).p⟩

/-- The elements of the active lanes: lane, element, address; lanes ascending, elements ascending. -/
def State.elems (s : State) (f : Args) (act : Mask) : List (Nat × Nat × Nat) :=
  (lanesOf act).flatMap fun i => (List.range (s.shapeOf f).1).map fun j => (i, j, s.elemAddr f i j)

/-- Gathers elements per lane (R197). -/
def execGath (f : Args) (s : State) : Out :=
  let act := s.active f.guard
  let b := s.elemBytes f
  let l := (s.elems f act).map fun e => (e.1, e.2.2)
  let n := (s.shapeOf f).1
  let chk := (s.fltStop accAll gathOk f).or <| (s.elemPoison f act).or (s.readStop f b (if f.wide && f.ua then 1 else b) l)
  let vals := retVals act fun i =>
    (List.range n).foldl (fun (acc : Src) j => let v := s.view f.acquires (s.elemAddr f i j) b; ⟨acc.v + v.v * 2 ^ (8 * b * j), acc.p || v.p⟩) ⟨0, false⟩
  guarded chk s
    ((s.afterRead f.acquires f.scope (s.allSectors b l)).pushRet false (.value f.a (s.memSx f) (8 * b * n) vals)).advance

/-- Scatters elements per lane as stores (R197): a later element overwrites an earlier one. -/
def execScat (f : Args) (s : State) : Out :=
  let act := s.active f.guard
  let b := s.elemBytes f
  let n := (s.shapeOf f).1
  let l := (s.elems f act).map fun e =>
    let d := s.src (s.memSx f) (8 * b * n) f.a e.1
    ({ lane := e.1, va := e.2.2, v := bitsOf d.v (8 * b * e.2.1) (8 * b), p := d.p } : LaneStore)
  storeOp ((s.fltStop accAll gathOk f).or (s.elemPoison f act)) f b (if f.wide && f.ua then 1 else b) l s

/-! ### Prefetch (R198) -/

/-- Fills L1 with the lines of the active lanes' addresses; it never faults, and an address that would is ignored, a
misaligned one without `.ua` among them. A poisoned address is ignored too, although an address is a control point (R38): R198
lets `PREF` change nothing that a program can see (the model's choice, log entry 83). -/
def execPref (f : Args) (s : State) : Out :=
  let act := s.active f.guard
  let a := s.ea f
  let n := max 1 (fmtBits (s.fmtOf accAll f) / 8)
  let secs := (lanesOf act).flatMap fun i =>
    if (a i).p || decide (aperture < (a i).v + n) || (!f.unaligned && (a i).v % n != 0) then []
    else match s.pa .load (a i).v, s.pa .load ((a i).v + n - 1) with
      | some x, some y => [x / 64, y / 64]
      | _, _ => []
  .next (s.fillAll secs).advance

/-! ### Phases and fences (R199) -/

/-- A boundary wider than plot scope of a sampled plot is a commit point, with its implicit checkpoint (R39). -/
def State.agrees (s : State) (sc : BitVec 3) : Bool := s.plot.sampled && decide (2 ≤ sc.toNat)

/-- A boundary must wait. -/
def State.phaseBlocked (s : State) (sc : BitVec 3) : Bool := s.boundaryBlocked sc || (s.agrees sc && s.checkBlocked)

/-- What follows a boundary: the region ends, and at a commit point of a sampled plot a checkpoint stands past the instruction. -/
def State.phaseDone (s : State) (sc : BitVec 3) : State := if s.agrees sc then s.beforeEffect.afterEffect else s.endRegion.advance

/-- A boundary for the furrow, whatever its lanes (R94). -/
def execPhase (sc : BitVec 3) (_f : Args) (s : State) : Out :=
  guarded (stallIf (s.phaseBlocked sc)) s ((s.boundary sc).phaseDone sc)

/-- A boundary and then a checkpoint (R38), which stands past the instruction, at the boundary after it (R20). -/
def execPhaseK (sc : BitVec 3) (_f : Args) (s : State) : Out :=
  guarded (stallIf s.checkBlocked) s (s.boundary sc).beforeEffect.afterEffect

/-- A boundary and the refresh of an acquire (R95). -/
def execFence (sc : BitVec 3) (_f : Args) (s : State) : Out :=
  guarded (stallIf (s.phaseBlocked sc)) s (((s.boundary sc).refresh sc).phaseDone sc)


/-! ### Discard (R107, R200) -/

/-- Discards one sector: it reads what memory held beneath its dirty copy, or the discarded value (R107; log entry 16). Either
way no dirty copy is left. -/
def State.discardSector (s : State) (sec : Nat) : State :=
  let gone := fun (e : SiloEntry) => e.sector == sec
  let s1 :=
    if Config.discardKeepsOld (s.steps * 2 ^ 48 + sec) then
      match s.l2.find? (·.1 == sec) with
      | some p => { s with mem := s.keepFixed sec (Memory.writeN s.mem (64 * sec) 64 p.2.toNat) }
      | none => s
    else (s.plot.entries.filter gone).foldl (State.commitEntry s.plot.core s.plot.die) s
  let s2 := s1.setPlot { s1.plot with silo := s1.plot.silo.filter (!gone ·), held := s1.plot.held.filter (!gone ·) }
  ({ s2 with l2 := s2.l2.filter (·.1 != sec) } : State).dropCopies [sec]

/-- Drops the plot's entries in a range of sectors (R107, R200). -/
def execDiscard (f : Args) (s : State) : Out :=
  let act := s.active f.guard
  let b := s.uni act f.b
  let c := match f.c with | .imm v => (⟨v.toNat, false⟩ : Src) | o => s.uniU act o
  let lane := s.uniLane act
  let secs := (List.range c.v).map fun k => b.v + 64 * k
  let phys := secs.map fun va => (s.pa .store va).getD 0 / 64
  let chk := (s.namesStop [f.b, f.c]).or <| (rollIf (b.p || c.p)).or <|
    if c.v = 0 then none
    else (rangeStop 64 [(lane, b.v)]).or <| (s.spanStop .store lane b.v (64 * c.v)).or <|
      stallIf s.checkBlocked
  guarded chk s (if c.v = 0 then s.advance else (phys.foldl State.discardSector s).beforeEffect.afterEffect)

/-! ### Spill and fill (R201, R286) -/

/-- `SPILLA`: the furrow's spill area, or 0 where the launch has none. -/
def State.spillArea (s : State) : Nat :=
  if s.launch.spill = 0 then 0
  else s.launch.spill.toNat + 20480 * (s.plot.lplot * s.launch.furrows + s.fur.logical.toNat)

/-- The groups of a spill or fill. -/
def groupsOf (f : Args) : List Nat :=
  let g := match f.a with | .slice st _ => st.toNat / 16 | _ => 0
  (List.range (immNat f.b)).map fun k => g + k

/-- Lane, group, address of its data word and address of its poison word. -/
def State.spillWords (s : State) (f : Args) (act : Mask) : List (Nat × Nat × Nat × Nat) :=
  (lanesOf act).flatMap fun i => (groupsOf f).map fun g => (i, g, s.spillArea + 256 * g + 8 * i, s.spillArea + 16384 + 64 * g + 2 * i)

def State.spillStop (s : State) (acc : Access) (f : Args) (act : Mask) : Option Stop :=
  let ws := s.spillWords f act
  (stopIf ((groupsOf f).any fun g => decide (s.fur.budget / 16 ≤ g)) .budget).or <| (stopIf (s.launch.spill == 0) .illegal).or <|
  s.accessStop acc 2 2 (ws.flatMap fun w => [(w.1, w.2.2.1), (w.1, w.2.2.2)])

/-- Stores slice groups and their poison as clean data (R201). -/
def execSpill (f : Args) (s : State) : Out :=
  let act := s.active f.guard
  match s.spillStop .store f act with
  | some st => s.stop st
  | none => answer s do
    let t ← State.putRooms false s ((s.spillWords f act).flatMap fun w =>
      [(w.2.2.1, 8, (s.lane w.1).read (16 * w.2.1) 64, false), (w.2.2.2, 2, (s.lane w.1).poison.toNat / 2 ^ (16 * w.2.1) % 2 ^ 16, false)])
    return t.advance

/-- Loads slice groups and their poison (R201): a poisoned data sector poisons the whole word. -/
def execFill (f : Args) (s : State) : Out :=
  let act := s.active f.guard
  let ws := s.spillWords f act
  let items := ws.map fun w =>
    let d := s.view false w.2.2.1 8
    let p := s.view false w.2.2.2 2
    (w.1, w.2.1, BitVec.ofNat 64 d.v, if d.p then (0xFFFF : BitVec 16) else BitVec.ofNat 16 p.v)
  let secs := s.allSectors 8 (ws.map fun w => (w.1, w.2.2.1)) ++ s.allSectors 2 (ws.map fun w => (w.1, w.2.2.2))
  guarded (s.spillStop .load f act) s ((s.afterRead false 0 secs).pushRet false (.fill items)).advance

end Sys2Proof.Machine
end

