-- ==== Sys2Proof/Machine/Atomics.lean ====
section
/-! DEFINITION. Atomics (R97, R202 to R205) and determinate reductions (R100, R101). -/

namespace Sys2Proof.Machine

/-! ### Scope, order and operands -/

/-- The S form is relaxed at module scope (R202); so is `ATOMWINC` (R205). -/
def atomScope (op : AtomOp) (f : Args) : BitVec 3 := if f.wide && op != .winc then f.scope else 3
def atomRel (op : AtomOp) (f : Args) : Bool := f.wide && op != .winc && f.ord.getLsbD 0
def atomAcq (op : AtomOp) (f : Args) : Bool := f.wide && op != .winc && f.ord.getLsbD 1

/-- The formats that atomics accept (R202): FP32, FP64 and 32- and 64-bit integers; integers alone for the bitwise ones. -/
def accAtom : Nat := 0x3C300000
def accAtomInt : Nat := 0x3C000000
def AtomOp.accepts : AtomOp → Nat
  | .and | .or | .xor => accAtomInt
  | .winc => 0x08000000
  | _ => accAtom

/-- A source of an atomic: an integer extends by R46. -/
def State.atomSrc (s : State) (fmt : BitVec 5) (o : Operand) (i : Nat) : Src :=
  s.src (fmtIsInt fmt && fmtSigned fmt) (fmtBits fmt) o i

/-- One lane of an atomic. -/
structure AtomLane where
  lane : Nat
  va   : Nat
  pa   : Nat
  c    : Nat
  d    : Nat
deriving DecidableEq, Repr

def State.atomLanes (s : State) (fmt : BitVec 5) (f : Args) (act : Mask) : List AtomLane :=
  (lanesOf act).map fun i =>
    let a := (s.src false 64 f.b i).v
    { lane := i, va := a, pa := (s.pa .atomic a).getD 0, c := (s.atomSrc fmt f.c i).v, d := (s.atomSrc fmt f.d i).v }

/-! ### Buffered reductions (R100) -/

/-- Whether reductions of the launch in the issue stage are buffered: in determinate mode, until its staging area is full. -/
def State.redRoom (s : State) : Bool := s.launch.det && s.launch.stageVa != 0 && decide (s.launch.staged.length < s.launch.stageN)

/-- Earlier buffered reductions of a lane. -/
def Plot.redN (p : Plot) (k : Nat × Nat) : Nat := ((p.redCount.find? fun q => q.1 == k).map (·.2)).getD 0

/-- The core's buffer has no room for `n` more entries (R100). -/
def State.redFull (s : State) (n : Nat) : Bool := decide (1024 < s.core.red.length + n)

/-- Moves the plot's buffered reductions to staging (R100). Where that performs some at once, which is an effect outside the plot, a
checkpoint comes first (R38). -/
def State.stageOwn (s : State) : State :=
  (if (s.redOver s.plot.core s.plot.id).isEmpty then s else s.checkpoint).stagePlot s.plot.core s.plot.id

/-- A full buffer first moves the plot's entries to staging; where other plots fill it, theirs follow, the oldest entry's plot first,
as far as staging takes them (log entry 70). -/
def State.redSpaceFor (s : State) (n : Nat) : State :=
  let s1 := if s.redFull n then s.stageOwn else s
  s1.core.red.foldl (fun t r => if t.redFull n then t.stageSome t.plot.core r.plot else t) s1

/-- Whether the checkpoint that such a move takes must wait. -/
def State.redBlocked (s : State) : Bool := !(s.redOver s.plot.core s.plot.id).isEmpty && s.checkBlocked

/-- Buffers one reduction. -/
def State.bufferRed (s : State) (fmt : BitVec 5) (op : AtomOp) (rnd sc : BitVec 3) (l : AtomLane) : State :=
  let k := (s.fur.logical.toNat, l.lane)
  let n := s.plot.redN k
  let e : RedEntry :=
    { key := (s.plot.lplot, k.1, k.2, n), pa := l.pa, op := op.code, fmt := fmt, rnd := rnd, val := BitVec.ofNat 64 l.c, plot := s.plot.id, scope := sc }
  (s.setCore { s.core with red := s.core.red ++ [e] }).setPlot
    { s.plot with redCount := (k, n + 1) :: s.plot.redCount.filter fun q => q.1 != k }

/-! ### Performing (R97, R203) -/

/-- Performs one lane's atomic at its home slice, and records it (R97, R98). -/
def State.atomAt (s : State) (fmt : BitVec 5) (op : AtomOp) (rnd sc : BitVec 3) (l : AtomLane) : State :=
  let n := fmtBits fmt / 8
  let old := Memory.readN s.mem l.pa n
  let t := s.writeHome s.plot.core s.plot.die l.pa l.pa n (atomFn fmt op rnd old l.c l.d) false
  (t.dropCopies (lineSectors l.pa)).addRecord (t.recordOf sc l.pa)

/-- Performs the lanes in ascending order; with each, the old value it read. -/
def State.atomAll (fmt : BitVec 5) (op : AtomOp) (rnd sc : BitVec 3) : State → List AtomLane → State × List (Nat × Nat)
  | s, [] => (s, [])
  | s, l :: rest =>
    let old := Memory.readN s.mem l.pa (fmtBits fmt / 8)
    let r := State.atomAll fmt op rnd sc (s.atomAt fmt op rnd sc l) rest
    (r.1, (l.lane, old) :: r.2)

/-- The lanes that are performed at once: all, unless the form returns nothing and its reductions find room to be buffered (R100). -/
def State.atomDirect (s : State) (ret : Bool) (ls : List AtomLane) : List AtomLane :=
  if !ret && s.redRoom && !(s.redSpaceFor ls.length).redFull ls.length then [] else ls

/-- Whether an atomic has an effect outside the plot (R38): a lane performed, or a release that commits. -/
def atomOutside (op : AtomOp) (f : Args) (direct : List AtomLane) : Bool :=
  !direct.isEmpty || (atomRel op f && decide (2 ≤ f.scope.toNat))

/-- The stops of an atomic before its effect: names and addresses of every lane; poison and scope of those that are performed, and
the checkpoint before it, which commits the plot's entries (R38, R92, R97). -/
def State.atomStop (s : State) (op : AtomOp) (ret : Bool) (f : Args) (fmt : BitVec 5) (act : Mask) : Option Stop :=
  let ls := s.atomLanes fmt f act
  let n := fmtBits fmt / 8
  let sc := atomScope op f
  let direct := s.atomDirect ret ls
  let bad := direct.filter fun l => !s.scopeOk sc l.pa
  let addr := fun i => s.src false 64 f.b i
  let after := if direct.isEmpty then s else s.commitPlot s.plot
  let sick := (direct.map (·.pa / 64)).filter fun sec => after.poisoned.contains sec
  (addrPoison act addr).or <|
  (rollIf (lanesWhere act (fun i => (s.atomSrc fmt f.c i).p || (s.atomSrc fmt f.d i).p) != 0)).or <|
  (s.accessStop .atomic n n (laneAddrs act addr)).or <|
  (if sick.isEmpty then none else some (.rollbackAt sick)).or <|
  (match bad with
   | [] => none
   | l :: _ => some (Stop.fault { cause := .scope, lanes := lanesMask (bad.map fun (x : AtomLane) => x.lane), addr := BitVec.ofNat 64 l.va })).or <|
  stallIf ((atomOutside op f direct && s.checkBlocked) || (direct.isEmpty && s.redFull ls.length && s.redBlocked))

/-- The release boundary of an atomic (R94: at furrow scope as at plot scope). -/
def State.atomBoundary (s : State) (op : AtomOp) (f : Args) : State :=
  if atomRel op f then s.boundary (if f.scope = 0 then 1 else f.scope) else s

/-- An atomic's effect (R203), after the checkpoint of an effect outside the plot (R38): the lanes are buffered where the launch
is determinate, nothing returns and staging has room (R100), else performed; `ret`: the destination of a returning form. -/
def State.atomDo (s : State) (op : AtomOp) (f : Args) (fmt : BitVec 5) (act : Mask) (ret : Option Operand) : State :=
  let ls := s.atomLanes fmt f act
  let sc := atomScope op f
  let direct := s.atomDirect ret.isSome ls
  let outside := atomOutside op f direct
  let s0 := if outside then s.beforeEffect else s.endRegion
  let s1 := s0.atomBoundary op f
  let s2 := if direct.isEmpty then ls.foldl (fun t l => t.bufferRed fmt op f.rnd sc l) (s1.redSpaceFor ls.length) else s1
  let (s4, olds) := s2.atomAll fmt op f.rnd sc direct
  let s5 := if direct.isEmpty then s4 else if ret.isSome || s.launch.det then s4.clearDetres else s4
  let s6 := if atomAcq op f then s5.refresh sc else s5
  let s7 := match ret with
    | none => s6
    | some d =>
      let vals := (List.range 32).map fun i => (olds.find? fun (p : Nat × Nat) => p.1 == i).map fun (p : Nat × Nat) => (BitVec.ofNat 64 p.2, false)
      s6.pushRet true (.value d (fmtIsInt fmt && fmtSigned fmt) (fmtBits fmt) vals)
  if outside then s7.afterEffect else s7.advance

/-- An atomic instruction (R203). -/
def atomInstr (op : AtomOp) (ret : Bool) (f : Args) (s : State) : Out :=
  let act := s.active f.guard
  let fmt := s.fmtOf op.accepts f
  guarded ((s.fltStop op.accepts atomOk f).or (s.atomStop op ret f fmt act)) s
    (s.atomDo op f fmt act (if ret then some f.a else none))

/-- Returning add (R203). -/
def execAtomAddRet (f : Args) (s : State) : Out := atomInstr .add true f s
/-- Returning minimum (R203). -/
def execAtomMinRet (f : Args) (s : State) : Out := atomInstr .min true f s
/-- Returning maximum (R203). -/
def execAtomMaxRet (f : Args) (s : State) : Out := atomInstr .max true f s
/-- Returning AND (R203). -/
def execAtomAndRet (f : Args) (s : State) : Out := atomInstr .and true f s
/-- Returning OR (R203). -/
def execAtomOrRet (f : Args) (s : State) : Out := atomInstr .or true f s
/-- Returning XOR (R203). -/
def execAtomXorRet (f : Args) (s : State) : Out := atomInstr .xor true f s
/-- Exchange (R203). -/
def execAtomXchg (f : Args) (s : State) : Out := atomInstr .xchg true f s
/-- Compare-and-swap (R204). -/
def execAtomCas (f : Args) (s : State) : Out := atomInstr .cas true f s
/-- Non-returning add (R203, R100). -/
def execAtomAdd (f : Args) (s : State) : Out := atomInstr .add false f s
/-- Non-returning minimum (R203, R100). -/
def execAtomMin (f : Args) (s : State) : Out := atomInstr .min false f s
/-- Non-returning maximum (R203, R100). -/
def execAtomMax (f : Args) (s : State) : Out := atomInstr .max false f s
/-- Non-returning AND (R203, R100). -/
def execAtomAnd (f : Args) (s : State) : Out := atomInstr .and false f s
/-- Non-returning OR (R203, R100). -/
def execAtomOr (f : Args) (s : State) : Out := atomInstr .or false f s
/-- Non-returning XOR (R203, R100). -/
def execAtomXor (f : Args) (s : State) : Out := atomInstr .xor false f s

/-- Moves the plot's buffered reductions to staging (R199, R100). -/
def execFlushred (s : State) : Out :=
  guarded (stallIf (s.launch.det && s.redBlocked)) s (if s.launch.det then s.stageOwn else s).advance

/-! ### Rung 3 (R129; log entry 10) -/

/-- Wrapping increment (R205), at rung 3. -/
def execAtomwinc (f : Args) (s : State) : Out :=
  let act := s.active f.guard
  emulated s ((s.fltStop AtomOp.winc.accepts (fun _ => true) f).or (s.atomStop .winc true f 27 act)) fun t =>
    t.atomDo .winc f 27 act (some f.a)

end Sys2Proof.Machine
end

