-- ==== Sys2Proof/Machine/Aes.lean ====
section
/-! DEFINITION. AES-256 (FIPS 197) and its XTS mode on one data unit of 64 bytes (IEEE 1619), which the spec names for the sectors of
far memory (R332; log entry 13). -/

namespace Sys2Proof.Machine

/-! ### Bytes as polynomials modulo x⁸ + x⁴ + x³ + x + 1 -/

/-- A byte times x. -/
def byteDouble (b : Byte) : Byte := (b <<< 1) ^^^ (if b.getLsbD 7 then 0x1B else 0)

/-- The product of two bytes. -/
def byteTimes (a b : Byte) : Byte :=
  ((List.range 8).foldl (fun (p : Byte × Byte) i => (if b.getLsbD i then p.1 ^^^ p.2 else p.1, byteDouble p.2)) (0, a)).1

/-- A byte's 254th power: its inverse, and 0 for 0. -/
def byteInverse (b : Byte) : Byte :=
  ((List.range 7).foldl (fun (p : Byte × Byte) _ => (byteTimes p.1 p.2, byteTimes p.2 p.2)) (1, byteTimes b b)).1

/-- The substitution of a byte, and its inverse. -/
def subByte (b : Byte) : Byte :=
  let x := byteInverse b
  x ^^^ x.rotateLeft 1 ^^^ x.rotateLeft 2 ^^^ x.rotateLeft 3 ^^^ x.rotateLeft 4 ^^^ 0x63
def unsubByte (b : Byte) : Byte := byteInverse (b.rotateLeft 1 ^^^ b.rotateLeft 3 ^^^ b.rotateLeft 6 ^^^ 0x05)

/-! ### The cipher: a block is 16 bytes, its columns one after another -/

def xorBytes (a b : List Byte) : List Byte := List.zipWith (· ^^^ ·) a b

/-- Row r of a block turns left by r columns; with 4 − r for r it turns back. -/
def turnRows (turn : Nat → Nat) (s : List Byte) : List Byte :=
  (List.range 16).map fun i => s.getD (4 * ((i / 4 + turn (i % 4)) % 4) + i % 4) 0

/-- Each column is multiplied by the circulant matrix of a first row. -/
def timesColumns (row : List Byte) (s : List Byte) : List Byte :=
  (List.range 16).map fun i =>
    (List.range 4).foldl (fun (a : Byte) k => a ^^^ byteTimes (row.getD ((k + 4 - i % 4) % 4) 0) (s.getD (4 * (i / 4) + k) 0)) 0

/-- The 60 words of a 32-byte key's schedule, four bytes each. -/
def keyWords (key : List Byte) : List (List Byte) :=
  (((List.range 52).foldl (fun (a : List (List Byte) × Byte) n =>
    let i := n + 8
    let w := a.1.getD (i - 1) []
    let t := if i % 8 = 0 then xorBytes ((w.drop 1 ++ w.take 1).map subByte) [a.2, 0, 0, 0] else if i % 8 = 4 then w.map subByte else w
    (a.1 ++ [xorBytes (a.1.getD (i - 8) []) t], if i % 8 = 0 then byteDouble a.2 else a.2))
    ((List.range 8).map fun i => (key.drop (4 * i)).take 4, 1)).1)

/-- The 15 round keys. -/
def roundKeys (key : List Byte) : List (List Byte) :=
  let w := keyWords key
  (List.range 15).map fun r => ((w.drop (4 * r)).take 4).flatten

def aesEncrypt (key block : List Byte) : List Byte :=
  let k := roundKeys key
  (List.range 14).foldl (fun s r =>
    let u := turnRows id (s.map subByte)
    xorBytes (if r = 13 then u else timesColumns [2, 3, 1, 1] u) (k.getD (r + 1) [])) (xorBytes block (k.getD 0 []))

def aesDecrypt (key block : List Byte) : List Byte :=
  let k := roundKeys key
  (List.range 14).foldl (fun s r =>
    let u := xorBytes ((turnRows (4 - ·) s).map unsubByte) (k.getD (13 - r) [])
    if r = 13 then u else timesColumns [14, 11, 13, 9] u) (xorBytes block (k.getD 14 []))

/-! ### XTS -/

/-- A block's mask after the block before it: times x modulo x¹²⁸ + x⁷ + x² + x + 1, the first byte lowest. -/
def nextMask (m : BitVec 128) : BitVec 128 := (m <<< 1) ^^^ (if m.getLsbD 127 then 0x87 else 0)

/-- One data unit of 64 bytes under a key pair, the data key lowest, and a tweak. -/
def xts (block : List Byte → List Byte → List Byte) (pair : BitVec 512) (tweak : BitVec 128) (data : BitVec 512) : BitVec 512 :=
  let key := bytesOfNat pair.toNat 64
  let first := BitVec.ofNat 128 (wordOfBytes (aesEncrypt (key.drop 32) (bytesOfNat tweak.toNat 16)))
  BitVec.ofNat 512 (wordOfBytes ((List.range 4).foldl (fun (a : List Byte × BitVec 128) i =>
    let m := bytesOfNat a.2.toNat 16
    (a.1 ++ xorBytes m (block (key.take 32) (xorBytes m (bytesOfNat (data.toNat / 2 ^ (128 * i)) 16))), nextMask a.2)) ([], first)).1)

def xtsEncrypt : BitVec 512 → BitVec 128 → BitVec 512 → BitVec 512 := xts aesEncrypt
def xtsDecrypt : BitVec 512 → BitVec 128 → BitVec 512 → BitVec 512 := xts aesDecrypt

end Sys2Proof.Machine
end

