-- ==== Sys2Proof/Machine/Pages.lean ====
section
/-! DEFINITION. Translations asked of the services (R322, R216, R241): requests in the fault queue, their answers, and the
reads and writes that engines and the sequencer make at home slices (R103). -/

namespace Sys2Proof.Machine

/-! ### Requests -/

/-- Where DISP lies in a fault-queue entry (R328). -/
def dispAt (req : Nat) : Nat := req + 48

/-- Whether the entry at `e` is a pending request of a die for a page of an ASID (R328). -/
def pendingAt (m : Memory) (die : Nat) (asid : BitVec 16) (va e : Nat) : Bool :=
  let w := Memory.readN m e 8
  bitsOf w 0 8 == (causeCode .transl).toNat && bitsOf w 8 4 == 1 && bitsOf w 16 16 == asid.toNat && bitsOf w 32 2 == die
    && Memory.readN m (e + 8) 8 / pageSize == va / pageSize && Memory.readN m (dispAt e) 1 == 0

/-- The walk of the die on the same ASID and VA[51:16] that is already under way (R322). -/
def State.pendingWalk (s : State) (die : Nat) (asid : BitVec 16) (va : Nat) : Option Nat :=
  s.faultQueues.findSome? fun at_ =>
    let q := qHead s.mem at_
    ((List.range (min q.prod q.size)).map fun i => q.base + 64 * ((q.prod - 1 - i) % q.size)).find? (pendingAt s.mem die asid va)

/-- Writes a KIND 1 entry, which waits for room (R328), unless a walk of the die on the page is under way: the entry's
address. -/
def State.askPage (s : State) (r : FaultRec) : Option (Nat × State) :=
  let at_ := r.queue.getD s.faultq.toNat
  if let some e := s.pendingWalk r.die r.asid r.addr then some (e, s)
  else if s.faultsFull r then none
  else
    match s.pushEntry at_ 64 (s.faultItems { r with code := causeCode .transl, kind := 1 }) with
    | some s1 => some ((qHead s.mem at_).slot 64, { s1 with faultSeq := s1.faultSeq + 1 })
    | none => none

/-- What a request comes to in one step. -/
inductive PageAnswer
  /-- the page is translated -/
  | ready (s : State)
  /-- the request's entry, once there was room for it -/
  | waiting (s : State) (req : Option Nat)
  | refused (s : State)
  /-- a poisoned entry (R322) -/
  | poisoned (s : State)
deriving DecidableEq, Repr

/-- The accesses of everything that waits for a request: furrows, engine jobs, sequencer operations (R322). -/
def State.waiters (s : State) (req : Nat) : List Access :=
  (s.allFurs.filterMap fun f => match f.status with | .translate _ acc (some q) => if q = req then some acc else none | _ => none)
    ++ (s.ejobs.filterMap fun (e : EJob) => match e.waiting with
        | some (key, some q) => if q = req then some (if key % 2 = 1 then Access.store else .load) else none
        | _ => none)
    ++ if s.allPlots.any (fun p => p.savedOps.any fun (o : SeqOp) => o.req == some req) || s.allCores.any (fun c => c.seq.any fun (o : SeqOp) => o.req == some req)
      then [.load] else []

/-- An entry that the old services image still had to finish is finished; with the last one that image ends (R338). -/
def State.finishOld (s : State) (req : Nat) : State :=
  match s.fleet.oldServices with
  | none => s
  | some o =>
    let left := o.unfinished.filter (· ≠ req)
    { s with fleet := { s.fleet with oldServices := if left.isEmpty then none else some { o with unfinished := left } } }

/-- The services answer a pending request (R321, R322): they map the page on first touch, or refuse it where no access that waits for
it is permitted; one that is not permitted asks again alone. -/
def State.answerPage (s : State) (jid va : Nat) (acc : Access) (req : Nat) : State :=
  match (acc :: s.waiters req).findSome? fun a => s.touchPage jid va a with
  | some s1 => (s1.setMem (Memory.writeN s1.mem (dispAt req) 1 1)).finishOld req
  | none => (s.setMem (Memory.writeN s.mem (dispAt req) 1 2)).finishOld req

/-- One step of a page that is needed: a walk, a request, or what DISP says of one (R322). -/
def State.pageStep (s : State) (jid va : Nat) (acc : Access) (priv : Bool) (r : FaultRec) (req : Option Nat) : PageAnswer :=
  match s.jobOf jid with
  | none => .refused s
  | some j =>
    let ask := fun (_ : Unit) => match s.askPage { r with asid := j.asid, addr := va } with
      | some (e, s1) => PageAnswer.waiting s1 (some e)
      | none => .waiting (s.serve (r.queue.getD s.faultq.toNat)) none
    match s.walk j va, req with
    | .poisoned, _ => .poisoned s
    | .leaf e, none => if e.allows acc priv then .ready s else ask ()
    | .invalid, none => ask ()
    | w, some q =>
      match Memory.readN s.mem (dispAt q) 1 with
      | 0 => .waiting (s.answerPage jid va acc q) (some q)
      | 1 => match w with
        | .leaf e => if e.allows acc priv then .ready s else ask ()
        | _ => ask ()
      | _ => .refused s

/-! ### Jobs -/

/-- The job of an ASID, which it keeps until `JOBDEL` (R344). -/
def State.jobOfAsid (s : State) (a : BitVec 16) : Option Job := s.allJobs.find? fun j => j.asid == a
/-- The running job of an ASID. -/
def State.jobByAsid (s : State) (a : BitVec 16) : Option Job := s.allJobs.find? fun j => j.live && j.asid == a

/-! ### Engine accesses at home slices (R103) -/

/-- `n` bytes from `va` on, whose first lies at `a`; the walk is made anew where a page of 64 KiB begins (R321). -/
def State.jobReadFrom (s : State) (j : Job) (a : Option Nat) (va : Nat) : Nat → Nat
  | 0 => 0
  | n + 1 =>
    (match a with | some a => (Memory.byte s.mem a).toNat | none => 0)
      + 256 * s.jobReadFrom j (if (va + 1) % pageSize = 0 then s.jobPa j .load (va + 1) else a.map (· + 1)) (va + 1) n

/-- `n` bytes of a job's space at home, little-endian; bytes of untranslated pages read as zero. -/
def State.jobRead (s : State) (j : Job) (va n : Nat) : Nat := s.jobReadFrom j (s.jobPa j .load va) va n

/-- Whether one of `n` bytes lies in a poisoned sector. -/
def State.jobPoison (s : State) (j : Job) (va n : Nat) : Bool :=
  (List.range n).any fun i => match s.jobPa j .load (va + i) with | some a => s.poisoned.contains (a / 64) | none => false

/-- The poisoned sectors among `n` bytes. -/
def State.jobSick (s : State) (j : Job) (va n : Nat) : List Nat :=
  (List.range n).foldl (fun l i => match s.jobPa j .load (va + i) with
    | some a => if s.poisoned.contains (a / 64) then insertNat (a / 64) l else l
    | none => l) []

/-- The first byte among `n` whose page is not translated for an access. -/
def State.jobMiss (s : State) (j : Job) (acc : Access) (va n : Nat) : Option Nat :=
  if n = 0 then none else (pageStarts va n).find? fun a => (s.jobPa j acc a).isNone

/-- Writes one byte at home by an engine: no L1 and no remote-data-cache copy changes (R103). -/
def State.engineByte (s : State) (pa : Nat) (v : Byte) : State :=
  let t := s.dirty (pa / 64)
  t.setMem (t.keepFixed (pa / 64) (Memory.setByte t.mem pa v))

/-- Writes `n` bytes of a job's space; bytes of untranslated pages are left. -/
def State.jobWrite (s : State) (j : Job) (va : Nat) : Nat → Nat → State
  | 0, _ => s
  | n + 1, v =>
    (match s.jobPa j .store va with | some a => s.engineByte a (BitVec.ofNat 8 v) | none => s).jobWrite j (va + 1) n (v / 256)

/-- Poisons the sectors of `n` bytes of a job's space. -/
def State.jobTaint (s : State) (j : Job) (va n : Nat) : State :=
  { s with poisoned := (List.range n).foldl (fun l i => match s.jobPa j .store (va + i) with
      | some a => setPoison l (a / 64) true
      | none => l) s.poisoned }

end Sys2Proof.Machine
end

