-- ==== Sys2Proof/Machine/Issue.lean ====
section
/-! DEFINITION. Issue: which furrow and which split (R21, R26), what fetch reads (R112 to R114), and what happens at an
instruction boundary (R20). -/

namespace Sys2Proof.Machine

/-! ### The choice of a split (R19, R21) -/

/-- The splits that may issue, with their entries. -/
def readySplits (l : List Split) : List (Nat × Split) :=
  (mapIdxFrom (fun i sp => (i, sp)) 0 l).filter fun p => p.2.valid && !p.2.held

/-- The ready split with the lowest program counter, or the lowest that was passed over 16 times (R21). -/
def pickSplit (l : List Split) : Option Nat :=
  match (readySplits l).find? fun p => decide (16 ≤ p.2.pass) with
  | some p => some p.1
  | none => ((readySplits l).foldl (fun acc p => match acc with
      | none => some p
      | some q => if p.2.pc.toNat < q.2.pc.toNat then some p else some q) (none : Option (Nat × Split))).map (·.1)

/-- The entry that issues next: the same one between the halves of a P frame (R45). -/
def Furrow.nextSplit (f : Furrow) : Option Nat :=
  let sp := f.splits.getD f.cur {}
  if sp.valid && sp.pc.getLsbD 2 then some f.cur else pickSplit f.splits

/-- A furrow that can issue (R19, R23, R27). -/
def Furrow.canIssue (f : Furrow) : Bool := f.status == .ready && f.active && f.nextSplit.isSome

/-! ### The choice of a furrow (R26) -/

/-- The furrow with the least key, the lower slot of equal ones. -/
def firstBy (key : Furrow → Nat) (l : List Furrow) : Option Furrow :=
  l.foldl (fun acc f => match acc with
    | none => some f
    | some g => if key f < key g || (key f == key g && decide (f.slot < g.slot)) then some f else some g) none

/-- The furrows of a quadrant that can issue: the capped ones in the order in which they became capped, else the earliest in the
active set. Of two that entered at one moment the lower slot issues, a tie that R26 settles for capped furrows only (the model's
choice, log entry 75). -/
def pickFurrow (l : List Furrow) : Option Furrow :=
  match l.filter fun f => decide (64 ≤ f.waited) with
  | [] => firstBy (·.entered) l
  | capped => firstBy (·.cappedAt) capped

/-- A furrow between the halves of a P frame: the pair is one issue (R26). -/
def Furrow.midPair (f : Furrow) : Bool :=
  let sp := f.splits.getD f.cur {}
  sp.valid && sp.pc.getLsbD 2

/-- The core and quadrant of a furrow. -/
def State.quadOf (s : State) (f : Furrow) : Nat := (((s.plotOf f.plot).map (·.core)).getD 0) * 4 + f.slot / 8

/-- The quadrants that have a furrow to issue, and each one's choice. -/
def State.candidates (s : State) : List (Nat × Furrow) :=
  let fs := s.allFurs.filter (·.canIssue)
  let qs := fs.foldl (fun acc f => insertNat (s.quadOf f) acc) []
  qs.filterMap fun q =>
    let here := fs.filter fun f => s.quadOf f == q
    ((here.find? Furrow.midPair).or (pickFurrow here)).map fun f => (q, f)

/-- The next furrow to issue: the quadrants take turns (log entry 1). -/
def State.nextFurrow (s : State) : Option Nat :=
  let l := s.candidates
  (l[s.turn / 2 % max l.length 1]?).map (·.2.id)

/-- Whether a furrow that was tried has issued: it has moved, come to a wait, or gone. A stalled try is no issue (R19, R26),
nor is one that asks for a translation (R322). -/
def State.hasIssued (s : State) (before : Furrow) : Bool :=
  let table := fun (f : Furrow) => f.splits.map fun sp => { sp with held := false }
  match s.furOf before.id with
  | none => true
  | some f =>
    match f.status with
    | .translate .. => false
    | _ => table f != table before || f.yields != before.yields || f.status != before.status

/-- Wait counts after a furrow's turn that began in `s` and ended in `t` (R26): where it issued, its count is 0 and the other
furrows of its quadrant that were ready waited. A P pair is one issue, counted at its first half. -/
def State.noteIssue (s t : State) (fid : Nat) : State :=
  match s.furOf fid with
  | none => t
  | some f =>
    if f.midPair || !t.hasIssued f then t
    else
      let q := s.quadOf f
      let late := ((s.allFurs.filter fun g => g.id != fid && g.canIssue && s.quadOf g == q)).map (·.id)
      t.mapFurs fun g =>
        if g.id = fid then { g with waited := 0 }
        else if late.contains g.id then { g with waited := g.waited + 1, cappedAt := if g.waited + 1 = 64 then t.steps else g.cappedAt }
        else g

/-! ### Fetch (R112 to R114, R131) -/

/-- What fetch comes to. -/
inductive Fetched
  | instr (i : Instr) (len : Nat)
  | bad (r : Reject)
  | walk (va : Word)
  | refused (va : Word)
deriving DecidableEq, Repr

/-- A word of the frame lies outside the code range (R113). -/
def State.outside (s : State) (at_ : Word) : Bool :=
  decide (at_.toNat < s.fur.codeLo.toNat ∨ s.fur.codeHi.toNat < at_.toNat + 8)

/-- Whether the services refused the page of a fetch (R322). -/
def State.fetchRefused (s : State) (at_ : Word) : Bool :=
  match s.fur.refused with
  | some (v, .fetch) => v.toNat / pageSize == at_.toNat / pageSize
  | _ => false

/-- Fetches and decodes at the issuing split's program counter, in the order of R131. -/
def State.fetch (s : State) : Fetched :=
  let pc := s.split.pc
  let at_ := pc &&& ~~~7#64
  if s.outside at_ then .bad .outsideRange
  else match s.pa .fetch at_.toNat with
    | none => if s.fetchRefused at_ then .refused at_ else .walk at_
    | some a =>
      let w0 := Memory.word s.mem a
      if w0.extractLsb' 62 2 == 2 then
        if s.outside (at_ + 8) then .bad .outsideRange
        else match s.pa .fetch (at_ + 8).toNat with
          | none => if s.fetchRefused (at_ + 8) then .refused (at_ + 8) else .walk (at_ + 8)
          | some b =>
            match decodeFrame false w0 (Memory.word s.mem b) with
            | .ok i n => .instr i n
            | .bad r => .bad r
      else
        match decodeFrame (pc.getLsbD 2) w0 0 with
        | .ok i n => .instr i n
        | .bad r => .bad r

/-- What the deadline does not stop: `YIELD` and `YIELD.W` (R32), and a hint, which raises no fault but by R113 and R114
(R127). -/
def deadlineExempt : Instr → Bool
  | .yield | .yieldW _ | .yieldWWide _ | .nop | .hreuse | .hlikely => true
  | _ => false

/-! ### Instruction boundaries (R20, R21) -/

/-- What follows an instruction of the furrow in the issue stage, if it is still there: pass counts where it issued, and
merges at the boundary of a frame (R20, R21). `before` is the furrow as it was fetched. -/
def State.boundaryOf (s : State) (before : Furrow) : State :=
  if s.fur.id ≠ before.id || s.fur.id = 0 then s
  else
    let cur := s.fur.splits.getD before.cur {}
    let issued := !cur.held && (s.fur.splits ≠ before.splits || s.fur.yields ≠ before.yields)
    let mid := cur.valid && cur.pc.getLsbD 2
    let f := if issued then s.fur.passed before.splits before.cur else s.fur
    if mid then s
    else if f.mergeOnce.splits = f.splits then s.setFur f
    else
      -- a merge empties the latch window, so earlier results come first (R44, R53)
      let t := s.deliverWhere (· = f.id)
      t.setFur (if issued then t.fur.passed before.splits before.cur else t.fur).merge

end Sys2Proof.Machine
end

