-- ==== Sys2Proof/Machine/Waits.lean ====
section
/-! DEFINITION. Waiting on memory (R206, R207), the events that end waits (R105, R146, R147) and the returns of loads and
atomics (R51). -/

namespace Sys2Proof.Machine

/-! ### `WAITV` and the watch slots -/

/-- The comparison and scope of `WAITV` and `WATCH` (R206). -/
def waitCmp (f : Args) : Cmp :=
  if f.wide then (match f.xmod.toNat with | 1 => .eq | 2 => .ne | _ => .ge) else if f.ext then .eq else .ge
def waitScope (f : Args) : BitVec 3 := if f.wide then f.scope else 3

/-- The stops before a watched word is read. -/
def State.watchStop (s : State) (f : Args) : Option Stop :=
  let act := s.active f.guard
  (s.namesStop [f.b, f.c]).or <| (rollIf (s.uni act f.b).p).or (s.accessStop .load 8 8 [s.uniAt act f.b])

/-- Waits until the word at its home slice meets the comparison, then acquires (R206). -/
def execWaitv (f : Args) (s : State) : Out :=
  let act := s.active f.guard
  let a := s.uniAt act f.b
  let v := (s.uni act f.c).v
  let met := (waitCmp f).holds (s.homeWord a.2) v
  guarded ((s.watchStop f).or (if met then s.acquireStop (waitScope f) a.1 a.2 else none)) s
    (if met then (s.waitAcquire (waitScope f) a.2).advance
     else (s.setFur { s.fur with
       status := .waitValue (BitVec.ofNat 64 a.2) (BitVec.ofNat 64 v) (waitCmp f) (waitScope f) }).waitOr)

def State.setWatch (s : State) (k : Nat) (w : WatchSlot) : State := s.setFur { s.fur with watch := putAt {} s.fur.watch k w }

/-- Arms a watch slot (R207): it fires at once where the word already meets the comparison. -/
def execWatch (f : Args) (s : State) : Out :=
  let act := s.active f.guard
  let a := (s.uni act f.b).v
  let v := (s.uni act f.c).v
  guarded (s.watchStop f) s
    (s.setWatch (immNat f.a) { armed := true, fired := (waitCmp f).holds (s.homeWord a) v, addr := BitVec.ofNat 64 a
                               value := BitVec.ofNat 64 v, cmp := waitCmp f, scope := waitScope f }).advance

/-- The lowest armed slot of a mask that has fired. -/
def Furrow.firedSlot (f : Furrow) (m : BitVec 4) : Option Nat :=
  (List.range 4).find? fun k => m.getLsbD k && (f.watch.getD k {}).armed && (f.watch.getD k {}).fired
/-- Whether some slot of a mask is armed. -/
def Furrow.someArmed (f : Furrow) (m : BitVec 4) : Bool := (List.range 4).any fun k => m.getLsbD k && (f.watch.getD k {}).armed

/-- Takes a fired slot (R207): disarms it, acquires its word and writes its index. -/
def State.takeWatch (s : State) (xd : Option (BitVec 6)) (k : Nat) : State :=
  let w := s.fur.watch.getD k {}
  let s1 := (s.waitAcquire w.scope w.addr.toNat).setWatch k {}
  match xd with
  | some x => s1.setX x.toNat ⟨k, false⟩
  | none => s1

/-- The check of that acquire. -/
def State.takeStop (s : State) (k : Nat) : Option Stop :=
  let w := s.fur.watch.getD k {}
  s.acquireStop w.scope ((lowest s.m0).getD 0) w.addr.toNat

/-- The x-register written, where the split has an active lane (R57). -/
def watchDest (act : Mask) (o : Operand) : Option (BitVec 6) := if act = 0 then none else some (BitVec.ofNat 6 (xNo o))

/-- Waits for a watch slot of a mask to fire (R207). -/
def execWaitvW (f : Args) (s : State) : Out :=
  let m := BitVec.ofNat 4 (immNat f.b)
  let xd := watchDest (s.active f.guard) f.a
  let k := s.fur.firedSlot m
  guarded ((stopIf (!s.fur.someArmed m) .illegal).or (match k with | some k => s.takeStop k | none => none)) s
    (match k with
     | some k => (s.takeWatch xd k).advance
     | none => (s.setFur { s.fur with status := .waitWatch xd m }).waitOr)

/-! ### Ends of waits -/

/-- The furrow in the issue stage passes its instruction and is ready, at the boundary after it (R20, R21). -/
def State.passFur (s : State) : State := s.setFur (s.fur.pass.settled s.fur.splits s.fur.cur)

/-- A stop of the instruction that a furrow waits in: it is taken as its own. -/
def State.stopWait (s : State) (st : Stop) : Out := (s.setFur { s.fur with status := .ready }).stop st

/-- A furrow waiting in `WAITV` reads its word (R206). -/
def execWaitvSatisfied (s : State) : Out :=
  match s.input with
  | .waitvSatisfied fid =>
    let t := s.focusFur fid
    match t.fur.status with
    | .waitValue a v cmp sc =>
      if (t.homeAddr a.toNat).isSome && cmp.holds (t.homeWord a.toNat) v.toNat then
        match t.acquireStop sc ((lowest t.m0).getD 0) a.toNat with
        | some st => t.stopWait st
        | none => .next (t.waitAcquire sc a.toNat).passFur
      else .next s
    | .waitWatch xd m =>
      match t.fur.firedSlot m with
      | some k =>
        match t.takeStop k with
        | some st => t.stopWait st
        | none => .next (t.takeWatch xd k).passFur
      | none => .next s
    | _ => .next s
  | _ => .next s

/-- A watch slot reads its word (R207). -/
def execWatchFire (s : State) : Out :=
  match s.input with
  | .watchFire fid k =>
    let t := s.focusFur fid
    let w := t.fur.watch.getD k {}
    if t.fur.id = fid && w.armed && !w.fired && (t.homeAddr w.addr.toNat).isSome && w.cmp.holds (t.homeWord w.addr.toNat) w.value.toNat then
      .next (t.setWatch k { w with fired := true })
    else .next s
  | _ => .next s

/-- `TIMEN` has reached t (R147): `waitt.d` writes how late. -/
def execWaittReady (s : State) : Out :=
  match s.input with
  | .waittReady fid =>
    let t := s.focusFur fid
    match t.fur.status with
    | .waitTime due dest =>
      if due.toNat ≤ t.timen then
        match dest with
        | none => .next t.passFur
        | some (o, act, p) =>
          .next (t.result o false 64 act fun _ => ⟨wrap 64 ((t.timen : Int) - due.toNat), p⟩).passFur
      else .next s
    | _ => .next s
  | _ => .next s

/-- A stamp that a `YIELD.W` waits for meets its value (R146): the furrow waits for an active slot, in the order of
satisfaction (R27). -/
def execYieldWReactivate (s : State) : Out :=
  match s.input with
  | .yieldWReactivate fid =>
    let t := s.focusFur fid
    match t.fur.status with
    | .waitStamp a v cmp sc at_ =>
      if (t.homeAddr a.toNat).isSome && cmp.holds (t.homeWord a.toNat) v.toNat then
        match t.acquireStop sc ((lowest t.m0).getD 0) a.toNat with
        | some st => (t.setPc at_).stopWait st
        | none =>
          let t1 := t.waitAcquire sc a.toNat
          .next (t1.setFur { t1.fur with status := .reactivate, waitFrom := t.steps, waitClk := t.cycles })
      else .next s
    | _ => .next s
  | _ => .next s

/-! ### Returns (R51, R203) -/

/-- A return is delivered, or discarded where its generation no longer matches. -/
def State.returnNo (s : State) (atomic : Bool) (id : Nat) : State :=
  match s.rets.find? fun r => r.id == id && r.atomic == atomic with
  | some r => s.deliverRet r
  | none => s

/-- A load, gather or fill returns. -/
def execLoadReturn (s : State) : Out :=
  match s.input with
  | .loadReturn id => .next (s.returnNo false id)
  | _ => .next s

/-- A returning atomic is answered. -/
def execAtomicReply (s : State) : Out :=
  match s.input with
  | .atomicReply id => .next (s.returnNo true id)
  | _ => .next s

end Sys2Proof.Machine
end

