-- ==== Sys2Proof/Machine/Units.lean ====
section
/-! DEFINITION. Units of the module: zones and the sluice table (R348 to R352), counting windows (R334) and retirement
(R335, R359). -/

namespace Sys2Proof.Machine

/-! ### The sluice table (R349) -/

def Zone.step (z : Zone) : Nat := (z.entry.extractLsb' 0 4).toNat
def Zone.min (z : Zone) : Nat := (z.entry.extractLsb' 4 4).toNat
def Zone.owner (z : Zone) : Nat := (z.entry.extractLsb' 8 16).toNat
def Zone.tout (z : Zone) : Nat := (z.entry.extractLsb' 24 8).toNat
def Zone.tj (z : Zone) : Nat := (z.entry.extractLsb' 32 8).toNat
def Zone.dpmax (z : Zone) : Nat := (z.entry.extractLsb' 40 8).toNat
def Zone.flowtol (z : Zone) : Nat := (z.entry.extractLsb' 48 8).toNat
def Zone.trapen (z : Zone) : Bool := z.entry.getLsbD 60
def Zone.settled (z : Zone) : Bool := z.entry.getLsbD 61
def Zone.dry (z : Zone) : Bool := z.entry.getLsbD 62
def Zone.wet (z : Zone) : Bool := z.entry.getLsbD 63

/-- Sets or clears a bit of an entry. -/
def Zone.setBit (z : Zone) (k : Nat) (b : Bool) : Zone :=
  { z with entry := if b then z.entry ||| BitVec.ofNat 64 (2 ^ k) else z.entry &&& ~~~(BitVec.ofNat 64 (2 ^ k)) }

def State.zone (s : State) (z : Nat) : Zone := s.zones.getD z {}
def State.setZone (s : State) (z : Nat) (x : Zone) : State := { s with zones := setAt s.zones z x }
def State.modZone (s : State) (z : Nat) (g : Zone → Zone) : State := { s with zones := modAt g s.zones z }

/-- The effective step (R351). -/
def Zone.effStep (z : Zone) : Nat := if z.settled then z.step else z.effHeld

/-- The least effective step of a heat class (R352). -/
def heatMin (h : Nat) : Nat := match h with | 0 => 2 | 1 => 6 | 2 => 10 | _ => 14

/-- The zone of a core (1 to 384). -/
def zoneOf (core : Nat) : Nat := (core - 1) / 96 * 24 + (core - 1) % 96 / 4
/-- The cores of a zone. -/
def zoneCores (z : Nat) : List Nat := (List.range 4).map fun i => z / 24 * 96 + z % 24 * 4 + i + 1

/-- Whether a plot runs on a core: its own, or, sampled, that of its second run (R39). -/
def Plot.uses (p : Plot) (core : Nat) : Bool := p.core == core || p.twin == core
/-- Whether a core that a plot runs on lies in a zone. -/
def Plot.inZone (p : Plot) (z : Nat) : Bool := zoneOf p.core == z || (p.twin != 0 && zoneOf p.twin == z)

/-- Whether a zone admits a plot of a heat class (R352; with a retired sensor, R355 admits classes 0 and 1; log entry 23). -/
def Zone.admits (z : Zone) (h : Nat) : Bool :=
  decide (heatMin h ≤ z.effStep) && !z.dry && !z.wet && (!z.onlyClass0 || h == 0) && (z.sensorsRetired.isEmpty || decide (h ≤ 1))

/-- Requests pre-emption of the resident plots that a predicate picks (R33). -/
def State.preemptWhere (s : State) (pick : Plot → Bool) : State :=
  s.mapPlots fun p => if p.status == .resident && pick p then { p with preempt := true } else p

def State.heatOf (s : State) (p : Plot) : Nat := ((s.launchOf p.launch).map (·.heat)).getD 0

/-- Plots of a zone whose class its effective step no longer meets leave at their next yields (R352). -/
def State.belowStep (s : State) (z : Nat) : State :=
  s.preemptWhere fun p => p.inZone z && decide ((s.zone z).effStep < heatMin (s.heatOf p))

/-- Steps of a die's manifold (R348). -/
def State.dieSteps (s : State) (die : Nat) : Nat := ((List.range 24).map fun k => (s.zone (24 * die + k)).step).foldl (· + ·) 0

/-- The checks of a sluice write (R350). -/
def State.sluiceOk (s : State) (z : Nat) (v : Word) : Bool :=
  let old := s.zone z
  let new : Zone := { old with entry := v }
  decide (new.min ≤ new.step) && decide (s.dieSteps (z / 24) - old.step + new.step ≤ 288) && !old.dry && old.drain.isNone
    && v.extractLsb' 56 4 == 0

/-- The read-only bits of an entry. -/
def sluiceRO : Word := 0xE000000000000000

/-- 40 ms. -/
def settleNs : Nat := 40000000

/-- An entry with another STEP. -/
def Zone.withStep (z : Zone) (n : Nat) : Word := (z.entry &&& ~~~(15#64)) ||| BitVec.ofNat 64 (n % 16)

/-- The highest step that R350 allows a zone, up to 15. -/
def State.topStep (s : State) (z : Nat) : Nat := Nat.min 15 (288 - (s.dieSteps (z / 24) - (s.zone z).step))

/-- A zone's entry after a whole write (R349, R351): a change of STEP clears SETTLED and starts the timer, and a further write while
the timer runs restarts it. -/
def Zone.written (old : Zone) (now : Nat) (v : Word) : Zone :=
  let new : Zone := { old with entry := (v &&& ~~~sluiceRO) ||| (old.entry &&& sluiceRO) }
  if new.step = old.step && old.timer.isNone then new
  else { new.setBit 61 false with timer := some (now + settleNs), effHeld := Nat.min old.effStep new.step }

/-- A zone with a retired sensor stands at STEP 15, or at the highest step that R350 allows (R355). -/
def State.holdTop (s : State) (z : Nat) : State :=
  let o := s.zone z
  if o.sensorsRetired.isEmpty || o.dry || o.drain.isSome || o.step == s.topStep z then s
  else s.setZone z (o.written s.timeNs (o.withStep (s.topStep z)))

/-- The zones of a die that retired sensors hold. -/
def State.holdTops (s : State) (die : Nat) : State := ((List.range 24).map fun k => 24 * die + k).foldl State.holdTop s

/-- A whole write of an entry (R349 to R352, R355). -/
def State.sluiceWrite (s : State) (z : Nat) (v : Word) : State :=
  ((s.setZone z ((s.zone z).written s.timeNs v)).holdTops (z / 24)).belowStep z

/-! ### Counting windows and retirement (R334, R335) -/

/-- The class of a unit's number in a fault-queue entry, and its die and core (R328). -/
def unitPlace : UnitId → Nat × Nat × Nat
  | .core n => (n / 96, n % 96, 0)
  | .homeSlice n => (n / 48, 127, n % 48)
  | .channel n => (n / 32, 127, n % 32)
  | .bridge n => (0, 127, n)
  | .port n => (0, 127, n)
  | .sensor z _ => (z / 24, 127, z)

/-- The entry of a retirement (R335). Its CAUSE is not stated: 0 (log entry 24). -/
def retireEntry (u : UnitId) : FaultRec :=
  let p := unitPlace u
  { code := 0, kind := 2, die := p.1, core := p.2.1, unit := p.2.2 }

/-- Sends EVUNIT to management, with a fault-queue entry (R316). -/
def State.sendUnit (s : State) (r : FaultRec) : State := s.send 0x82 0xFFFFFFFF 0 (itemWords 8 (s.faultItems r))

/-- Moves everything that the state keeps by physical address from one frame to another. -/
def State.moveFrame (s : State) (old new size : Nat) : State :=
  let mv := fun (a : Nat) => if old ≤ a ∧ a < old + size then new + (a - old) else a
  let mvS := fun (sec : Nat) => mv (64 * sec) / 64
  let cells := (s.mem.filter fun c => decide (old ≤ c.1 ∧ c.1 < old + size)).map fun c => (mv c.1, c.2)
  let bad := (s.poisoned.filter fun x => decide (old ≤ 64 * x ∧ 64 * x < old + size)).map mvS
  let ent := fun (e : SiloEntry) => { e with sector := mvS e.sector }
  let red := fun (r : RedEntry) => { r with pa := mv r.pa }
  let comp := fun (c : Comp) => { c with pa := if c.pa = 0 then 0 else mv c.pa }
  let s1 := { s with mem := Memory.splice s.mem new size cells, poisoned := bad.foldl (fun l x => insertNat x l) s.poisoned }
  let s2 := (s1.mapPlots fun p => { p with silo := p.silo.map ent, held := p.held.map ent, savedRed := p.savedRed.map red }).mapFurs fun f =>
    { f with region := f.region.map fun r => { r with own := r.own.map ent } }
  let s3 := s2.mapCores fun c => { c with red := c.red.map red }
  let s4 := s3.mapLaunches fun l => { l with staged := l.staged.map red, comp := comp l.comp }
  let s5 := s4.mapJobs fun j => { j with comp := comp j.comp }
  { s5 with
    graphs := s5.graphs.map fun (g : Graph) => { g with comp := comp g.comp }
    seasons := s5.seasons.map fun (z : Season) => { z with comp := comp z.comp } }

/-- A frame of a die's near memory, or of one of its channels that gives frames. -/
def State.frameAt (s : State) (die : Nat) (near : Bool) (c size : Nat) : Option (Nat × State) :=
  if !near && s.channelOut (32 * die + c) then none else s.frameIn die near (if near then 0 else c) size

/-- Whether a region of a job in flight reaches a frame (R359). -/
def State.frameBusy (s : State) (pa size : Nat) : Bool :=
  s.ejobs.any fun e => (s.jobOf e.job).any fun j => e.regions.any fun r =>
    ((List.range ((r.1 + r.2.1 - 1) / pageSize - r.1 / pageSize + 1)).any fun i =>
      (s.jobPa j .load ((r.1 / pageSize + i) * pageSize)).any fun a => decide (pa ≤ a ∧ a < pa + size))

/-- Moves one frame of far memory to another channel of its die, or of another die, and points every leaf at it (R359); it stays
where no channel has room, or where an engine uses it. -/
def State.evacuate (s : State) (f : Nat × Nat) : State :=
  let die := homeDie f.1
  if s.frameBusy f.1 f.2 then s
  else match (die :: (List.range 4).filter (· ≠ die)).findSome? fun d => s.allocFrame d false f.2 with
    | none => s
    | some (new, s1) =>
      let s2 := s1.moveFrame f.1 new f.2
      let cells := (s2.allJobs.flatMap fun (j : Job) => leafCells s2.mem 3 j.root).filter (·.2.1 == f.1)
      let m := cells.foldl (fun m c => Memory.writeN m c.1 8 (Memory.readN m c.1 8 - f.1 + new)) s2.mem
      (s2.setMem m).dropTlb fun t => decide (f.1 ≤ t.pa ∧ t.pa < f.1 + f.2)

/-- The frames of jobs that a channel homes. -/
def State.channelFrames (s : State) (n : Nat) : List (Nat × Nat) :=
  ((s.allJobs.flatMap fun (j : Job) => (leafCells s.mem 3 j.root).map (·.2)).filter fun f => !isNear f.1 && channelOf f.1 == n).eraseDups

/-- Takes a unit out of service: its entry and EVUNIT (R335). -/
def State.retireNow (s : State) (u : UnitId) : State :=
  let r := retireEntry u
  let s1 := { s with fleet := { s.fleet with retired := s.fleet.retired ++ [u] } }
  (s1.sendUnit r).pushFault r

/-- Moves the pages of the channels that are leaving service; one whose pages have all moved is retired, and its 16 GiB leave the
free pool (R359). -/
def State.drainChannels (s : State) : State :=
  s.fleet.draining.foldl (fun (t : State) n =>
    let t1 := (t.channelFrames n).foldl State.evacuate t
    if (t1.channelFrames n).isEmpty then
      let t2 := { t1 with
        fleet := { t1.fleet with draining := t1.fleet.draining.filter (· ≠ n) }, freed := t1.freed.filter fun p => isNear p.1 || channelOf p.1 != n }
      t2.retireNow (.channel n)
    else t1) s

/-- Retires a unit (R335, R359). -/
def State.retire (s : State) (u : UnitId) : State :=
  if s.fleet.retired.contains u then s
  else
    let s2 := s.retireNow u
    match u with
    | .channel n => { s with fleet := { s.fleet with draining := insertNat n s.fleet.draining } }.drainChannels
    | .core n => s2.preemptWhere fun p => p.uses (n + 1)
    | .sensor z n =>
      -- R355: the zone holds at STEP 15, or the highest that R350 allows
      (s2.modZone z fun x => { x with sensorsRetired := insertNat n x.sensorsRetired }).holdTop z
    | .port n => { s2 with fleet := { s2.fleet with ports := modAt (fun p => { p with up := false }) s2.fleet.ports n } }
    | _ => s2

/-- Whether a core (1 to 384) takes new plots. -/
def State.coreUsable (s : State) (core : Nat) : Bool :=
  !s.fleet.retired.contains (.core (core - 1)) && !(s.coreOf core).off && !((s.fleet.dies.getD (coreDie core) {}).isolated)

/-- The window of a class (R334). -/
def State.windowOf (s : State) (c : EventClass) : Window334 := (s.fleet.windows.find? (·.cls == c)).getD { cls := c, t := 1, w := 0 }

/-- Charges a unit one event (R334): it is retired when its T-th most recent event lies within W of this one. -/
def State.charge (s : State) (c : EventClass) (u : UnitId) : State :=
  let w := s.windowOf c
  let mine := (s.fleet.events.filter fun e => e.1 == c && e.2.1 == u).map (·.2.2)
  let times := (s.timeNs :: mine).take w.t
  let rest := s.fleet.events.filter fun e => !(e.1 == c && e.2.1 == u)
  let s1 := { s with fleet := { s.fleet with events := times.map (fun t => (c, u, t)) ++ rest } }
  match times[w.t - 1]? with
  | some t => if s.timeNs ≤ t + w.w then s1.retire u else s1
  | none => s1

end Sys2Proof.Machine
end

