-- ==== Sys2Proof/Machine/System.lean ====
section
/-! DEFINITION. System instructions (R221 to R226) and kernel calls (R323). -/

namespace Sys2Proof.Machine

/-! ### System registers (R222, R223) -/

/-- The number of an immediate field. -/
def regNo (o : Operand) : Nat := immNat o

/-- A register that only privileged furrows read. -/
def regPriv (n : Nat) : Bool := n == 0x100 || n == 0x101 || (decide (0x180 ≤ n) && decide (n ≤ 0x1DF))
/-- A register whose reading clears DETRES. -/
def regTimed (n : Nat) : Bool := n == 0 || n == 1 || n == 2 || n == 7 || n == 8

/-- The value of a system register, if the number is listed. -/
def State.sysReg (s : State) (n : Nat) : Option Nat :=
  match n with
  | 0x000 => some s.timen
  | 0x001 => some (s.cycles % 2 ^ 64)
  | 0x002 => some (s.plot.core - 1)
  | 0x003 => some s.plot.lplot
  | 0x004 => some (if s.launch.det then s.plot.lcore else s.plot.core - 1)
  | 0x005 => some s.fur.logical.toNat
  | 0x006 => some s.fur.deadline
  | 0x007 => some (legacyWord s.job.legmc)
  | 0x008 => some (legacyWord s.job.legtr)
  | 0x009 => some s.plot.cruise
  | 0x00A => some s.plot.barto
  | 0x00B => some aperture
  | 0x00C => some s.spillArea
  | 0x00D => some (s.job.ctableVa.toNat % 2 ^ 52 + place s.job.ctableN.toNat 52)
  | 0x00E => some s.job.asid.toNat
  | 0x00F => some s.launch.seed.toNat
  | 0x100 => some s.trapq.toNat
  | 0x101 => some s.faultq.toNat
  | _ => if 0x180 ≤ n ∧ n ≤ 0x1DF then some (s.zone (n - 0x180)).entry.toNat else none

/-- Reads a system register (R223). -/
def execMfs (f : Args) (s : State) : Out :=
  let n := regNo f.b
  let act := s.active f.guard
  let v := s.sysReg n
  guarded ((stopIf (regPriv n && !s.fur.priv) .priv).or (stopIf v.isNone .illegal)) s
    (if act = 0 then s.advance
     else ((if regTimed n then s.clearDetres else s).setX (xNo f.a) ⟨v.getD 0, false⟩).advance)

/-- Writes `CRUISE`, `BARTO`, `TRAPQ` or `FAULTQ` for plots that start later (R223). -/
def execMts (f : Args) (s : State) : Out :=
  let n := regNo f.a
  let v := s.x (xNo f.b)
  let bad := !(n == 0x009 || n == 0x00A || n == 0x100 || n == 0x101)
    || (n == 0x009 && ((decide (1 ≤ v.toNat) && decide (v.toNat ≤ 3)) || decide (16 < v.toNat)))
  let s1 : State := match n with
    | 0x009 => { s with cruise := v.toNat }
    | 0x00A => { s with barto := v.toNat }
    | 0x100 => { s with trapq := v }
    | _ => { s with faultq := v }
  guarded ((stopIf (!s.fur.priv) .priv).or (stopIf bad .illegal)) s s1.advance

/-! ### `SLUICE`, `XLINV`, `XLSYNC` (R225, R226, R350) -/

/-- Writes a zone's sluice entry after its checks. -/
def execSluice (f : Args) (s : State) : Out :=
  let z := s.uniU (s.active f.guard) f.b
  let v := s.x (xNo f.c)
  guarded ((stopIf (!s.fur.priv) .priv).or <| (s.namesStop [f.b]).or (stopIf (decide (95 < z.v) || !s.sluiceOk z.v v) .illegal)) s
    (s.sluiceWrite z.v v).advance

/-- An ASID operand, an n16 value. -/
def State.asidOf (s : State) (f : Args) (o : Operand) : BitVec 16 := BitVec.ofNat 16 (s.uniN 16 (s.active f.guard) o).v

/-- Drops the translations of an address of an ASID (R226). -/
def execXlinvVa (f : Args) (s : State) : Out :=
  let a := s.asidOf f f.c
  let va := (s.x (xNo f.b)).toNat
  guarded ((stopIf (!s.fur.priv) .priv).or (s.namesStop [f.c])) s (s.dropTlb fun e => e.covers a va).advance
/-- Drops the translations of an ASID (R226). -/
def execXlinvAsid (f : Args) (s : State) : Out :=
  let a := s.asidOf f f.b
  guarded ((stopIf (!s.fur.priv) .priv).or (s.namesStop [f.b])) s (s.dropTlb fun e => e.asid == a).advance
/-- Drops every translation (R226). -/
def execXlinvAll (_f : Args) (s : State) : Out :=
  guarded (stopIf (!s.fur.priv) .priv) s (s.dropTlb fun _ => true).advance
/-- Completes: in this model an invalidation has taken effect, and every walk has ended, at each instruction (R226). -/
def execXlsync (_f : Args) (s : State) : Out := guarded (stopIf (!s.fur.priv) .priv) s s.advance

/-! ### Kernel calls (R323) -/

/-- Results of a kernel call. -/
def kDone : Nat := 0
def kDenied : Nat := 1
def kNoMem : Nat := 2
def kBad : Nat := 3

/-- Bytes of a page by its SIZE code (R321). -/
def sizeBytes (code : Nat) : Nat := match code with | 0 => 2 ^ 16 | 1 => 2 ^ 21 | 2 => 2 ^ 26 | _ => 2 ^ 30
def sizeCode (bytes : Nat) : Nat := if bytes = 2 ^ 16 then 0 else if bytes = 2 ^ 21 then 1 else if bytes = 2 ^ 26 then 2 else 3

/-- Writes the entries of a leaf: a 64 MiB page fills 32 (R321). -/
def State.setLeaves (s : State) (j : Job) (va code entry : Nat) : State :=
  match code with
  | 0 => s.setLeaf va 3 entry 3 j.root
  | 1 => s.setLeaf va 2 entry 3 j.root
  | 2 => (List.range 32).foldl (fun t i => t.setLeaf (va + 2 ^ 21 * i) 2 entry 3 j.root) s
  | _ => s.setLeaf va 1 entry 3 j.root

/-- Counts pages of a job. -/
def State.countPages (s : State) (jid : Nat) (near : Bool) (d : Int) : State :=
  s.modJob jid fun j =>
    if near then { j with pagesNear := (j.pagesNear + d).toNat } else { j with pagesFar := (j.pagesFar + d).toNat }

/-- KMAP: `x4` holds SIZE, R, W and X as a leaf does (log entry 25). -/
def State.kMap (s : State) : State × Nat :=
  match s.jobByAsid (BitVec.ofNat 16 (s.x 2).toNat) with
  | none => (s, kDenied)
  | some j =>
    let va := (s.x 3).toNat
    let a := (s.x 4).toNat
    let code := bitsOf a 2 2
    let size := sizeBytes code
    match j.regionOf va with
    | none => (s, kBad)
    | some r =>
      let pages := size / pageSize
      if va % size != 0 || decide (r.base.toNat + r.len < va + size) || s.walk j va != .invalid then (s, kBad)
      else if (bitOf a 4 && !r.rd) || (bitOf a 5 && !r.wr) then (s, kDenied)
      else
        let quota := match s.slotOf j.slot with | some t => if r.near then t.near else t.far | none => 0
        if quota < s.slotPages j.slot r.near + pages then (s, kNoMem)
        else match s.allocFrame r.die.toNat r.near size with
          | none => (s, kNoMem)
          | some (pa, s1) =>
            ((s1.setLeaves j va code (leafEntry pa code (bitOf a 4) (bitOf a 5) (bitOf a 6) false j.keySlot)).countPages j.id r.near pages, kDone)

/-- A job in flight uses a page (R359). -/
def State.pageBusy (s : State) (jid va size : Nat) : Bool :=
  s.ejobs.any fun e => e.job == jid && e.regions.any (regionHits va size)

/-- KUNMAP. -/
def State.kUnmap (s : State) : State × Nat :=
  match s.jobByAsid (BitVec.ofNat 16 (s.x 2).toNat) with
  | none => (s, kDenied)
  | some j =>
    match s.walk j (s.x 3).toNat with
    | .leaf e =>
      if e.p then (s, kDenied)
      else
        let s1 := (s.setLeaves j e.va (sizeCode e.size) 0).dropTlb fun t => t.covers j.asid e.va
        (({ s1 with freed := (e.pa, e.size) :: s1.freed }).countPages j.id (isNear e.pa) (-((e.size / pageSize : Nat) : Int)), kDone)
    | _ => (s, kBad)

/-- KMOVE: `x4` holds the die and `x5` the channel of a far frame (log entries 24, 25). -/
def State.kMove (s : State) : State × Nat :=
  match s.jobByAsid (BitVec.ofNat 16 (s.x 2).toNat) with
  | none => (s, kDenied)
  | some j =>
    match s.walk j (s.x 3).toNat with
    | .leaf e =>
      if e.p then (s, kDenied)
      else if 3 < (s.x 4).toNat || (!isNear e.pa && decide (31 < (s.x 5).toNat)) then (s, kBad)
      else match s.frameAt (s.x 4).toNat (isNear e.pa) (s.x 5).toNat e.size with
        | none => (s, kNoMem)
        | some (pa, s1) =>
          let s2 := s1.moveFrame e.pa pa e.size
          let s3 := (s2.setLeaves j e.va (sizeCode e.size) (leafEntry pa (sizeCode e.size) e.r e.w e.x e.p j.keySlot)).dropTlb
            fun t => t.covers j.asid e.va
          ({ s3 with freed := (e.pa, e.size) :: s3.freed }, kDone)
    | _ => (s, kBad)

/-- Every cause (R324). -/
def allCauses : List Cause :=
  [.illegal, .priv, .pcrange, .budget, .latch, .owner, .align, .addr, .page, .splits, .shapefmt, .copyflt, .scope, .yokemis,
   .binbusy, .yieldovr, .bartimeout, .arena, .user, .rngwrap, .legacy, .memecc, .integrity, .diverge, .sensor, .collmis,
   .netrefuse, .netdown, .transl, .nobucket, .bindfail, .launchfmt, .loadfmt, .feature, .hint, .pinrej, .quota]
def causeOf (n : Nat) : Option Cause := allCauses.find? fun c => (causeCode c).toNat == n

/-- KEND: the job ends by R326, its own record in the queue beside the call's. -/
def State.kEnd (s : State) : State × Nat :=
  match s.jobByAsid (BitVec.ofNat 16 (s.x 2).toNat), causeOf (s.x 3).toNat with
  | none, _ => (s, kDenied)
  | some _, none => (s, kBad)
  | some j, some c => (s.jobFault j.id 0 {} c, kDone)

/-- KEVENT: EVTRAP, or EVJOBEND where the job has ended by a fault (log entry 25); the body lies in the caller's space. -/
def State.kEvent (s : State) : State × Nat :=
  match s.jobOfAsid (BitVec.ofNat 16 (s.x 2).toNat) with
  | none => (s, kDenied)
  | some j =>
    let n := if j.faulted.isSome then 34 else 32
    let body := (List.range n).map fun i => BitVec.ofNat 64 (s.view false ((s.x 3).toNat + 8 * i) 8).v
    (s.send (if j.faulted.isSome then 0x80 else 0x81) j.slot j.asid body, kDone)

/-- The unit that a number names: kind in bits [7:0], index above; a sensor's zone from bit 16 up (log entry 24). -/
def unitOf (v : Nat) : Option UnitId :=
  let n := v / 256
  match v % 256 with
  | 0 => if n < 384 then some (.core n) else none
  | 1 => if n < 192 then some (.homeSlice n) else none
  | 2 => if n < 128 then some (.channel n) else none
  | 3 => some (.bridge n)
  | 4 => if n < 32 then some (.port n) else none
  | 5 => if n / 256 < 96 && n % 256 < 8 then some (.sensor (n / 256) (n % 256)) else none
  | _ => none

/-- KRETIRE. -/
def State.kRetire (s : State) : State × Nat :=
  match unitOf (s.x 2).toNat with
  | none => (s, kBad)
  | some u => (s.retire u, kDone)

/-- A kernel call's effect, by its number. -/
def State.kernelCall (s : State) (k : Nat) : State × Nat :=
  match k with
  | 512 => s.kMap
  | 513 => s.kUnmap
  | 514 => s.kMove
  | 515 => s.kEnd
  | 516 => s.kEvent
  | 517 => s.kRetire
  | _ => (s, kBad)

/-- The page that a kernel call waits for (R359), and the reading of an event's body (R192). -/
def State.callWait (s : State) (k : Nat) : Option Stop :=
  let j := s.jobByAsid (BitVec.ofNat 16 (s.x 2).toNat)
  match k with
  | 513 | 514 =>
    match j with
    | none => none
    | some j => match s.walk j (s.x 3).toNat with | .leaf e => stallIf (s.pageBusy j.id e.va e.size) | _ => none
  | 516 => s.spanStop .load ((lowest s.m0).getD 0) (s.x 3).toNat 272
  | _ => none

/-- The trap's record: it names the `TRAP`, its program counter the next frame (R224, R328). -/
def State.trapRec (s : State) (k : Nat) : TrapRec :=
  { s.fillTrap { cause := .user, code := BitVec.ofNat 10 k } with pc := s.fur.npc }

/-- A kernel call (R323): the furrow resumes at the next frame with the result in `x1`; it waits for room in the trap
queue, where its record is written RETURNED (log entry 25). -/
def kernelTrap (k : Nat) (s : State) : Out :=
  if s.trapsFull then
    .next (if s.launch.cancel then s.endFur s.fur.id else s.serveTraps)
  else
    let t := (s.advance.endRegion).handledRecord (s.trapRec k)
    let r := t.kernelCall k
    guarded (s.callWait k) s (if r.1.fur.id = s.fur.id then r.1.setX 1 ⟨r.2, false⟩ else r.1)

/-- A `USER` trap with code `k` (R224): the region ends, and the furrow waits for room in the trap queue. -/
def userTrap (k : Nat) (s : State) : Out :=
  let r := s.trapRec k
  let t := s.advance.endRegion
  if s.trapsFull then .next (t.setFur { t.fur with status := .trapFull { r with time := some s.timeNs } }).waitOr else t.writeTrap r

/-- `TRAP k`: a kernel call in a privileged furrow where `k` is at least 512 (R323), else a `USER` trap. -/
def trapOf (k : Nat) (s : State) : Out := if s.fur.priv && decide (512 ≤ k) then kernelTrap k s else userTrap k s

/-- KMAP (R323). -/
def execKmap (s : State) : Out := trapOf 512 s
/-- KUNMAP (R323). -/
def execKunmap (s : State) : Out := trapOf 513 s
/-- KMOVE (R323). -/
def execKmove (s : State) : Out := trapOf 514 s
/-- KEND (R323). -/
def execKend (s : State) : Out := trapOf 515 s
/-- KEVENT (R323). -/
def execKevent (s : State) : Out := trapOf 516 s
/-- KRETIRE (R323). -/
def execKretire (s : State) : Out := trapOf 517 s

/-! ### `TRAP` and `TRET` (R224) -/

/-- A `USER` trap, or a kernel call in a privileged furrow (R224, R323). -/
def execTrap (f : Args) (s : State) : Out := trapOf (immNat f.c) s

/-- The trapped furrow whose record lies at a physical address, with its sequence number. -/
def State.trapAtPa (s : State) (pa : Nat) : Option (Nat × Nat) :=
  s.allFurs.findSome? fun f => match f.status with
    | .trapped seq _ _ e => if e == pa && Memory.readN s.mem (pa + 88) 8 == seq && !bitOf (Memory.readN s.mem pa 4) 18 then some (f.id, seq) else none
    | _ => none

/-- Resumes the furrow of a trap record (R224). -/
def execTret (f : Args) (s : State) : Out :=
  let n := xNo f.b
  let va := (s.x n).toNat
  let hit := (s.pa .load va).bind s.trapAtPa
  guarded ((stopIf (!s.fur.priv) .priv).or <| (rollIf (s.xp n)).or <| (s.spanStop .load ((lowest s.m0).getD 0) va 256).or
      (stopIf hit.isNone .illegal)) s
    (match hit with
     | some p => (s.returnTrap p.1 ((s.pa .load va).getD 0) p.2).advance
     | none => s)

end Sys2Proof.Machine
end

