-- ==== Sys2Proof/Machine/Checks.lean ====
section
/-! DEFINITION. What the module's checks of its data find, and what follows (R43, R331 to R334): slice files, tiles and silos, L1,
L2 and near memory, far memory. -/

namespace Sys2Proof.Machine

/-- An uncorrectable error of a group of a lane: every slice of it is poisoned, in that lane (R43, R49). -/
def Furrow.sickGroup (f : Furrow) (lane group : Nat) : Furrow :=
  { f with lanes := modAt (fun l => { l with poison := l.poison ||| BitVec.ofNat 1024 (0xFFFF * 2 ^ (16 * group)) }) f.lanes lane }

/-- A slice-file error: a corrected one is only counted (R43, R334). -/
def State.sliceError (s : State) (fid lane group : Nat) (corrected : Bool) : State :=
  match s.furOf fid with
  | none => s
  | some f =>
    if !(f.status.resident && decide (lane < 32) && decide (16 * group < f.budget)) then s
    else if corrected then
      match s.plotOf f.plot with
      | some p => if p.status == .resident then s.charge .coreCorrected (.core (p.core - 1)) else s
      | none => s
    else s.modFur fid (·.sickGroup lane group)

/-- An uncorrectable error in a plot's tiles, bins, harrow records or uncommitted stores: the plot rolls back, and its core is
charged (R331, R334). -/
def State.plotError (s : State) (pid : Nat) : State :=
  match s.plotOf pid with
  | some p => if p.status == .resident then (s.charge .coreFault (.core (p.core - 1))).rollPlot pid else s
  | none => s

/-- A parity error in L1: the line is dropped, to be fetched again (R331). -/
def State.l1Error (s : State) (core line : Nat) : State :=
  s.modCore core fun c => { c with l1 := c.l1.filter fun x => x.sector / 2 != line }

/-- Poisons a sector of memory, of which no clean copy may be read from it any more. -/
def State.sicken (s : State) (sec : Nat) : State := { s with poisoned := setPoison s.poisoned sec true }

/-- A reliability or security entry of a sector, at no core (R328). -/
def sectorEntry (kind unit_ sec : Nat) (asid : BitVec 16) (tagskip : Bool) (c : Cause) : FaultRec :=
  { code := causeCode c, kind := kind, tagskip := tagskip, asid := asid, die := homeDie (64 * sec), unit := unit_, addr := 64 * sec }

/-- An uncorrectable error in L2 or near memory: the sector is poisoned, `MEMECC` is recorded, and its home slice is charged
(R331, R334). -/
def State.memError (s : State) (sec : Nat) : State :=
  if !paOk (64 * sec) then s
  else
    let slice := homeSlice (64 * sec)
    ((s.sicken sec).pushFault (sectorEntry 2 slice sec 0 false .memecc)).charge .sliceUncorrectable (.homeSlice (48 * homeDie (64 * sec) + slice))

/-! ### Far memory (R332, R333) -/

/-- The job whose key slot a sector's page carries; none for the free pool's. -/
def State.ownerOf (s : State) (sec : Nat) : Option Job :=
  s.allJobs.find? fun j => (leafCells s.mem 3 j.root).any fun c => decide (c.2.1 ≤ 64 * sec ∧ 64 * sec < c.2.1 + c.2.2)

/-- The XTS pair and the tag key of a sector (R332). -/
def keysOf (o : Option Job) : BitVec 512 × BitVec 256 := match o with | some j => (j.xts, j.ktag) | none => (Config.xtsPair 0, Config.tagKey 0)

/-- A sector as its channel keeps it (R332): the ciphertext, tweaked by PA[47:6]. -/
def State.cipherOf (s : State) (sec : Nat) : BitVec 512 :=
  xtsEncrypt (keysOf (s.ownerOf sec)).1 (BitVec.ofNat 128 sec) (Memory.sector s.mem sec)

/-- A sector's data as an authentic read gives it: the model's own where the ciphertext is that of its data, and else what an older
one holds (R332). -/
def State.farData (s : State) (sec : Nat) (cipher : BitVec 512) : State :=
  if cipher = s.cipherOf sec then s
  else s.setMem (Memory.writeN s.mem (64 * sec) 64 (xtsDecrypt (keysOf (s.ownerOf sec)).1 (BitVec.ofNat 128 sec) cipher).toNat)

/-- A tag that does not match: the sector is poisoned, the job that owns the key slot ends, and a KIND 4 entry and a security record
are written (R333). The read was made for the furrow `fid` or, 0, for no instruction: then the record names no core (R326). -/
def State.integrity (s : State) (sec fid : Nat) : State :=
  let o := s.ownerOf sec
  let asid := (o.map (·.asid)).getD 0
  let s1 := (s.sicken sec).pushFault (sectorEntry 4 (channelOf (64 * sec) % 32) sec asid false .integrity)
  let s2 := { s1 with fleet := { s1.fleet with security := s1.fleet.security + 1 } }
  match o with
  | none => s2
  | some j =>
    match (s.furOf fid).bind fun f => (s.plotOf f.plot).map fun p => (f, p) with
    | some (f, p) =>
      if ((s.launchOf p.launch).getD {}).job = j.id then
        s2.jobFault j.id p.launch (s2.sourceOf p f.logical.toNat (f.splits.getD f.cur {}).pc (s2.vaOf p (64 * sec))) .integrity
      else s2.jobFault j.id 0 { die := homeDie (64 * sec) } .integrity
    | none => s2.jobFault j.id 0 { die := homeDie (64 * sec) } .integrity

/-- The judgement of a far-memory read (R333). -/
def State.farRead (s : State) (sec : Nat) (ecc : Ecc) (cipher : BitVec 512) (tag : BitVec 56) (fid : Nat) : State :=
  let ch := channelOf (64 * sec)
  if !paOk (64 * sec) || isNear (64 * sec) then s
  else
    let good := tag == sectorTag (keysOf (s.ownerOf sec)).2 sec cipher
    match ecc with
    | .uncorrectable =>
      ((s.sicken sec).pushFault (sectorEntry 2 (ch % 32) sec 0 true .memecc)).charge .channelUncorrectable (.channel ch)
    | e =>
      if good then (if e == .corrected then (s.farData sec cipher).charge .channelCorrected (.channel ch) else s.farData sec cipher)
      else s.integrity sec fid

end Sys2Proof.Machine
end

