-- ==== Sys2Proof/Machine/Tiles.lean ====
section
/-! DEFINITION. Tile-side instructions in general (R227 to R229), teams and the yoke (R233, R234, R256, R257), and the moves
between lanes, tiles and bins (R231, R232, R243). -/

namespace Sys2Proof.Machine

/-! ### The yoke (R233, R234) -/

/-- What an instruction does once: from the furrow that supplies per-lane data, and the mask of its issuers. -/
abbrev Perform := Furrow → Mask → State → Except Stop State

/-- The logical furrow in the issue stage as a mask. -/
def State.me (s : State) : Mask := BitVec.ofNat 32 (2 ^ s.fur.logical.toNat)

/-- Furrows that still receive support sizes wait for them (R245; log entry 26). -/
def State.holdCounts (s : State) : State :=
  let ids := s.core.seq.flatMap fun (o : SeqOp) => o.listed.map fun p => p.1
  if ids.isEmpty then s
  else s.mapFurs fun f => if ids.contains f.id && f.status == .ready then { f with status := .counts } else f

/-- The end of a tile-side instruction: past it, its region closed (R228). -/
def State.tileDone (s : State) : State := s.endRegion.advance.holdCounts.waitOr

/-- Every listed furrow departs from yoke `j` (R234). -/
def State.depart (s : State) (j : Nat) (team : Mask) : State :=
  let s1 := s.syncOps s.plot.id s.plot.core team
  let s2 := s1.setPlot { s1.plot with yokes := s1.plot.yokes.filter (·.j ≠ j) }
  let s3 := s2.mapFurs fun f =>
    if f.plot == s.plot.id && f.status == .yoke j then { f.pass with yokes := j, region := none }
    else if f.plot == s.plot.id && f.status == .saved && team.getLsbD f.logical.toNat then { f with yokes := j }
    else f
  s3.setFur { s3.fur with yokes := j }

/-- The furrow in the issue stage arrives at yoke `j` and waits. -/
def State.arrive (s : State) (j : Nat) (i : Instr) (ref : List Word) : State :=
  let y : Yoke := match s.plot.yokes.find? (·.j = j) with
    | some y => { y with arrived := y.arrived ||| s.me }
    | none => { j := j, instr := i, ref := ref, arrived := s.me, fur := s.fur.id, since := s.cycles }
  let s1 := s.setPlot { s.plot with yokes := y :: s.plot.yokes.filter (·.j ≠ j) }
  (s1.setFur { s1.fur with status := .yoke j }).waitOr

/-- An outcome of `Except`, its stop taken as `halt` says. -/
def answerBy (halt : Stop → Out) : Except Stop State → Out
  | .ok t => .next t
  | .error st => halt st

/-- A tile-side instruction (R228, R234) whose stops `halt` takes: `names` are its operands of R11, `unis` the uniform ones
among them, `xs` its x-register fields, `data` its per-lane source. -/
def tileSideBy (halt : State → Stop → Out) (i : Instr) (g : BitVec 4) (names unis : List Operand) (xs : List Nat) (data : Option Operand)
    (perform : Perform) (s : State) : Out :=
  let act := s.active g
  let vals := unis.map fun o => s.uniU act o
  let j := s.fur.yokes + 1
  let yoked := s.plot.team &&& s.me != 0
  let old := s.plot.yokes.find? (·.j = j)
  let first := !yoked || old.isNone
  let sick := match data with
    | some o => first && lanesWhere act (fun k => (s.src false 64 o k).p) != 0
    | none => false
  match (stopIf (decide (1 < s.splitCount)) .illegal).or <| (s.namesStop names).or
      (rollIf (vals.any (fun (x : Src) => x.p) || xs.any s.xp || sick)) with
  | some st => halt s st
  | none =>
    if !yoked then answerBy (halt s) do return (← perform s.fur s.me s).tileDone
    else
      let ref := vals.map (fun (x : Src) => BitVec.ofNat 64 x.v) ++ xs.map s.x
      let here := ((old.map (·.arrived)).getD 0 ||| s.me ||| s.savedMask) &&& s.plot.team
      if old.any fun y => y.instr ≠ i || y.ref ≠ ref then
        halt s (.fault { cause := .yokemis, arrived := (old.map (·.arrived)).getD 0, yokeJ := BitVec.ofNat 16 j })
      else if here = s.plot.team then
        answerBy (halt s) do
          return ((← perform ((old.bind fun y => s.furOf y.fur).getD s.fur) s.plot.team s).depart j s.plot.team).tileDone
      else .next (s.arrive j i ref)

/-- A tile-side instruction of the core's own (R228, R234). -/
def tileSide (i : Instr) (g : BitVec 4) (names unis : List Operand) (xs : List Nat) (data : Option Operand)
    (perform : Perform) (s : State) : Out :=
  tileSideBy State.stop i g names unis xs data perform s

/-! ### Tiles, bins and what they wait for (R227, R229) -/

/-- The field of a tile or bin. -/
def fieldNo (o : Operand) (n : Nat) : Nat := o.rawBits.toNat % 2 ^ n

def ownerStop : Stop := stopOf .owner
def illegalStop : Stop := stopOf .illegal

def State.tileOr (s : State) (k : Nat) : Except Stop Tile :=
  match s.tile k with | some t => .ok t | none => .error ownerStop
def State.bin (s : State) (n : Nat) : Option Bin := s.plot.bins[n]?
def State.binOr (s : State) (n : Nat) : Except Stop Bin :=
  match s.bin n with | some b => .ok b | none => .error ownerStop
def State.setBin (s : State) (n : Nat) (b : Bin) : State := s.setPlot { s.plot with bins := setAt s.plot.bins n b }

/-- The tiles of its own plot that a job has still to write: a copy's tile, and those of a relay's remaining hops that list the
plot (R213, R215). -/
def State.jobTiles (s : State) (e : EJob) : List Nat :=
  let t := tplParse e.card.toNat
  match e.kind with
  | .copy => if t.kind == 1 then [t.dtile] else []
  | .relay =>
    let lp := ((s.plotOf e.plot).map (·.lplot)).getD 0
    (e.chain.drop e.hop).filterMap fun c => if chainPlot c == lp then some (chainTile c) else none
  | _ => []

/-- Whether an operation of a mask of issuers waits for an earlier one (R229, R256; log entry 27). -/
def waitsFor (before issuers : Mask) (id : Nat) : Bool := before &&& issuers != 0 || Config.raceWaits id

/-- The plot's queued operations. -/
def State.ops (s : State) : List SeqOp := s.core.seq.filter (·.plot = s.plot.id)

/-- Whether an earlier operation or copy on a tile holds an instruction back. -/
def State.tileBusy (s : State) (issuers : Mask) (k : Nat) : Bool :=
  (s.ops.any fun (o : SeqOp) => (o.tiles ++ o.tiles2).contains k && waitsFor o.before issuers o.id)
    || s.ejobs.any fun (e : EJob) => e.plot == s.plot.id && (s.jobTiles e).contains k && waitsFor e.before issuers e.id

/-- Whether any operation or copy of the plot names a tile (R231). -/
def State.tileNamed (s : State) (k : Nat) : Bool :=
  (s.ops.any fun (o : SeqOp) => (o.tiles ++ o.tiles2).contains k) || s.ejobs.any fun (e : EJob) => e.plot == s.plot.id && (s.jobTiles e).contains k

/-- The operations on a bin that an instruction is ordered after (R229). -/
def State.binOrdered (s : State) (issuers : Mask) (n : Nat) : Bool :=
  s.ops.any fun (o : SeqOp) => o.bins.contains n && o.before &&& issuers != 0

/-! ### `TEAM` (R233) -/

/-- The logical furrows that the plot has (R61). -/
def State.plotFurs (s : State) : Mask :=
  maskOf fun k => s.allFurs.any fun f => f.plot == s.plot.id && f.logical.toNat == k

/-- A value that the team register may take from the furrow in the issue stage. -/
def State.teamLegal (s : State) (v : Mask) : Bool :=
  let n := popcount v.toNat 32
  decide (2 ≤ n ∧ n ≤ 6) && v &&& s.me != 0 && v &&& ~~~s.plotFurs == 0

/-- Sets the register, and each furrow's count of yoked issues to 0. A listed furrow that waits outside becomes active by the next swap
of its core, which finds the team split (`State.teamSplit`, R24). -/
def State.setTeam (s : State) (v : Mask) : State :=
  let s1 := s.mapFurs fun f => if f.plot == s.plot.id then { f with yokes := 0 } else f
  s1.setPlot { s1.plot with team := v, yokes := [] }

/-- Sets, confirms or clears the plot's team register (R233); a `TEAM` of another value is yoked where its furrow is listed
(R257). -/
def execTeam (f : Args) (s : State) : Out :=
  let act := s.active f.guard
  let x := match f.b with | .imm _ => s.uni act f.b | o => s.uniU act o
  let v := BitVec.ofNat 32 x.v
  let chk := (stopIf (decide (1 < s.splitCount) || s.fur.ownFrame.isSome) .illegal).or <| (s.namesStop [f.b]).or (rollIf x.p)
  if s.plot.team ≠ 0 ∧ v ≠ s.plot.team then
    match stopIf s.fur.ownFrame.isSome .illegal with
    | some st => s.stop st
    | none => tileSide (.team f) f.guard [f.b] [f.b] [] none (fun _ _ t => if v = 0 then .ok (t.setTeam 0) else .error illegalStop) s
  else
    guarded (chk.or (stopIf (v != s.plot.team && !s.teamLegal v) .illegal)) s
      (if v = s.plot.team then s else s.setTeam v).tileDone

/-! ### Tiles (R231, R232) -/

/-- A control word (R58). -/
def tileCtl (fmt : BitVec 5) (rows bytes : Nat) (scaled : Bool) : BitVec 32 :=
  BitVec.ofNat 32 (fmt.toNat + place (rows - 1) 5 + place (bytes - 1) 12 + place scaled.toNat 20 + place 1 21)

/-- The values that `TCFG` accepts (R231). -/
def tcfgOk (fmt : BitVec 5) (rows bytes : Nat) (scaled : Bool) : Bool :=
  decide (1 ≤ rows ∧ rows ≤ 128 ∧ 1 ≤ bytes ∧ bytes ≤ 256)
    && (if fmt == 16 then bytes % 8 == 0 else decide (fmtBits fmt < 8) || bytes % (fmtBits fmt / 8) == 0)
    && (!scaled || fmtScalable fmt)

/-- Writes a tile's control word, once nothing names the tile (R231, R275). -/
def execTcfg (f : Args) (s : State) : Out :=
  tileSide (.tcfg f) f.guard [f.b, f.c] [f.b, f.c] [] none (fun src _ t => do
    let r := t.setFur src
    let act := r.active f.guard
    let k := fieldNo f.a 4
    let tile ← t.tileOr k
    let rows := (r.uniU act f.b).v
    let bytes := (r.uniU act f.c).v
    let c ← (match t.resolve f.fmt with | some c => .ok c | none => .error illegalStop)
    let scaled := c.scheme == 1 || f.ext
    orThrow (stopIf (!tcfgOk c.fmt rows bytes scaled) .illegal)
    orThrow (stallIf (t.tileNamed k))
    return t.setTile k { tile with ctl := tileCtl c.fmt rows bytes scaled }) s

/-- Bytes 8i to 8i + 7 of a row, or of the scales where the row is 128 (R232). -/
def Tile.laneWord (t : Tile) (row i : Nat) : Nat :=
  if row = 128 then
    (if i < 8 then (List.range 8).foldl (fun acc b => acc + place (sget (0x7F : Byte) t.scales (8 * i + b)).toNat (8 * b)) 0 else 0)
  else t.readN (row * tileRowBytes t + 8 * i) (min 8 (tileRowBytes t - 8 * i))

def Tile.putWord (t : Tile) (row i v : Nat) : Tile :=
  if row = 128 then
    (if i < 8 then
      { t with scales := (List.range 8).foldl (fun l b => sset (0x7F : Byte) l (8 * i + b) (BitVec.ofNat 8 (v / 2 ^ (8 * b)))) t.scales }
     else t)
  else t.writeN (row * tileRowBytes t + 8 * i) (min 8 (tileRowBytes t - 8 * i)) v

/-- A row that `TGET` and `TSET` take. -/
def rowOk (t : Tile) (row : Nat) : Bool := tileValid t && (decide (row < tileRows t) || row == 128)

/-- Reads a tile row or its scales into lanes (R232). -/
def execTget (f : Args) (s : State) : Out :=
  let act := s.active f.guard
  let row := s.uniU act f.c
  let k := fieldNo f.b 4
  let t := (s.tile k).getD {}
  let chk := (s.namesStop [f.a, f.c]).or <| (rollIf row.p).or <| (stopIf (s.tile k).isNone .owner).or <|
    (stallIf (s.tileBusy s.me k)).or (stopIf (!rowOk t row.v) .illegal)
  guarded chk s (s.result f.a false 64 act fun i => ⟨t.laneWord row.v i, false⟩).advance

/-- Writes a tile row or its scales from lanes (R232). -/
def execTset (f : Args) (s : State) : Out :=
  tileSide (.tset f) f.guard [f.b, f.c] [f.b] [] (some f.c) (fun src issuers t => do
    let r := t.setFur src
    let act := r.active f.guard
    let k := fieldNo f.a 4
    let tile ← t.tileOr k
    let row := (r.uniU act f.b).v
    orThrow (stallIf (t.tileBusy issuers k))
    orThrow (stopIf (!rowOk tile row) .illegal)
    return t.setTile k ((lanesOf act).foldl (fun x i => x.putWord row i (r.src false 64 f.c i).v) tile)) s

/-! ### Bins (R59, R60, R243, R244) -/

def Bin.elem (b : Bin) (row col : Nat) : BitVec 32 := sget (0 : BitVec 32) b.elems (128 * row + col)
def Bin.setElem (b : Bin) (row col : Nat) (v : BitVec 32) : Bin := { b with elems := sset (0 : BitVec 32) b.elems (128 * row + col) v }
def Bin.record (b : Bin) (row : Nat) : BitVec 256 := sget (0 : BitVec 256) b.recs row
def Bin.setRec (b : Bin) (row : Nat) (v : BitVec 256) : Bin := { b with recs := sset (0 : BitVec 256) b.recs row v }
/-- Clears a record's VALID. -/
def Bin.invalidate (b : Bin) (row : Nat) : Bin := b.setRec row (b.record row &&& ~~~(BitVec.ofNat 256 (2 ^ 78)))
/-- Clears VALID of every record. -/
def Bin.invalidateAll (b : Bin) : Bin := (List.range 128).foldl Bin.invalidate b

/-- What lane `i` reads by a selector (R243). -/
def Bin.laneWord (b : Bin) (sel i : Nat) : Nat :=
  if sel < 256 then
    (b.elem (sel / 2) (64 * (sel % 2) + 2 * i)).toNat + place (b.elem (sel / 2) (64 * (sel % 2) + 2 * i + 1)).toNat 32
  else bitsOf (b.record (32 * ((sel - 256) / 4) + i)).toNat (64 * (sel % 4)) 64

/-- Writes lane `i` by a selector: elements, which clears the row's VALID, or TAU and AUX (R243). -/
def Bin.putWord (b : Bin) (sel i v : Nat) : Bin :=
  if sel < 256 then
    ((b.setElem (sel / 2) (64 * (sel % 2) + 2 * i) (BitVec.ofNat 32 v)).setElem (sel / 2) (64 * (sel % 2) + 2 * i + 1)
      (BitVec.ofNat 32 (v / 2 ^ 32))).invalidate (sel / 2)
  else
    let row := 32 * ((sel - 256) / 4) + i
    b.setRec row (BitVec.ofNat 256 (setBits (b.record row).toNat 0 64 v))

/-- Operations that write harrow records (R243). -/
def SeqKind.records : SeqKind → Bool
  | .drain .. | .prjsum .. => true
  | _ => false

/-- Whether an earlier operation on a bin holds a record read back (R229, R243). -/
def State.recordBusy (s : State) (issuers : Mask) (n : Nat) : Bool :=
  s.binOrdered issuers n || s.ops.any fun (o : SeqOp) => o.bins.contains n && o.kind.records && waitsFor o.before issuers o.id

/-- Reads bin elements or record words (R60, R243): the W form writes STEP with a data read. -/
def execBget (f : Args) (s : State) : Out :=
  let act := s.active f.guard
  let sel := s.uniU act f.c
  let n := fieldNo f.b 6
  let b := (s.bin n).getD {}
  let chk := (s.namesStop [f.a, f.c]).or <| (rollIf sel.p).or <| (stopIf (s.bin n).isNone .owner).or <|
    (stopIf (decide (272 ≤ sel.v)) .illegal).or (stallIf (decide (256 ≤ sel.v) && s.recordBusy s.me n))
  let s1 := s.result f.a false 64 act fun i => ⟨b.laneWord sel.v i, false⟩
  let s2 := match f.d with
    | .xreg x _ _ => if sel.v < 256 ∧ s.active f.g1 ≠ 0 then s1.setX x.toNat ⟨b.step, false⟩ else s1
    | _ => s1
  guarded chk s s2.advance

/-- Writes bin elements, or TAU and AUX (R60, R243). -/
def execBset (f : Args) (s : State) : Out :=
  tileSide (.bset f) f.guard [f.b, f.c] [f.b] [] (some f.c) (fun src issuers t => do
    let r := t.setFur src
    let act := r.active f.guard
    let n := fieldNo f.a 6
    let b ← t.binOr n
    let sel := (r.uniU act f.b).v
    orThrow (stopIf (decide (272 ≤ sel) || (decide (256 ≤ sel) && sel % 4 != 0)) .illegal)
    orThrow (stallIf (t.binOrdered issuers n || (decide (256 ≤ sel) && t.recordBusy issuers n)))
    orThrow (stopIf b.busy .binbusy)
    return t.setBin n ((lanesOf act).foldl (fun x i => x.putWord sel i (r.src false 64 f.c i).v) b)) s

end Sys2Proof.Machine
end

