-- ==== Sys2Proof/Machine/Harrow.lean ====
section
/-! DEFINITION. The harrow: records (R244), projections of rows (R246 to R251, R254), their adjoints (R252) and row
statistics (R253). Internal roundings are RNE32 and set no flag (R246). -/

namespace Sys2Proof.Machine

/-! ### FP32 steps -/

/-- The bits of a number rounded to FP32 by RNE. -/
def bits32 (x : Num) : Nat := (ieeeEncode 20 x 0 0 none).1
def rne32 (x : Num) : Num := ieeeDecode 20 (bits32 x)
def hAdd (a b : Num) : Num := rne32 (fAdd a b).1
def hSub (a b : Num) : Num := hAdd a b.neg
def hMul (a b : Num) : Num := rne32 (fMul a b).1
def hDiv (a b : Num) : Num := rne32 (fDiv a b).1
/-- acc + a × b, the product exact and the sum rounded once. -/
def hFma (acc a b : Num) : Num := rne32 (fAdd acc (fMul a b).1).1
/-- a × b / c, rounded once. -/
def hMulDiv (a b c : Num) : Num := rne32 (fDiv (fMul a b).1 c).1
/-- a > b; false where unordered. -/
def numGt (a b : Num) : Bool := fCmp a b == some 1
def plus0 : Num := .zero false false
/-- Left-to-right RNE32 sum. -/
def hSum (l : List Num) : Num := l.foldl hAdd plus0

/-! ### Records (R244) -/

/-- A row's record, with the MASK of the whole chain: bit c for column c of the drained row. -/
structure HRec where
  tau    : Nat := 0
  aux    : Nat := 0
  count  : Nat := 0
  sel    : Nat := 0
  valid  : Bool := false
  active : Bool := false
  len    : Nat := 0
  mask   : Nat := 0
deriving DecidableEq, Repr

/-- The record of bin `j` of the chain. -/
def HRec.pack (h : HRec) (j : Nat) : BitVec 256 :=
  BitVec.ofNat 256 (h.tau % 2 ^ 32 + place (h.aux % 2 ^ 32) 32 + place (h.count % 2 ^ 11) 64 + place (h.sel % 8) 75
    + place h.valid.toNat 78 + place h.active.toNat 79 + place (h.len % 2 ^ 11) 80 + place (bitsOf h.mask (128 * j) 128) 128)

def recUnpack (r : BitVec 256) : HRec :=
  let v := r.toNat
  { tau := bitsOf v 0 32, aux := bitsOf v 32 32, count := bitsOf v 64 11, sel := bitsOf v 75 3, valid := bitOf v 78
    active := bitOf v 79, len := bitsOf v 80 11, mask := bitsOf v 128 128 }

/-- The record of a row over a chain of bins: the first bin's, with every bin's MASK. -/
def chainRec (bins : List Bin) (row : Nat) : HRec :=
  let h := match bins with | b :: _ => recUnpack (b.record row) | [] => {}
  { h with mask := (mapIdxFrom (fun j (b : Bin) => place (recUnpack (b.record row)).mask (128 * j)) 0 bins).foldl (· + ·) 0 }

/-- The canonical NaN of a marked record (R246). -/
def nanBits : Nat := 0x7FC00000
def num32 (b : Nat) : Num := ieeeDecode 20 b
/-- A mask of columns. -/
def colMask (l : List Nat) : Nat := l.foldl (fun m c => m + 2 ^ c) 0

/-- A row that holds a NaN or an infinity (R246). -/
def badRow (x : List Num) : Bool := x.any fun v => v.isNaN || v.isInf

/-! ### Projections (R247 to R251) -/

/-- Inserts a column into a list sorted by value descending, equal values by column. -/
def insertDesc (p : Nat × Num) : List (Nat × Num) → List (Nat × Num)
  | [] => [p]
  | q :: rest => if numGt p.2 q.2 then p :: q :: rest else q :: insertDesc p rest

/-- The columns with their values, sorted (R248). -/
def sortDesc (x : List Num) : List (Nat × Num) := (mapIdxFrom (fun c v => (c, v)) 0 x).foldl (fun l p => insertDesc p l) []

/-- One step of R248 over the sorted row: prefix sum, step number, and the best (τ, c, K) so far. -/
def simplexFrom (r : Num) : List (Nat × Num) → Nat → Num → Option (Num × Num × Nat) → Option (Num × Num × Nat)
  | [], _, _, best => best
  | p :: rest, k, c, best =>
    let ck := hAdd c p.2
    let tk := hDiv (hSub ck r) (numInt k)
    simplexFrom r rest (k + 1) ck (if best.isNone || numGt p.2 tk then some (tk, ck, k) else best)

/-- τ, the prefix sum at K, K, and the support (R248). -/
def simplexOf (x : List Num) (r : Num) : Num × Num × Nat × List Nat :=
  let z := sortDesc x
  match simplexFrom r z 1 plus0 none with
  | some (t, c, k) => (t, c, k, (z.take k).map (·.1))
  | none => (plus0, plus0, 0, [])

/-- The sum of squares of R249. -/
def sqSum (x : List Num) : Num := x.foldl (fun s v => hFma s v v) plus0
/-- The maximum of a row. -/
def rowMax : List Num → Num
  | [] => plus0
  | v :: rest => rest.foldl (fun a b => (fMinMax false true a b).1) v
/-- e_c of R251. -/
def entTerms (x : List Num) (t xm : Num) : List Num :=
  let q := hDiv (num32 0x3FB8AA3B) t
  x.map fun v => rne32 (fExp2 (hMul (hSub v xm) q)).1

/-- A block of R250: start, length, sum, mean. -/
structure Block where
  start : Nat
  len   : Nat
  sum   : Num
  mean  : Num
deriving DecidableEq, Repr

/-- Pools the top of the stack while the block below it has the larger mean (R250); the stack's top is its head. -/
def pool : Block → List Block → List Block
  | b, [] => [b]
  | b, a :: rest =>
    if numGt a.mean b.mean then
      let s := hAdd a.sum b.sum
      let n := a.len + b.len
      pool { start := a.start, len := n, sum := s, mean := hDiv s (numInt n) } rest
    else b :: a :: rest

def monoBlocks (x : List Num) : List Block :=
  ((mapIdxFrom (fun c v => ({ start := c, len := 1, sum := v, mean := v } : Block)) 0 x).foldl (fun st b => pool b st) []).reverse

/-- A drained row and its record (R246 to R251, R254), with `NV` of a row that holds a NaN or an infinity. `old` is the
row's record before. -/
def drainRow (sel : Nat) (x : List Num) (p1 p2 : Num) (given : Bool) (old : HRec) : List Num × HRec × Flags :=
  let n := x.length
  let h : HRec := { sel := sel, valid := true, len := n }
  if sel != 0 && badRow x then (x.map fun _ => canonNaN, { h with tau := nanBits, aux := nanBits }, flNV)
  else match sel with
    | 0 => (x, { h with count := n }, 0)
    | 1 =>
      let r := if given then
          (num32 old.tau, num32 old.aux, 0, (mapIdxFrom (fun c v => (c, v)) 0 x).filterMap fun p => if numGt p.2 (num32 old.tau) then some p.1 else none)
        else simplexOf x p1
      let y := mapIdxFrom (fun c v => if r.2.2.2.contains c then (let d := hSub v r.1; if numGt d plus0 then d else plus0) else plus0) 0 x
      (y, { h with
        tau := if given then old.tau else bits32 r.1, aux := if given then old.aux else bits32 r.2.1
        count := r.2.2.2.length, mask := colMask r.2.2.2 }, 0)
    | 2 =>
      let s := if given then num32 old.aux else sqSum x
      let m := rne32 (fSqrt s).1
      let inside := match fCmp m p1 with | some c => decide (c ≤ 0) | none => false
      (if inside then x else x.map fun v => hMulDiv v p1 m,
       { h with tau := bits32 m, aux := if given then old.aux else bits32 s, count := n, active := !inside }, 0)
    | 3 =>
      let hit := (mapIdxFrom (fun c v => (c, v)) 0 x).filterMap fun p => if numGt p1 p.2 || numGt p.2 p2 then some p.1 else none
      (x.map fun v => (fMinMax true true (fMinMax false true v p1).1 p2).1, { h with count := n - hit.length, mask := colMask hit }, 0)
    | 4 =>
      let bs := monoBlocks x
      (bs.flatMap fun b => List.replicate b.len b.mean, { h with count := bs.length, mask := colMask (bs.map (·.start)) }, 0)
    | _ =>
      let xm := if given then num32 old.tau else rowMax x
      let es := entTerms x p1 xm
      let s := if given then num32 old.aux else hSum es
      (es.map fun e => hDiv e s,
       { h with tau := if given then old.tau else bits32 xm, aux := if given then old.aux else bits32 s, count := n }, 0)

/-! ### Row statistics (R253) -/

/-- A row's record after `PRJSUM`: VALID clear, MASK as it was. -/
def sumRow (mode : Nat) (x : List Num) (p1 : Num) (old : HRec) : HRec :=
  let h := { old with valid := false }
  if badRow x then { h with tau := nanBits, aux := nanBits, count := 0 }
  else match mode with
    | 0 => let r := simplexOf x p1; { h with tau := bits32 r.1, aux := bits32 r.2.1, count := r.2.2.1 }
    | 1 =>
      let above := x.filter fun v => numGt v (num32 old.tau)
      { h with count := above.length, aux := bits32 (hSum above) }
    | 2 => { h with tau := bits32 (rowMax x) }
    | 3 => { h with aux := bits32 (hSum (entTerms x p1 (num32 old.tau))) }
    | _ => { h with aux := bits32 (sqSum x) }

/-! ### Adjoints (R252) -/

/-- The columns of MONO's block that holds a column: its start and length. -/
def blockAt (starts : List Nat) (n c : Nat) : Nat × Nat :=
  let a := starts.foldl (fun acc v => if v ≤ c then max acc v else acc) 0
  let b := starts.foldl (fun acc v => if c < v then min acc v else acc) n
  (a, b - a)

/-- The vector–Jacobian product of a row (R252), with `NV` for a row without a projection; `g` has the row's LEN columns. -/
def adjRow (h : HRec) (x g : List Num) (p1 : Num) : List Num × Flags :=
  let n := g.length
  let col := fun c => g.getD c plus0
  if !h.valid || (num32 h.tau).isNaN then (g.map fun _ => canonNaN, flNV)
  else match h.sel with
    | 0 => (g, 0)
    | 1 =>
      let sup := (List.range n).filter h.mask.testBit
      let m := hDiv (hSum (sup.map col)) (numInt h.count)
      ((List.range n).map fun c => if h.mask.testBit c then hSub (col c) m else plus0, 0)
    | 2 =>
      if !h.active then (g, 0)
      else
        let d := (x.zip g).foldl (fun d p => hFma d p.1 p.2) plus0
        let a := hDiv d (num32 h.aux)
        ((x.zip g).map fun p => hMulDiv (hSub p.2 (hMul a p.1)) p1 (num32 h.tau), 0)
    | 3 => ((List.range n).map fun c => if h.mask.testBit c then plus0 else col c, 0)
    | 4 =>
      let starts := (List.range n).filter h.mask.testBit
      ((List.range n).map fun c =>
        let b := blockAt starts n c
        hDiv (hSum ((List.range b.2).map fun i => col (b.1 + i))) (numInt b.2), 0)
    | _ =>
      let y := (entTerms x p1 (num32 h.tau)).map fun e => hDiv e (num32 h.aux)
      let w := (y.zip g).foldl (fun w p => hFma w p.1 p.2) plus0
      ((y.zip g).map fun p => hMulDiv p.1 (hSub p.2 w) p1, 0)

end Sys2Proof.Machine
end

