-- ==== Sys2Proof/Machine/Matrix.lean ====
section
/-! DEFINITION. Matrix products (R81, R82, R235 to R239, R258), `BCLR` (R242), drains and adjoints (R245, R246, R252, R253) as
they are issued to the core's sequencer, and the legacy tile opcodes (R255). -/

namespace Sys2Proof.Machine

/-! ### Issue to the sequencer (R240) -/

/-- A queued operation of the furrow in the issue stage. -/
def State.newOp (src : Furrow) (issuers : Mask) (t : State) (kind : SeqKind) (tiles tiles2 bins : List Nat) (steps : Nat) : SeqOp :=
  let r := t.setFur src
  { id := t.nextId, plot := t.plot.id, fur := src.id, logical := src.logical, pc := r.split.pc, off := r.codeOffset
    kind := kind, tiles := tiles, tiles2 := tiles2, bins := bins, steps := steps, issuers := issuers, before := issuers }

/-- Queues an operation; a full queue stalls the furrow. Its regions' entries commit first (R238, R103). -/
def State.queueOp (t : State) (o : SeqOp) : Except Stop State := do
  orThrow (stallIf (decide (16 ≤ t.core.seq.length)))
  let meets := fun (e : SiloEntry) => o.regions.any fun r => e.meets r.1 r.2.1
  orThrow (stallIf ((t.plot.taken meets).any (t.entryHeld t.plot.id)))
  let t1 := t.commitWhere meets
  return { t1.setCore { t1.core with seq := t1.core.seq ++ [o] } with nextId := t1.nextId + 1 }

/-! ### Matrix operands (R235, R236, R258) -/

/-- A format of a matrix operand as it resolves: native code and whether it is split-3. -/
structure MatFmt where
  fmt   : BitVec 5
  split : Bool
deriving DecidableEq, Repr

def State.matFmt (s : State) (f : BitVec 5) : Option MatFmt := (s.resolve f).map fun (c : ClassRes) => { fmt := c.fmt, split := c.scheme == 2 }

/-- The pairs that R236 allows. -/
def matPair (a b : MatFmt) : Bool :=
  if a.split || b.split then (a.split || a.fmt == 19) && (b.split || b.fmt == 19)
  else ((a.fmt == 16 || a.fmt == 17) && (b.fmt == 16 || b.fmt == 17)) || ((a.fmt == 18 || a.fmt == 19) && (b.fmt == 18 || b.fmt == 19))

/-- A matrix operand with its rows and columns, and the sectors that its record was read from. -/
structure MatView where
  op   : MatOp
  rows : Nat
  cols : Nat
  secs : List Nat := []
deriving DecidableEq, Repr

def MatView.tiles (v : MatView) : List Nat := match v.op with | .tile k => [k] | _ => []
def MatView.regions (v : MatView) : List (Nat × Nat × Bool) :=
  match v.op with | .stream _ r => (recParse r.toNat).regions false | _ => []

/-- An operand at issue: a tile of the instruction's format, or a streamed record read and checked; `rank`: what a rank
other than 2 raises (R235, R258). -/
def State.matView (t : State) (src : Furrow) (want : MatFmt) (rank : Cause) (o : Operand) : Except Stop MatView :=
  match o with
  | .xreg i _ _ => do
    let lane := (lowest (t.setFur src).m0).getD 0
    let va := ((t.setFur src).x i.toNat).toNat
    orThrow ((rangeStop 64 [(lane, va)]).or (t.accessStop .load 64 64 [(lane, va)]))
    let (w, secs) ← t.fetchView lane va 64
    let r ← (match t.recOf w with | some r => .ok r | none => .error (faultAt .copyflt va))
    let x := recParse r
    orThrow (if x.rank == 2 then none else some (faultAt rank va))
    orThrow (stopIf (x.fmt != want.fmt) .illegal)
    return { op := .stream (BitVec.ofNat 64 va) (BitVec.ofNat 512 r), rows := x.ext.getD 1 0, cols := x.ext.getD 0 0, secs := secs }
  | o => do
    let k := fieldNo o 4
    let u ← t.tileOr k
    orThrow (stopIf (!tileValid u || tileFmt u != want.fmt) .illegal)
    return { op := .tile k, rows := tileRows u, cols := tileCols u }

/-- x-register fields among operands. -/
def streamRegs (l : List Operand) : List Nat := l.filterMap fun o => match o with | .xreg i _ _ => some i.toNat | _ => none

def fmtOr (o : Option MatFmt) : Except Stop MatFmt := match o with | some c => .ok c | none => .error illegalStop

/-- Segments of a sum. -/
def segs (k : Nat) : Nat := (k + 31) / 32

/-- Queues bin += A × B, or A × Bᵀ (R235, R236). -/
def mmaDo (trans : Bool) (f : Args) (src : Furrow) (issuers : Mask) (t : State) : Except Stop State := do
  let n := fieldNo f.a 6
  let _ ← t.binOr n
  let fa ← fmtOr (t.matFmt f.fmt)
  let fb ← fmtOr (t.matFmt (if f.wide then f.f1 else f.fmt))
  let a ← t.matView src fa .copyflt f.b
  let b ← t.matView src fb .copyflt f.c
  let bk := if trans then b.cols else b.rows
  let bn := if trans then b.rows else b.cols
  orThrow (stopIf (decide (128 < a.rows) || decide (128 < bn) || a.cols != bk || decide (32 * 65535 < a.cols) || !matPair fa fb) .illegal)
  let passes := if fa.split && fb.split then 6 else if fa.split || fb.split then 3 else 1
  let o := t.newOp src issuers (.mma n a.op b.op trans fa.split fb.split a.rows bn a.cols) (a.tiles ++ b.tiles) [] [n] (passes * segs a.cols)
  (t.fillAll (a.secs ++ b.secs)).queueOp { o with regions := a.regions ++ b.regions }

/-- Queues bin += A × B (R235). -/
def execMma (f : Args) (s : State) : Out := tileSide (.mma f) f.guard [] [] (streamRegs [f.b, f.c]) none (mmaDo false f) s
/-- Queues bin += A × Bᵀ (R235). -/
def execMmat (f : Args) (s : State) : Out := tileSide (.mmat f) f.guard [] [] (streamRegs [f.b, f.c]) none (mmaDo true f) s

/-- Queues the dual product (R239, R258). -/
def dmmaDo (bx bw ty : Nat) (ox ow : Operand) (fmt1 : BitVec 5) (f : Args) (src : Furrow) (issuers : Mask) (t : State) : Except Stop State := do
  let _ ← t.binOr bx
  let _ ← t.binOr bw
  orThrow (stopIf (bx == bw) .illegal)
  let fy ← fmtOr (t.matFmt f.fmt)
  let fw ← fmtOr (t.matFmt fmt1)
  orThrow (stopIf (fy.split || fw.split || !matPair fy fw) .illegal)
  let y ← t.matView src fy .illegal (.raw (BitVec.ofNat 14 ty))
  let x ← t.matView src fw .illegal ox
  let w ← t.matView src fw .illegal ow
  orThrow (stopIf (decide (128 < y.rows) || decide (128 < y.cols) || decide (128 < w.rows) || x.rows != y.rows || x.cols != w.rows || w.cols != y.cols) .illegal)
  let o := t.newOp src issuers (.dmma bx bw y.op x.op w.op y.rows y.cols w.rows) (y.tiles ++ x.tiles ++ w.tiles) [] [bx, bw] (segs y.cols + segs y.rows)
  (t.fillAll (x.secs ++ w.secs)).queueOp { o with regions := x.regions ++ w.regions }

/-- The dual product from tiles (R239): packed fields (R230). -/
def execDmma (f : Args) (s : State) : Out :=
  let a := f.a.rawBits.toNat
  let c := f.c.rawBits.toNat
  tileSide (.dmma f) f.guard [] [] [] none
    (dmmaDo (a % 64) (a / 64 % 64) (fieldNo f.b 4) (.raw (BitVec.ofNat 14 (c % 16))) (.raw (BitVec.ofNat 14 (c / 16 % 16))) f.fmt f) s
/-- The dual product with X or W streamed (R239, R258). -/
def execDmmaStreamed (f : Args) (s : State) : Out :=
  tileSide (.dmmaStreamed f) f.guard [] [] (streamRegs [f.d, f.e]) none
    (dmmaDo (fieldNo f.a 6) (fieldNo f.b 6) (fieldNo f.c 4) f.d f.e f.f1 f) s

/-- Clears a bin, its header and its records (R242). -/
def execBclr (f : Args) (s : State) : Out :=
  tileSide (.bclr f) f.guard [] [] [] none (fun src issuers t => do
    let n := fieldNo f.a 6
    let _ ← t.binOr n
    t.queueOp (t.newOp src issuers (.bclr n) [] [] [n] 1)) s

/-! ### Drains, adjoints and row statistics at issue -/

/-- p1 and p2 of the W form; 1.0 where no register names them (R245). -/
def State.params (t : State) (src : Furrow) (o : Operand) : BitVec 32 × BitVec 32 :=
  match o with
  | .xreg i _ _ => let v := (t.setFur src).x i.toNat; (v.extractLsb' 0 32, v.extractLsb' 32 32)
  | _ => (0x3F800000, 0x3F800000)

/-- The parameters that a selector takes (R245). -/
def paramsOk (sel : Nat) (p : BitVec 32 × BitVec 32) : Bool :=
  let a := num32 p.1.toNat
  let b := num32 p.2.toNat
  match sel with
  | 1 | 2 | 5 => (match a with | .fin false _ _ => true | _ => false)
  | 3 => !a.isNaN && !b.isNaN && !numGt a b
  | _ => true

/-- A chain of `n` owned units from `k`. -/
def chainOf (have_ k n : Nat) : Except Stop (List Nat) :=
  if k + n ≤ have_ then .ok ((List.range n).map fun i => k + i) else .error illegalStop

/-- Formats that a drain writes (R246). -/
def drainFmt (f : BitVec 5) : Bool := decide (16 ≤ f.toNat ∧ f.toNat ≤ 20)

/-- The destination of a drain or adjoint: a VALID tile of the instruction's format (R246). -/
def State.drainTile (t : State) (k : Nat) (fmt : BitVec 5) : Except Stop Tile := do
  let u ← t.tileOr k
  let c ← fmtOr (t.matFmt fmt)
  orThrow (stopIf (c.split || !tileValid u || !drainFmt (tileFmt u) || tileFmt u != c.fmt) .illegal)
  return u

/-- Whether every tile of a run has one control word. -/
def State.sameCtl (t : State) (ctl : BitVec 32) (l : List Nat) : Bool := l.all fun k => ((t.tile k).getD {}).ctl == ctl

/-- Queues a projection (R245, R246). -/
def drainDo (f : Args) (src : Furrow) (issuers : Mask) (t : State) : Except Stop State := do
  let c := f.c.rawBits.toNat
  let sel := c % 8
  let given := f.xmod.getLsbD 0
  let p := t.params src f.d
  orThrow (stopIf (!paramsOk sel p) .illegal)
  let k := fieldNo f.a 4
  let n := fieldNo f.b 6
  let u ← t.drainTile k f.fmt
  let _ ← t.binOr n
  let len := if c / 8 = 0 then min (tileCols u) 128 else c / 8
  orThrow (stopIf (decide (1024 < len)) .illegal)
  let bins ← chainOf t.plot.bins.length n ((len + 127) / 128)
  let tiles ← chainOf t.plot.tiles.length k ((len + tileCols u - 1) / tileCols u)
  orThrow (stopIf (!t.sameCtl u.ctl tiles) .illegal)
  let o := t.newOp src issuers (.drain sel len given p.1 p.2 f.rnd f.e) tiles [] bins 1
  let dsts := if f.e == .none then [] else
    (t.allFurs.filter fun g => g.plot == t.plot.id && issuers.getLsbD g.logical.toNat && (g.id == t.fur.id || issuers != t.me)).map fun g =>
      (g.id, (t.setFur g).active f.g1)
  t.queueOp { o with listed := dsts }

/-- Projects bin rows into tiles (R245). -/
def execDrain (f : Args) (s : State) : Out :=
  tileSide (.drain f) f.guard (if f.e == .none then [] else [f.e]) [] (streamRegs [f.d]) none (drainDo f) s

/-- Queues row statistics (R253). -/
def prjsumDo (f : Args) (src : Furrow) (issuers : Mask) (t : State) : Except Stop State := do
  let c := f.c.rawBits.toNat
  let n := fieldNo f.a 6
  let _ ← t.binOr n
  let len := if c / 8 = 0 then 128 else c / 8
  orThrow (stopIf (decide (1024 < len)) .illegal)
  let bins ← chainOf t.plot.bins.length n ((len + 127) / 128)
  t.queueOp (t.newOp src issuers (.prjsum (c % 8) len (t.params src f.d).1) [] [] bins 1)

/-- Row statistics of a chain of bins (R253). -/
def execPrjsum (f : Args) (s : State) : Out := tileSide (.prjsum f) f.guard [] [] (streamRegs [f.d]) none (prjsumDo f) s

/-- Lmax of an adjoint (R252). -/
def adjLen (b : Bin) (u : Tile) : Nat :=
  let lens := (List.range (tileRows u)).map fun r => let h := recUnpack (b.record r); if h.valid then h.len else 0
  let m := lens.foldl max 0
  if m = 0 then min (tileCols u) 128 else m

/-- Queues an adjoint (R252): its chain at issue follows from the records as they stand then, so it is issued once the
operations ordered before it have completed; the chain of its start is `State.adjStart`'s (log entry 28). -/
def prjadjDo (f : Args) (src : Furrow) (issuers : Mask) (t : State) : Except Stop State := do
  let ka := fieldNo f.a 4
  let kc := fieldNo f.c 4
  let n := fieldNo f.b 6
  let u ← t.drainTile ka f.fmt
  let _ ← t.tileOr kc
  let b ← t.binOr n
  orThrow (stallIf (t.binOrdered issuers n))
  let len := adjLen b u
  let run := (len + tileCols u - 1) / tileCols u
  let bins ← chainOf t.plot.bins.length n ((len + 127) / 128)
  let as_ ← chainOf t.plot.tiles.length ka run
  let cs ← chainOf t.plot.tiles.length kc run
  orThrow (stopIf (!t.sameCtl u.ctl (as_ ++ cs)) .illegal)
  t.queueOp (t.newOp src issuers (.prjadj len (t.params src f.d).1 f.rnd) as_ cs bins 1)

/-- The vector–Jacobian product of a drained projection (R252). -/
def execPrjadj (f : Args) (s : State) : Out := tileSide (.prjadj f) f.guard [] [] (streamRegs [f.d]) none (prjadjDo f) s

/-- Queues a transpose (R255, R129). -/
def ttransDo (f : Args) (src : Furrow) (issuers : Mask) (t : State) : Except Stop State := do
  let kd := fieldNo f.a 4
  let ks := fieldNo f.b 4
  let d ← t.tileOr kd
  let u ← t.tileOr ks
  let e := fmtBits (tileFmt u)
  orThrow (stopIf (!tileValid d || !tileValid u || tileFmt d != tileFmt u || !(e == 8 || e == 16 || e == 32)
    || tileScaled d != tileScaled u || tileRows d != tileCols u || tileCols d != tileRows u) .illegal)
  let t1 ← t.queueOp (t.newOp src issuers (.ttrans kd ks) [kd, ks] [] [] 1)
  return t1.setJob { t1.job with legmc := (List.range (popcount issuers.toNat 32)).foldl (fun n _ => countLegacy n) t1.job.legmc }

/-- The legacy tile transpose (R255). -/
def execTtrans (f : Args) (s : State) : Out := tileSide (.ttrans f) f.guard [] [] [] none (ttransDo f) s

/-! ### The order of sums (R81, R82) -/

/-- The passes of a pair: which BF16 part of each operand, 0 hi, 1 mid, 2 lo. -/
def matParts (a b : Bool) : List (Option Nat × Option Nat) :=
  match a, b with
  | true, true => [(some 2, some 0), (some 0, some 2), (some 1, some 1), (some 1, some 0), (some 0, some 1), (some 0, some 0)]
  | true, false => [(some 2, none), (some 1, none), (some 0, none)]
  | false, true => [(none, some 2), (none, some 1), (none, some 0)]
  | false, false => [(none, none)]

/-- A number rounded to BF16. -/
def bf16 (rnd : BitVec 3) (x : Num) : Num := ieeeDecode 19 (ieeeEncode 19 x rnd 0 none).1

/-- A part of an operand (R82); none where it is empty. -/
def splitPart (x : Num) : Option Nat → Option Num
  | none => some x
  | some p =>
    match x with
    | .fin _ _ _ =>
      let hi := bf16 1 x
      let d := (fAdd x hi.neg).1
      let mid := bf16 1 d
      let lo := bf16 0 (fAdd d mid.neg).1
      match p with
      | 0 => some hi
      | 1 => if mid.isZero then none else some mid
      | _ => if lo.isZero then none else some lo
    | _ => if p = 0 then some x else none

/-- The sum of a segment's products (R81). -/
def segSum (ps : List (Num × Flags)) : Num × Flags :=
  let fl := ps.foldl (fun a p => a ||| p.2) (0 : Flags)
  let xs := ps.map (·.1)
  let pos := xs.any (· == .inf false)
  let neg := xs.any (· == .inf true)
  if xs.any Num.isNaN then (canonNaN, fl)
  else if pos && neg then (canonNaN, fl ||| flNV)
  else if pos || neg then (.inf neg, fl ||| flOF)
  else
    let fin := xs.filterMap fun x => match x with | .fin n m e => some (n, m, e) | _ => none
    match fin with
    | [] => (plus0, fl)
    | q :: _ =>
      let top := fun (p : Bool × Nat × Int) => (bitLen p.2.1 : Int) + p.2.2 - 1
      let emax := fin.foldl (fun a p => max a (top p)) (top q)
      let tot := fin.foldl (fun (a : Int) p =>
        let k := p.2.2 + 48 - emax
        let v : Int := ((if 0 ≤ k then p.2.1 * 2 ^ k.toNat else p.2.1 / 2 ^ (-k).toNat : Nat) : Int)
        a + if p.1 then -v else v) 0
      let s := rne32 ((numInt tot).scale (emax - 48))
      (s, fl ||| flagIf s.isInf flOF)

/-- A product of two parts, left out where one is empty (R82). -/
def partProduct (a b : Option Num) : Option (Num × Flags) :=
  match a, b with
  | some x, some y => some (fMul x y)
  | _, _ => none

/-- One bin element after a segment (R81): its bits and flags. -/
def addSegment (old : BitVec 32) (s : Num × Flags) : BitVec 32 × Flags :=
  let x := num32 old.toNat
  let r := fAdd x s.1
  let b := bits32 r.1
  let ovf := (num32 b).isInf && !x.isInf
  (BitVec.ofNat 32 b, s.2 ||| (r.2 &&& flNV) ||| flagIf ovf flOF)

/-- One product into a bin over a segment `[k0, k1)` (R81): `a m k` and `b k n` are decoded, scaled elements. -/
def productStep (bin : Bin) (m n k0 k1 : Nat) (pa pb : Option Nat) (a b : Nat → Nat → Num) : Bin × Flags :=
  let ks := (List.range (k1 - k0)).map fun i => k0 + i
  let cols := (List.range n).map fun j => ks.map fun k => splitPart (b k j) pb
  (List.range m).foldl (fun (acc : Bin × Flags) i =>
    let row := ks.map fun k => splitPart (a i k) pa
    (mapIdxFrom (fun j c => (j, c)) 0 cols).foldl (fun (acc : Bin × Flags) p =>
      let s := segSum ((row.zip p.2).filterMap fun q => partProduct q.1 q.2)
      let e := addSegment (acc.1.elem i p.1) s
      (acc.1.setElem i p.1 e.1, acc.2 ||| e.2)) acc) (bin, 0)

/-! ### The legacy 16 × 16 multiply (R255, R129) -/

/-- A decoded element of a tile, scaled (R78). -/
def Tile.num (t : Tile) (r c : Nat) : Num :=
  let x := decodeNum (tileFmt t) (elemBits (tileFmt t) (t.row r) c)
  if tileScaled t then scaleNum x (t.scale (r / 32) (c / 32)) else x

/-- The services perform bin += A × B on the 16 × 16 corners, as an `MMA` of K = 16 (R255): its header as after one.
It waits for a matrix operation that owns the bin, ordered before it or not (R60, R229). -/
def mma16Do (f : Args) (_src : Furrow) (issuers : Mask) (t : State) : Except Stop State := do
  let n := fieldNo f.a 6
  let ka := fieldNo f.b 4
  let kb := fieldNo f.c 4
  let b ← t.binOr n
  let a ← t.tileOr ka
  let c ← t.tileOr kb
  let good := fun (u : Tile) => tileValid u && tileFmt u == 19 && decide (16 ≤ tileRows u) && decide (16 ≤ tileCols u)
  orThrow (stopIf (!good a || !good c) .illegal)
  orThrow (stallIf (t.binOrdered issuers n || b.busy || t.tileBusy issuers ka || t.tileBusy issuers kb))
  let r := productStep b.invalidateAll 16 16 0 16 none none a.num c.num
  let t1 := (t.setBin n { r.1 with step := 1, steps := 1, busy := false, parked := false }).raise r.2
  let t2 := t1.legacyTrap
  return t2.setJob { t2.job with legtr := (List.range (popcount issuers.toNat 32 - 1)).foldl (fun n _ => countLegacy n) t2.job.legtr }

/-- The legacy 16 × 16 multiply, at rung 3 (R255): the trap comes before its stops (R131), one for each furrow that issued it
(R129). -/
def execMma16 (f : Args) (s : State) : Out :=
  if s.trapsFull then .next (if s.launch.cancel then s.endFur s.fur.id else s.serveTraps)
  else tileSideBy State.stopLegacy (.mma16 f) f.guard [] [] [] none (mma16Do f) s

end Sys2Proof.Machine
end

