-- ==== Sys2Proof/Machine/Sequencer.lean ====
section
/-! DEFINITION. The macro-operation sequencer (R237 to R241, R259, R260): which step it starts, what a step reads, and what
the end of a step writes. -/

namespace Sys2Proof.Machine

/-! ### What a step covers -/

/-- One segment of a product: its bin, its shape, its indices [k0, k1), its passes, and where its elements lie. -/
structure Seg where
  bin : Nat
  m   : Nat
  n   : Nat
  k0  : Nat
  k1  : Nat
  pa  : Option Nat
  pb  : Option Nat
  a   : MatOp
  ta  : Bool
  b   : MatOp
  tb  : Bool
  /-- steps of the bin, and the bin's own step -/
  steps : Nat
  step  : Nat
deriving DecidableEq, Repr

/-- The segment of an operation's step (R237, R239, R82). -/
def SeqOp.seg (o : SeqOp) : Option Seg :=
  match o.kind with
  | .mma bin a b tr sa sb m n k =>
    let ps := matParts sa sb
    let p := ps.getD (o.step % ps.length) (none, none)
    let k0 := 32 * (o.step / ps.length)
    some { bin := bin, m := m, n := n, k0 := k0, k1 := min k (k0 + 32), pa := p.1, pb := p.2, a := a, ta := false, b := b, tb := tr
           steps := o.steps, step := o.step }
  | .dmma bx bw dy x w m n kin =>
    if o.step < segs n then
      some { bin := bx, m := m, n := kin, k0 := 32 * o.step, k1 := min n (32 * o.step + 32), pa := none, pb := none, a := dy, ta := false
             b := w, tb := true, steps := segs n, step := o.step }
    else
      let t := o.step - segs n
      some { bin := bw, m := kin, n := n, k0 := 32 * t, k1 := min m (32 * t + 32), pa := none, pb := none, a := x, ta := true
             b := dy, tb := false, steps := segs m, step := t }
  | _ => none

/-- Rows and columns of the elements that a segment reads of A, and of B. -/
def Seg.elemsA (g : Seg) : List (Nat × Nat) :=
  (List.range g.m).flatMap fun i => (List.range (g.k1 - g.k0)).map fun d => if g.ta then (g.k0 + d, i) else (i, g.k0 + d)
def Seg.elemsB (g : Seg) : List (Nat × Nat) :=
  (List.range g.n).flatMap fun j => (List.range (g.k1 - g.k0)).map fun d => if g.tb then (j, g.k0 + d) else (g.k0 + d, j)

/-- Addresses and lengths of the bytes of a streamed element, its scale byte among them (R238, R208). -/
def Rec.bytesOf (x : Rec) (r c : Nat) : List (Nat × Nat) :=
  let p := elemSpan x.fmt c
  (x.rowAt [r] + p.1, p.2 - p.1 + 1) :: (if x.scaled then [(x.scaleAt r c, 1)] else [])

/-- A streamed element as it is read: row, column, bits, scale byte. -/
def State.readElem (s : State) (j : Job) (x : Rec) (r c : Nat) : Nat × Nat × Nat × Nat :=
  let p := elemSpan x.fmt c
  let v := s.jobRead j (x.rowAt [r] + p.1) (p.2 - p.1 + 1)
  (r, c, bitsOf v ((elemAt x.fmt c).1 % 8) (elemAt x.fmt c).2, if x.scaled then s.jobRead j (x.scaleAt r c) 1 else 127)

/-- The byte ranges that an operand streams for a list of elements. -/
def streamBytes (o : MatOp) (l : List (Nat × Nat)) : List (Nat × Nat) :=
  match o with
  | .stream _ r => l.flatMap fun p => (recParse r.toNat).bytesOf p.1 p.2
  | .tile _ => []
def State.streamRead (s : State) (j : Job) (o : MatOp) (l : List (Nat × Nat)) : List (Nat × Nat × Nat × Nat) :=
  match o with
  | .stream _ r => l.map fun p => s.readElem j (recParse r.toNat) p.1 p.2
  | .tile _ => []

/-- A decoded, scaled element of a matrix operand (R78, R237). -/
def State.matElem (s : State) (o : MatOp) (rd : List (Nat × Nat × Nat × Nat)) (r c : Nat) : Num :=
  match o with
  | .tile k => ((s.tile k).getD {}).num r c
  | .stream _ w =>
    let x := recParse w.toNat
    match rd.find? fun e => e.1 == r && e.2.1 == c with
    | some e => let v := decodeNum x.fmt e.2.2.1; if x.scaled then scaleNum v e.2.2.2 else v
    | none => plus0

/-! ### Bins of an operation -/

/-- Changes the bins that an operation names, in the plot in the issue stage. -/
def State.modBins (s : State) (l : List Nat) (g : Nat → Bin → Bin) : State :=
  s.setPlot { s.plot with bins := mapIdxFrom (fun n b => if l.contains n then g n b else b) 0 s.plot.bins }

/-- The headers at the start of a matrix operation (R237, R239). -/
def State.startBins (s : State) (o : SeqOp) : State :=
  match o.kind with
  | .mma .. => s.modBins o.bins fun _ b => { b.invalidateAll with step := 0, steps := o.steps, busy := true, parked := false }
  | .dmma bx _ _ _ _ m n _ =>
    s.modBins o.bins fun k b =>
      { b.invalidateAll with step := 0, steps := if k = bx then segs n else segs m, busy := true, parked := false }
  | _ => s

/-- Whether a kind owns its bins while it runs. -/
def SeqKind.isProduct : SeqKind → Bool
  | .mma .. | .dmma .. => true
  | _ => false

/-- Changes an operation of the core in the issue stage. -/
def State.modOp (s : State) (id : Nat) (g : SeqOp → SeqOp) : State :=
  s.setCore { s.core with seq := s.core.seq.map fun (o : SeqOp) => if o.id = id then g o else o }

/-! ### The start of a step (R240, R241) -/

/-- Whether an operation that has not started waits for an earlier one, or for a copy into its tiles
or over its streamed bytes (R215, R229, R238, R256). -/
def State.opBlocked (s : State) (earlier : List SeqOp) (o : SeqOp) : Bool :=
  let tiles := o.tiles ++ o.tiles2
  (earlier.any fun (p : SeqOp) => p.plot == o.plot &&
      ((p.bins.any o.bins.contains && (p.started || waitsFor p.before o.issuers p.id)) ||
       ((p.tiles ++ p.tiles2).any tiles.contains && waitsFor p.before o.issuers p.id)))
    || s.ejobs.any fun (e : EJob) => e.plot == o.plot && decide (e.id < o.id) &&
      ((s.jobTiles e).any tiles.contains || regionsMeet e.regions o.regions)

/-- The oldest operation that is ready; none of a plot that is leaving the core (R33). -/
def State.pickOp (s : State) : List SeqOp → List SeqOp → Option SeqOp
  | _, [] => none
  | earlier, o :: rest =>
    if !o.parked && (s.plotOf o.plot).any (fun p => p.status != .leaving) && (o.started || !s.opBlocked earlier o) then some o else s.pickOp (earlier ++ [o]) rest

/-- An adjoint as it starts (R252): its width and its chains follow from the records as they stand; where these name what the
plot does not own, those of its issue stand (log entry 28). -/
def State.adjStart (s : State) (o : SeqOp) : SeqOp :=
  match o.kind, o.tiles, o.tiles2, o.bins with
  | .prjadj _ p1 rnd, ka :: _, kc :: _, n :: _ =>
    let u := (s.tile ka).getD {}
    let len := adjLen ((s.bin n).getD {}) u
    let run := (len + tileCols u - 1) / tileCols u
    match chainOf s.plot.bins.length n ((len + 127) / 128), chainOf s.plot.tiles.length ka run, chainOf s.plot.tiles.length kc run with
    | .ok bins, .ok as_, .ok cs =>
      if s.sameCtl u.ctl (as_ ++ cs) then { o with kind := .prjadj len p1 rnd, tiles := as_, tiles2 := cs, bins := bins } else o
    | _, _, _ => o
  | _, _, _, _ => o

/-- Starts a step: a streamed page that is not translated parks the operation (R241); poison in a streamed element rolls the
plot back (log entry 29). -/
def State.startStep (s : State) (o : SeqOp) : State :=
  let t := if o.started then s else s.startBins o
  match o.seg with
  | none => t.modOp o.id fun _ => { (if o.started then o else t.adjStart o) with started := true, running := true }
  | some g =>
    let bytes := streamBytes g.a g.elemsA ++ streamBytes g.b g.elemsB
    match bytes.findSome? fun p => t.jobMiss t.job .load p.1 p.2 with
    | some va =>
      (t.modBins o.bins fun _ b => { b with parked := true }).modOp o.id fun o => { o with started := true, parked := true, va := va, req := none }
    | none =>
      match bytes.flatMap fun p => t.jobSick t.job p.1 p.2 with
      | x :: rest => (t.notePoison (x :: rest)).rollPlotFrom o.plot (some (t.sourceOf t.plot o.logical.toNat o.pc (t.vaOf t.plot (64 * x))))
      | [] =>
        (t.modBins o.bins fun _ b => { b with parked := false }).modOp o.id fun o =>
          { o with started := true, running := true, readA := t.streamRead t.job g.a g.elemsA, readB := t.streamRead t.job g.b g.elemsB }

/-! ### Parked operations (R241, R259, R260) -/

/-- Changes an operation wherever it stands, queued or saved; `none` takes it away. -/
def State.mapOp (s : State) (o : SeqOp) (g : SeqOp → Option SeqOp) : State :=
  let f := fun (l : List SeqOp) => l.filterMap fun (p : SeqOp) => if p.id = o.id then g p else some p
  (s.mapCores fun c => { c with seq := f c.seq }).modPlot o.plot fun p => { p with savedOps := f p.savedOps }

/-- The operation ends at its step: BUSY is 0 in its bins (R241). -/
def State.endOp (s : State) (o : SeqOp) : State :=
  (s.mapOp o fun _ => none).modPlot o.plot fun p =>
    { p with bins := mapIdxFrom (fun n (b : Bin) => if o.bins.contains n then { b with busy := false, parked := false } else b) 0 p.bins }

/-- One step of what a parked operation waits for: a translation, or the end of its job where the page is refused. -/
def State.parkStep (s : State) (o : SeqOp) : State :=
  let p := (s.plotOf o.plot).getD {}
  let l := (s.launchOf p.launch).getD {}
  let r : FaultRec := { queue := some p.faultq.toNat, code := causeCode .page, kind := 0, asid := ((s.jobOf l.job).getD {}).asid, die := p.die, core := (p.core - 1) % 96, addr := o.va, lplot := p.lplot }
  let fail := fun (t : State) (c : Cause) =>
    ((t.endOp o).pushFault { r with code := causeCode c }).jobFault l.job l.id (t.sourceOf p o.logical.toNat o.pc o.va) c
  match s.pageStep l.job o.va .load false r o.req with
  | .ready t => t.mapOp o fun q => some { q with parked := false, req := none }
  | .waiting t req => t.mapOp o fun q => some { q with req := req }
  | .refused t => fail t .page
  | .poisoned t => fail t .memecc

/-- The operations parked at a core, or saved with a plot that left it. -/
def State.parkedOps (s : State) (core : Nat) : List SeqOp :=
  (s.coreOf core).seq.filter (·.parked) ++ (s.allPlots.filter (·.core = core)).flatMap fun p => p.savedOps.filter (·.parked)

/-! ### The end of a step -/

/-- The rows of a drain or adjoint into a run of tiles (R246, R252): narrowed by R73, scaled by R79, stochastic bits by
R77. -/
def State.putTile (s : State) (rnd : BitVec 3) (off : Nat) (ys : List (List Num)) (ti k : Nat) : State × Flags :=
  let u := (s.tile k).getD {}
  let fm := tileFmt u
  let nt := tileCols u
  let cap := capOf fm 0
  let at_ := fun (r c : Nat) => (ys.getD r []).getD (ti * nt + c) plus0
  let rows := List.range ys.length
  let block := fun (bi bj : Nat) =>
    blockScale ((List.range 32).flatMap fun r => (List.range 32).filterMap fun c =>
      if 32 * bi + r < ys.length ∧ 32 * bj + c < nt then some (at_ (32 * bi + r) (32 * bj + c)) else none) cap
  let scale := fun (r c : Nat) => if tileScaled u then block (r / 32) (c / 32) else 127
  let elem := fun (r c : Nat) =>
    let e := scale r c
    if e = 255 then ((0, 0) : Nat × Flags)
    else
      let draw := if rnd = 5 then srBits s.launch.seed.toNat off 0 s.plot.lplot 0 0 (r * 1024 + ti * nt + c) else 0
      encodeNum fm ((at_ r c).scale (127 - e)) rnd draw (some cap)
  let put := fun (acc : Tile × Flags) (r : Nat) =>
    let row := (List.range nt).foldl (fun (a : Nat × Flags) c => let x := elem r c; (a.1 + place (x.1 % 2 ^ (elemAt fm c).2) (elemAt fm c).1, a.2 ||| x.2)) (0, acc.2)
    (acc.1.setRow r row.1, row.2)
  let v := rows.foldl put (u, 0)
  let u1 := if tileScaled u then
      (List.range ((ys.length + 31) / 32)).foldl (fun (t : Tile) bi => (List.range ((nt + 31) / 32)).foldl (fun (t : Tile) bj => t.setScale bi bj (block bi bj)) t) v.1
    else v.1
  (s.setTile k u1, v.2)

def State.putTiles (s : State) (rnd : BitVec 3) (off : Nat) (ys : List (List Num)) (tiles : List Nat) : State :=
  let r := (mapIdxFrom (fun ti k => (ti, k)) 0 tiles).foldl (fun (acc : State × Flags) p =>
    let x := acc.1.putTile rnd off ys p.1 p.2
    (x.1, acc.2 ||| x.2)) (s, 0)
  r.1.raise r.2

/-- The first `n` columns of a row over a chain of bins. -/
def chainRow (bins : List Bin) (row n : Nat) : List Num :=
  (List.range n).map fun c => num32 ((bins.getD (c / 128) {}).elem row (c % 128)).toNat

def State.chainBins (s : State) (l : List Nat) : List Bin := l.map fun n => (s.bin n).getD {}

/-- Writes a row's record into every bin of a chain (R244). -/
def State.putRec (s : State) (bins : List Nat) (row : Nat) (h : HRec) : State :=
  (mapIdxFrom (fun j n => (j, n)) 0 bins).foldl (fun t p => t.setBin p.2 (((t.bin p.2).getD {}).setRec row (h.pack p.1))) s

/-- A drain (R246). -/
def State.drainEnd (s : State) (o : SeqOp) (sel len : Nat) (given : Bool) (p1 p2 : BitVec 32) (rnd : BitVec 3) : State :=
  let s0 := (mapIdxFrom (fun j n => (j, n)) 0 o.bins).foldl (fun (t : State) p => t.setBin p.2 { (t.bin p.2).getD {} with link := p.1 }) s
  let rows := tileRows ((s.tile (o.tiles.headD 0)).getD {})
  let bins := s0.chainBins o.bins
  let res := (List.range rows).map fun r => drainRow sel (chainRow bins r len) (num32 p1.toNat) (num32 p2.toNat) given (chainRec bins r)
  let s1 := (mapIdxFrom (fun r x => (r, x)) 0 res).foldl (fun (t : State) p => t.putRec o.bins p.1 p.2.2.1) s0
  let s2 := s1.modBins o.bins fun _ b => ((List.range 128).filter fun r => decide (rows ≤ r)).foldl Bin.invalidate b
  (s2.raise (res.foldl (fun a x => a ||| x.2.2) 0)).putTiles rnd o.off (res.map (·.1)) o.tiles

/-- COUNT of rows 4i to 4i + 3, as four n16 values (R245). -/
def countWord (b : Bin) (i : Nat) : Nat :=
  (List.range 4).foldl (fun acc q => acc + place (recUnpack (b.record (4 * i + q))).count (16 * q)) 0

/-- Support sizes arrive in the listed furrows (R234, R245). -/
def State.giveCounts (s : State) (o : SeqOp) (dst : Operand) : State :=
  let b := (s.bin (o.bins.headD 0)).getD {}
  o.listed.foldl (fun t p => t.modFur p.1 fun f =>
    let f1 := match dst with
      | .slice st w => f.setSlices st.toNat (codeBits w) p.2 fun i => ⟨countWord b i, false⟩
      | _ => f
    if f1.status == .counts then { f1 with status := .ready } else f1) s

/-- Row statistics (R253): every bin of the chain takes the fields written. -/
def State.sumEnd (s : State) (o : SeqOp) (mode len : Nat) (p1 : BitVec 32) : State :=
  let bins := s.chainBins o.bins
  (List.range 128).foldl (fun t r =>
    let x := chainRow bins r len
    let old := chainRec bins r
    let h := sumRow mode x (num32 p1.toNat) old
    let bad := badRow x
    (mapIdxFrom (fun j n => (j, n)) 0 o.bins).foldl (fun (t : State) p =>
      let mine := recUnpack (((t.bin p.2).getD {}).record r)
      let new : HRec := { mine with
        valid := false
        tau := if bad || mode == 0 || mode == 2 then h.tau else mine.tau
        aux := if bad || mode != 2 then h.aux else mine.aux
        count := if bad || mode < 2 then h.count else mine.count }
      t.setBin p.2 (((t.bin p.2).getD {}).setRec r (new.pack 0))) t) s

/-- An adjoint (R252). -/
def State.adjEnd (s : State) (o : SeqOp) (len : Nat) (p1 : BitVec 32) (rnd : BitVec 3) : State :=
  let u := (s.tile (o.tiles.headD 0)).getD {}
  let nt := max 1 (tileCols u)
  let bins := s.chainBins o.bins
  let g := fun (r c : Nat) => ((s.tile (o.tiles2.getD (c / nt) 0)).getD {}).num r (c % nt)
  let res := (List.range (tileRows u)).map fun r =>
    let h := chainRec bins r
    if !h.valid || (num32 h.tau).isNaN then (List.replicate len canonNaN, flNV)
    else
      let x := adjRow h (chainRow bins r h.len) ((List.range h.len).map (g r)) (num32 p1.toNat)
      (x.1 ++ List.replicate (len - h.len) plus0, x.2)
  (s.raise (res.foldl (fun a x => a ||| x.2) 0)).putTiles rnd o.off (res.map (·.1)) o.tiles

/-- A transpose (R255, R78). -/
def Tile.transposed (d u : Tile) : Tile :=
  let fm := tileFmt u
  let d1 := (List.range (tileRows d)).foldl (fun (t : Tile) r =>
    t.setRow r ((List.range (tileCols d)).foldl (fun a c => setElem fm a c (elemBits fm (u.row c) r)) 0)) d
  if tileScaled u then
    (List.range ((tileRows d + 31) / 32)).foldl (fun (t : Tile) i =>
      (List.range ((tileCols d + 31) / 32)).foldl (fun (t : Tile) j => t.setScale i j (u.scale j i)) t) d1
  else d1

/-- What the step of an operation writes. -/
def State.stepEnd (s : State) (o : SeqOp) : State :=
  match o.kind, o.seg with
  | .bclr n, _ => s.setBin n { ((s.bin n).getD {}).invalidateAll with elems := [], step := 0, steps := 0, link := 0 }
  | .drain sel len given p1 p2 rnd dst, _ => (s.drainEnd o sel len given p1 p2 rnd).giveCounts o dst
  | .prjsum mode len p1, _ => s.sumEnd o mode len p1
  | .prjadj len p1 rnd, _ => s.adjEnd o len p1 rnd
  | .ttrans d u, _ => s.setTile d (((s.tile d).getD {}).transposed ((s.tile u).getD {}))
  | _, some g =>
    let a := fun i k => if g.ta then s.matElem g.a o.readA k i else s.matElem g.a o.readA i k
    let b := fun k j => if g.tb then s.matElem g.b o.readB j k else s.matElem g.b o.readB k j
    let r := productStep ((s.bin g.bin).getD {}) g.m g.n g.k0 g.k1 g.pa g.pb a b
    (s.setBin g.bin { r.1 with step := g.step + 1, busy := decide (g.step + 1 < g.steps) }).raise r.2
  | _, none => s

/-! ### Words that land one by one (R256) -/

/-- Words of tile rows and elements of bins of a plot, as they stand in `t`. -/
def State.takeWords (s t : State) (pid : Nat) (words elems : List (Nat × Nat × Nat)) : State :=
  match t.plotOf pid with
  | none => s
  | some q => s.modPlot pid fun p =>
    { p with
      tiles := words.foldl (fun l w => modAt (fun u => u.putWord w.2.1 w.2.2 ((q.tiles.getD w.1 {}).laneWord w.2.1 w.2.2)) l w.1) p.tiles
      bins := elems.foldl (fun l w => modAt (fun b => b.setElem w.2.1 w.2.2 ((q.bins.getD w.1 {}).elem w.2.1 w.2.2)) l w.1) p.bins }

/-- Words of the `TSET` or `BSET` that a furrow issues next land before it is performed, so that an operation which nothing
orders against it sees each word as it was or as written (R256). An instruction that stops or waits lands none. -/
def State.furrowWords (s : State) (fid : Nat) (words elems : List (Nat × Nat × Nat)) : State :=
  let t := (s.focusFur fid).deliverWhere (· = fid)
  match t.fur.nextSplit with
  | none => s
  | some k =>
    let r := t.setFur { t.fur with cur := k }
    let land := fun (o : Out) (f : Args) =>
      let act := r.active f.guard
      let clean := !(r.uniU act f.b).p && (lanesOf act).all fun i => !(r.src false 64 f.c i).p
      match o with
      | .next u => if clean then s.takeWords u r.plot.id words elems else s
      | _ => s
    if t.fur.id != fid || !t.fur.canIssue || decide (t.fur.deadline ≤ t.fur.yields) then s
    else match r.fetch with
      | .instr (.tset f) _ => land (execTset f r) f
      | .instr (.bset f) _ => land (execBset f r) f
      | _ => s

/-- Words of the operation that a core's sequencer runs land before its step is complete. A product's elements are seen by
whole steps (R60), and an adjoint that reads a tile it writes lands at once (log entry 27). -/
def State.operationWords (s : State) (core : Nat) (words elems : List (Nat × Nat × Nat)) : State :=
  match (s.coreOf core).seq.find? (·.running) with
  | none => s
  | some o =>
    let t := s.focusPlot o.plot
    match o.kind with
    | .bclr _ => s.takeWords (t.stepEnd o) o.plot [] elems
    | .drain .. | .prjadj .. | .ttrans .. => if o.tiles.any o.tiles2.contains then s else s.takeWords (t.stepEnd o) o.plot words []
    | _ => s

/-- The sequencer starts a step of the oldest operation that is ready (R240). What lands
of a row or bin write before it is performed comes by this event too (R256). -/
def execSequencerStep (s : State) : Out :=
  match s.input with
  | .sequencerStep core =>
    let t := (s.parkedOps core).foldl State.parkStep s
    let q := (t.coreOf core).seq
    if q.any (·.running) then .next t
    else match t.pickOp [] q with
      | some o => .next ((t.focusPlot o.plot).startStep o)
      | none => .next t
  | .furrowWords fid words elems => .next (s.furrowWords fid words elems)
  | .operationWords core words elems => .next (s.operationWords core words elems)
  | _ => .next s

/-- The running step completes: the next one may start, or the operation has ended. -/
def State.finishStep (s : State) (o : SeqOp) : State :=
  let s1 := s.stepEnd o
  if o.steps ≤ o.step + 1 then
    (s1.setCore { s1.core with seq := s1.core.seq.filter fun (p : SeqOp) => p.id ≠ o.id }).settlePlot o.plot
  else s1.modOp o.id fun p => { p with step := p.step + 1, running := false, retried := false, readA := [], readB := [] }

/-- A step ends, or its residue check fails: it is computed again once, and then the plot rolls back (R241). -/
def execSequencerStepDone (s : State) : Out :=
  match s.input with
  | .sequencerStepDone core residueOk =>
    match (s.coreOf core).seq.find? (·.running) with
    | none => .next s
    | some o =>
      let t := s.focusPlot o.plot
      if residueOk then .next (t.finishStep o)
      else if o.retried then .next ((t.charge .coreFault (.core (core - 1))).rollPlot o.plot)
      else .next (t.modOp o.id fun p => { p with running := false, retried := true })
  | _ => .next s

end Sys2Proof.Machine
end

