-- ==== Sys2Proof/Machine/EngineRun.lean ====
section
/-! DEFINITION. What engines do with their jobs (R102 to R104, R214 to R219): starts, copies, relay hops, collectives, network
operations, stamps; and the windows that remote initiators reach (R319). -/

namespace Sys2Proof.Machine

/-! ### Starts (R102, R213, R215) -/

def State.plotTag (s : State) (pid : Nat) : BitVec 24 := ((s.plotOf pid).map (·.tag)).getD 0

/-- The regions that order a job (R102). -/
def EJob.waitsRegions (s : State) (e : EJob) : Bool :=
  (s.ejobs.any fun (x : EJob) => x.plot == e.plot && decide (x.id < e.id) && regionsMeet x.regions e.regions)
    || (s.plotOps e.plot).any fun (o : SeqOp) => decide (o.id < e.id) && regionsMeet o.regions e.regions

/-- An earlier operation of a plot that names a tile (R215). -/
def State.tileHeld (s : State) (plot k id : Nat) : Bool :=
  (s.plotOps plot).any fun (o : SeqOp) => decide (o.id < id) && (o.tiles ++ o.tiles2).contains k

/-- An earlier job of the plot that has still to write a tile, and that the job is ordered after (R229). -/
def State.tileTaken (s : State) (k : Nat) (e : EJob) : Bool :=
  s.ejobs.any fun (x : EJob) => x.plot == e.plot && decide (x.id < e.id) && (s.jobTiles x).contains k && waitsFor x.before e.issuers x.id

/-- A tile of a plot may not be written yet (R215, R229). -/
def State.tileShut (s : State) (plot k : Nat) (e : EJob) : Bool := s.tileHeld plot k e.id || (plot == e.plot && s.tileTaken k e)

/-- Whether a job may start. -/
def State.jobReady (s : State) (e : EJob) : Bool :=
  !e.started && !e.waitsRegions s
    && !(e.kind.isCopy && s.ejobs.any fun (x : EJob) => x.core == e.core && x.kind.isCopy && x.chan == e.chan && decide (x.id < e.id))
    && !(e.kind == .copy && (s.jobTiles e).any fun k => s.tileShut e.plot k e)

/-- Whether the peer table has a module number (R312). -/
def Fleet.knows (f : Fleet) (n : BitVec 16) : Bool := f.peers.any (·.1 == n)

/-- The module that a network job names. -/
def EJob.peer (e : EJob) : BitVec 16 := BitVec.ofNat 16 ((cardParse e.card.toNat).peer)

/-- A job fails as a whole. -/
def failJob (c : Cause) (e : EJob) : EJob := { e with performed := true, fault := true, cause := causeCode c }

/-- A network or collective job fails: its status and the fault queue record the cause, and its plot goes on (R324). -/
def State.failCard (s : State) (e : EJob) (c : Cause) : State :=
  (s.modEJob e.id (failJob c)).elementFault e (cardLocal e) 0 (cardStamp e) (causeCode c)

/-- The collective engine receives a contribution, or discards one whose launch, logical plot and sequence number it already
has (R40): that job ends with its destination as it stands (log entry 78). -/
def State.contribute (s : State) (e : EJob) : State :=
  let key := (((s.plotOf e.plot).map (·.lplot)).getD 0, (cardParse e.card.toNat).seq)
  let l := (s.launchOf e.launch).getD {}
  if l.contrib.contains key then s.modEJob e.id fun e => { e with performed := true }
  else s.modLaunch e.launch fun l => { l with contrib := key :: l.contrib }

/-- A job starts; a peer that the module does not know is refused at once (R219). -/
def execEngineJobStart (s : State) : Out :=
  match s.input with
  | .engineJobStart id =>
    match s.ejobs.find? (·.id = id) with
    | none => .next s
    | some e =>
      if !s.jobReady e then .next s
      else
        let t := s.modEJob id fun e => { e with started := true, sentNs := s.timeNs }
        .next (match e.kind with
          | .nwr | .nrd => if s.fleet.knows e.peer then t else t.failCard e .netrefuse
          | .coll => t.contribute e
          | _ => t)
  | _ => .next s

/-! ### Pages (R216, R322) -/

/-- Every byte range that a job touches, with its stamps. -/
def EJob.ranges (e : EJob) : List (Nat × Nat × Bool) :=
  let stamp := if e.kind.isCopy then (tplParse e.card.toNat).stamp else (cardParse e.card.toNat).stamp
  e.regions ++ (stamp, 16, true) :: e.chain.map fun c => (chainStamp c, 16, true)

/-- The key of a page and an access in `refused`. -/
def pageKey (va : Nat) (wr : Bool) : Nat := va / pageSize * 2 + wr.toNat
def accOf (wr : Bool) : Access := if wr then .store else .load

/-- The first page of a job that is neither translated nor refused. -/
def State.jobNeeds (s : State) (e : EJob) : Option (Nat × Bool) :=
  match s.jobOf e.job with
  | none => none
  | some j => e.ranges.findSome? fun r =>
      ((pageStarts r.1 (max 1 r.2.1)).find? fun a => (s.jobPa j (accOf r.2.2) a).isNone && !e.refused.contains (pageKey a r.2.2)).map fun a => (a, r.2.2)

/-- The logical furrow that issued a job (R326). -/
def EJob.logical (e : EJob) : Nat := (lowest e.issuers).getD 0

/-- One step of a page that a job waits for; a poisoned table entry ends the job (R322). -/
def State.jobPage (s : State) (e : EJob) (va : Nat) (wr : Bool) : State :=
  let key := pageKey va wr
  let p := (s.plotOf e.plot).getD {}
  let r : FaultRec := { queue := some p.faultq.toNat, code := 0, kind := 1, die := p.die, core := (e.core - 1) % 96, unit := e.chan, lplot := p.lplot }
  let req := match e.waiting with | some (k, q) => if k = key then q else none | none => none
  match s.pageStep e.job va (accOf wr) false r req with
  | .ready t => t.modEJob e.id fun e => { e with waiting := none }
  | .waiting t q => t.modEJob e.id fun e => { e with waiting := some (key, q) }
  | .refused t => t.modEJob e.id fun e => { e with waiting := none, refused := key :: e.refused }
  | .poisoned t =>
    (t.modEJob e.id fun e => { e with refused := key :: e.refused }).jobFault e.job e.launch (t.sourceOf p e.logical e.pc va) .memecc

/-- Runs a job's effect once every page is translated or refused. -/
def State.withPages (s : State) (e : EJob) (go : State → State) : State :=
  match s.jobNeeds e with
  | some (va, wr) => s.jobPage e va wr
  | none => go s

/-- Whether an access of `n` bytes meets a page that is not translated: the services refused it. -/
def State.badBytes (s : State) (j : Job) (wr : Bool) (va n : Nat) : Bool := (s.jobMiss j (accOf wr) va n).isSome

/-! ### Copies (R214, R216) -/

/-- Coordinates of a position in row-major order, dimension 0 fastest. -/
def coords : List Nat → Nat → List Nat
  | [], _ => []
  | n :: rest, p => p % max 1 n :: coords rest (p / max 1 n)

/-- Where an element of a view lies: first byte, byte count, bit within them, bits. -/
def Rec.place (x : Rec) (q : List Nat) : Nat × Nat × Nat × Nat :=
  let c := q.headD 0
  let b := elemSpan x.fmt c
  (x.rowAt (q.drop 1) + b.1, b.2 - b.1 + 1, (elemAt x.fmt c).1 % 8, (elemAt x.fmt c).2)

/-- Address of the scale byte of an element. -/
def Rec.scaleOf (x : Rec) (q : List Nat) : Nat := x.scaleAt (q.getD 1 0) (q.headD 0)

/-- A source element: its bits and scale byte, whether it could not be read, and whether a sector behind it is poisoned. -/
structure Elem where
  bits  : Nat
  scale : Nat
  bad   : Bool
  sick  : Bool
deriving DecidableEq, Repr

def State.elemOf (s : State) (j : Job) (x : Rec) (q : List Nat) : Elem :=
  let p := x.place q
  let sa := x.scaleOf q
  { bits := bitsOf (s.jobRead j p.1 p.2.1) p.2.2.1 p.2.2.2
    scale := if x.scaled then s.jobRead j sa 1 else 127
    bad := s.badBytes j false p.1 p.2.1 || (x.scaled && s.badBytes j false sa 1)
    sick := s.jobPoison j p.1 p.2.1 || (x.scaled && s.jobPoison j sa 1) }

/-- The value of a source element (R214). -/
def Elem.num (e : Elem) (x : Rec) : Num :=
  let v := decodeNum x.fmt e.bits
  if x.scaled then scaleNum v e.scale else v

/-- Destination of a copy: a view, or a tile with its row and column. -/
inductive CopyDst
  | mem (y : Rec)
  | tile (plot k : Nat) (t : Tile)
deriving DecidableEq, Repr

def CopyDst.fmt : CopyDst → BitVec 5
  | .mem y => y.fmt
  | .tile _ _ t => tileFmt t
def CopyDst.scaled : CopyDst → Bool
  | .mem y => y.scaled
  | .tile _ _ t => tileScaled t
def CopyDst.clamp : CopyDst → Nat
  | .mem y => y.clamp
  | .tile .. => 0

/-- Outcome of a copy: the state, the first element not written or poisoned with its cause and the address that it failed
at, and whether a rounding clamped. -/
structure CopyRes where
  s     : State
  first : Option (Nat × Cause) := none
  at_   : Nat := 0
  of    : Bool := false
  sick  : Bool := false

/-- The first address of a view's element that an access does not reach: its bytes, then its scale byte. -/
def State.elemMiss (s : State) (j : Job) (acc : Access) (x : Rec) (q : List Nat) : Option Nat :=
  let b := x.place q
  (s.jobMiss j acc b.1 b.2.1).or (if x.scaled then s.jobMiss j acc (x.scaleOf q) 1 else none)

/-- The address at which a source element could not be read. -/
def State.srcMiss (s : State) (j : Job) (x : Rec) (q : List Nat) : Option Nat := s.elemMiss j .load x q

/-- The address at which an element's place in the destination could not be written. -/
def State.dstMiss (s : State) (j : Job) (d : CopyDst) (p : List Nat) : Option Nat :=
  match d with
  | .mem y => s.elemMiss j .store y p
  | .tile .. => none

/-- A row with an element's bits; a T6 word's top four bits become zero (R48). -/
def putBits (fmt : BitVec 5) (row c v : Nat) : Nat :=
  if fmt == 16 then setBits (setElem fmt row c v) (64 * (c / 10) + 60) 4 0 else setElem fmt row c v

/-- Writes an element's bits (R48). -/
def State.putElem (s : State) (j : Job) (d : CopyDst) (p : List Nat) (v : Nat) : State :=
  match d with
  | .mem y =>
    if y.fmt == 16 then
      let a := y.rowAt (p.drop 1) + 8 * (p.headD 0 / 10)
      s.jobWrite j a 8 (setBits (setBits (s.jobRead j a 8) (6 * (p.headD 0 % 10)) 6 v) 60 4 0)
    else
      let b := y.place p
      s.jobWrite j b.1 b.2.1 (setBits (s.jobRead j b.1 b.2.1) b.2.2.1 b.2.2.2 v)
  | .tile plot k _ =>
    s.modPlot plot fun x =>
      { x with tiles := modAt (fun t => t.setRow (p.getD 1 0) (putBits (tileFmt t) (t.row (p.getD 1 0)) (p.headD 0) v)) x.tiles k }

/-- Writes a block's scale. -/
def State.putScale (s : State) (j : Job) (d : CopyDst) (p : List Nat) (e : Nat) : State :=
  match d with
  | .mem y => s.jobWrite j (y.scaleOf p) 1 e
  | .tile plot k _ => s.modPlot plot fun x => { x with tiles := modAt (fun t => t.setScale (p.getD 1 0 / 32) (p.headD 0 / 32) e) x.tiles k }

/-- Poison that an element brings to the sectors of its destination (R216). -/
def State.putSick (s : State) (j : Job) (d : CopyDst) (p : List Nat) : State :=
  match d with
  | .mem y => let b := y.place p; s.jobTaint j b.1 b.2.1
  | .tile .. => s

/-- The source indices of a destination position (R78). -/
def srcOf (trans : Bool) (p : List Nat) : List Nat := if trans then p.reverse else p

/-- The scale of the destination block of a position (R79), over the elements that could be read. -/
def State.blockOf (s : State) (j : Job) (t : Tpl) (x : Rec) (d : CopyDst) (ext : List Nat) (p : List Nat) : Nat :=
  let key := fun (q : List Nat) => (q.getD 1 0 / 32, q.headD 0 / 32)
  let all := (List.range (ext.foldl (· * ·) 1)).map (coords ext)
  let els := (all.filter fun q => key q == key p).filterMap fun q =>
    let e := s.elemOf j x (srcOf t.trans q)
    if e.bad then none else some (e.num x)
  blockScale els (capOf d.fmt d.clamp)

/-- Copies one position. -/
def copyOne (e : EJob) (j : Job) (t : Tpl) (x : Rec) (d : CopyDst) (ext : List Nat) (s0 : State) (r : CopyRes) (i : Nat) : CopyRes :=
  let p := coords ext i
  let q := srcOf t.trans p
  let el := r.s.elemOf j x q
  let miss := (r.s.srcMiss j x q).or (r.s.dstMiss j d p)
  if miss.isSome then { r with first := r.first.or (some (i, .page)), at_ := if r.first.isNone then miss.getD 0 else r.at_ }
  else
    let seed := ((r.s.launchOf e.launch).map (·.seed)).getD 0
    let lplot := ((r.s.plotOf e.plot).map (·.lplot)).getD 0
    let jj := match d with | .mem _ => i | .tile .. => p.getD 1 0 * 1024 + p.headD 0
    let u := if t.rnd = 5 then srBits seed.toNat e.off t.nonce lplot 0 0 jj else 0
    let sc := if d.scaled then s0.blockOf j t x d ext p else 127
    let v : Nat × Flags :=
      if d.fmt == x.fmt && !x.scaled && !d.scaled then (el.bits, 0)
      else if sc = 255 then (0, 0)
      else if x.scaled || d.scaled then convNum d.fmt x.fmt ((el.num x).scale (127 - sc)) t.rnd u (some (capOf d.fmt d.clamp))
      else convElem d.fmt x.fmt el.bits t.rnd u (capOf d.fmt d.clamp)
    let s1 := r.s.putElem j d p v.1
    let s2 := if d.scaled then s1.putScale j d p sc else s1
    let tile := match d with | .tile .. => true | _ => false
    { s := if el.sick then s2.putSick j d p else s2
      first := if el.sick && tile then r.first.or (some (i, .memecc)) else r.first
      at_ := if el.sick && tile && r.first.isNone then (x.place q).1 else r.at_
      of := r.of || v.2 &&& flOF != 0, sick := r.sick || (el.sick && tile) }

/-- Copies every position in order (R214). -/
def State.copyAll (s : State) (e : EJob) (j : Job) (t : Tpl) (x : Rec) (d : CopyDst) : CopyRes :=
  let ext := destExt t x
  (List.range (ext.foldl (· * ·) 1)).foldl (copyOne e j t x d ext s) { s := s }

/-- What a copy leaves in its job. -/
def EJob.after (e : EJob) (r : CopyRes) : EJob :=
  { e with
    performed := true, oflow := e.oflow || r.of, rollback := e.rollback || r.sick
    fault := r.first.isSome, cause := (r.first.map fun p => causeCode p.2).getD 0, first := (r.first.map (·.1)).getD 0 }

/-- A tile that a copy has written stands so in the plot's checkpoint too, where the copy was issued before it: the relaunch
does not issue it again (R40). Another plot's copy counts as issued before it. -/
def State.mirrorTile (s : State) (plot k id : Nat) : State :=
  s.modPlot plot fun p =>
    match p.check with
    | some c => if id < c.at_ then { p with check := some { c with tiles := setAt c.tiles k (p.tiles.getD k {}) } } else p
    | none => p

/-- The bytes that a job's payload has changed between `s` and `t`: address, old, new. Until the stamp a load finds each of them old
or new (R103). -/
def State.changedBy (s t : State) (e : EJob) : List (Nat × Byte × Byte) :=
  match s.jobOf e.job with
  | none => []
  | some j => (e.regions.filter (·.2.2)).flatMap fun r => (List.range r.2.1).filterMap fun i =>
      (s.jobPa j .store (r.1 + i)).bind fun pa =>
        if Memory.byte s.mem pa = Memory.byte t.mem pa then none else some (pa, Memory.byte s.mem pa, Memory.byte t.mem pa)

/-- A copy is performed (R214, R216). -/
def State.copyRun (s : State) (e : EJob) : State :=
  match s.jobOf e.job with
  | none => s.modEJob e.id (failJob .copyflt)
  | some j =>
    let t := tplParse e.card.toNat
    let x := recParse e.src.toNat
    let d : Option CopyDst := if t.kind = 0 then some (.mem (recParse e.dst.toNat))
      else ((s.plotOf e.plot).bind fun p => p.tiles[t.dtile]?).map fun u => .tile e.plot t.dtile u
    match d with
    | none => s.modEJob e.id (failJob .copyflt)
    | some d =>
      let r := s.copyAll e j t x d
      let s0 := if t.kind = 1 then r.s.mirrorTile e.plot t.dtile e.id else r.s
      let s1 := s0.modEJob e.id fun e => { e.after r with old := s.changedBy r.s e }
      match r.first with
      | some (i, c) => s1.elementFault e r.at_ i t.stamp (causeCode c)
      | none => s1

/-- A copy is complete (R214), or words of it land in its tile before it is (R256). -/
def execCopyComplete (s : State) : Out :=
  match s.input with
  | .copyComplete id =>
    match s.ejobs.find? (·.id = id) with
    | none => .next s
    | some e => .next (if e.started && !e.performed && e.kind == .copy then s.withPages e (·.copyRun e) else s)
  | .copyWords id words => .next (match s.ejobs.find? (·.id = id) with
    | some e => if e.started && !e.performed && e.kind == .copy then s.takeWords (s.withPages e (·.copyRun e)) e.plot words [] else s
    | none => s)
  | _ => .next s

/-! ### Stamps (R104) -/

/-- A status word. -/
def statusWord (fault oflow : Bool) (cause : BitVec 8) (first : Nat) : Nat :=
  fault.toNat + place oflow.toNat 1 + place cause.toNat 8 + place (first % 2 ^ 32) 16

/-- Writes a status word and then a stamp, as a release of a plot at a scope (R104). -/
def State.putStamp (s : State) (j : Job) (tag : BitVec 24) (die core : Nat) (sc : BitVec 3) (va v : Nat) (add : Bool) (status : Nat) : State :=
  match s.jobPa j .store va with
  | none => s
  | some pa =>
    let s1 := s.jobWrite j (va + 8) 8 status
    let old := Memory.readN s1.mem pa 8
    (s1.jobWrite j va 8 (if add then (old + v) % 2 ^ 64 else v)).addRecord
      { line := pa / 128, scope := sc, die := die, core := (core - 1) % 96, remote := false, ptag := tag }

/-- Bytes that a failed transfer leaves open (R218, R219): any value after a disagreement, and for an abandoned read old or
carried per sector (log entry 17). -/
def State.openBytes (s : State) (e : EJob) (j : Job) : State :=
  let c := cardParse e.card.toNat
  let seed := s.steps * 2 ^ 48
  match e.kind with
  | .coll =>
    if e.cause == causeCode .collmis then
      (List.range c.outBytes).foldl (fun t i => t.jobWrite j (c.local2 + i) 1 (Config.collFreeByte (seed + i)).toNat) s
    else s
  | .nrd =>
    if e.cause == causeCode .netdown then
      (List.range c.count).foldl (fun t i =>
        if Config.abandonWrote (seed + (c.local_ + i) / 64) then t.jobWrite j (c.local_ + i) 1 (Config.collFreeByte (seed + i)).toNat else t) s
    else s
  | _ => s

/-- Where the first element of a copy that was not transferred, or was poisoned, stands in its source. -/
def EJob.firstVa (e : EJob) : Nat :=
  let t := tplParse e.card.toNat
  let x := recParse e.src.toNat
  (x.place (srcOf t.trans (coords (destExt t x) e.first))).1

/-- A job writes its status and stamp, and is no longer in flight; a poisoned tile source rolls its plot back (R216). -/
def State.stampRun (s : State) (e : EJob) : State :=
  let p := (s.plotOf e.plot).getD {}
  let free := fun (t : State) =>
    let t1 : State := { t with ejobs := t.ejobs.filter fun (x : EJob) => x.id ≠ e.id }
    ((if e.rollback then t1.rollPlotFrom e.plot (some (s.sourceOf p e.logical e.pc e.firstVa)) else t1).settlePlot e.plot).drainChannels
  match s.jobOf e.job with
  | none => free s
  | some j =>
    let st := statusWord e.fault e.oflow e.cause e.first
    if e.kind.isCopy then
      let t := tplParse e.card.toNat
      free (s.putStamp j p.tag p.die e.core t.scope t.stamp t.stampV t.add st)
    else
      let c := cardParse e.card.toNat
      free ((if e.fault then s.openBytes e j else s).putStamp j p.tag p.die e.core c.scope c.stamp c.stampV c.add st)

/-- A performed job's stamp. -/
def execEngineStampWrite (s : State) : Out :=
  match s.input with
  | .engineStampWrite id =>
    match s.ejobs.find? (·.id = id) with
    | none => .next s
    | some e => .next (if e.performed then s.withPages e (·.stampRun e) else s)
  | _ => .next s

/-! ### Relay chains (R215) -/

/-- What a hop finds of the plot that its table entry lists. -/
inductive HopPlot
  | gone
  | away
  | here (p : Plot)
deriving DecidableEq, Repr

def State.hopPlot (s : State) (e : EJob) (c : BitVec 128) : HopPlot :=
  match s.allPlots.find? fun p => p.launch == e.launch && p.lplot == chainPlot c with
  | none => .gone
  | some p => match p.status with
    | .absent | .atDie | .ending | .ended => .gone
    | .leaving | .saved => .away
    | .resident | .rolledBack => .here p

/-- The next hop, written or not, with its stamp. -/
def State.hopEnd (s : State) (e : EJob) (j : Job) (c : BitVec 128) (r : CopyRes) : State :=
  let t := tplParse e.card.toNat
  let p := (s.plotOf e.plot).getD {}
  let st := statusWord r.first.isSome r.of ((r.first.map fun (q : Nat × Cause) => causeCode q.2).getD 0) ((r.first.map fun (q : Nat × Cause) => q.1).getD 0)
  let s1 := r.s.putStamp j p.tag p.die e.core t.scope (chainStamp c) t.stampV t.add st
  let s2 := match r.first with
    | some (i, k) => s1.elementFault e r.at_ i (chainStamp c) (causeCode k)
    | none => s1
  s2.modEJob e.id fun e =>
    { e with
      hop := e.hop + 1, broken := e.broken || r.first.any (·.2 == .copyflt), performed := decide (e.chain.length ≤ e.hop + 1), oflow := e.oflow || r.of, rollback := e.rollback || r.sick
      fault := e.fault || r.first.isSome
      cause := if e.fault then e.cause else (r.first.map fun (q : Nat × Cause) => causeCode q.2).getD 0
      first := if e.fault then e.first else (r.first.map fun (q : Nat × Cause) => q.1).getD 0 }

/-- One hop (R215); after a hop that found no plot or no fitting tile, none is written. -/
def State.hopRun (s : State) (e : EJob) : State :=
  match s.jobOf e.job, e.chain[e.hop]? with
  | some j, some c =>
    let t := tplParse e.card.toNat
    let x := recParse e.src.toNat
    let skip : CopyRes := { s := s, first := some (0, .copyflt), at_ := (x.place (coords (destExt t x) 0)).1 }
    if e.broken then s.hopEnd e j c skip
    else match s.hopPlot e c with
      | .gone => s.hopEnd e j c skip
      | .away => s
      | .here p =>
        match p.tiles[chainTile c]? with
        | none => s.hopEnd e j c skip
        | some u =>
          if !tileFits t x (some u) then s.hopEnd e j c skip
          else if s.tileShut p.id (chainTile c) e then s
          else
            let r := s.copyAll e j t x (.tile p.id (chainTile c) u)
            s.hopEnd e j c { r with s := r.s.mirrorTile p.id (chainTile c) (if p.id = e.plot then e.id else 0) }
  | _, _ => s.modEJob e.id (failJob .copyflt)

/-- Words of a relay's next hop land in its tile before the hop is written (R256). -/
def State.hopWords (s : State) (e : EJob) (words : List (Nat × Nat × Nat)) : State :=
  match e.chain[e.hop]?.map (s.hopPlot e) with
  | some (.here p) => s.takeWords (s.withPages e (·.hopRun e)) p.id words []
  | _ => s

/-- A relay's next hop, or words of it. -/
def execRelayHop (s : State) : Out :=
  match s.input with
  | .relayHop id =>
    match s.ejobs.find? (·.id = id) with
    | none => .next s
    | some e => .next (if e.started && !e.performed && e.kind == .relay then s.withPages e (·.hopRun e) else s)
  | .copyWords id words => .next (match s.ejobs.find? (·.id = id) with
    | some e => if e.started && !e.performed && e.kind == .relay then s.hopWords e words else s
    | none => s)
  | _ => .next s

/-! ### Collectives (R84, R218) -/

/-- The ring reduction of one element over the ranks' values in visiting order (R84): bits, and whether BF16 clamped. -/
def ringReduce (res32 : Bool) : List Num → Nat × Bool
  | [] => (0, false)
  | x :: rest =>
    if (x :: rest).any Num.isNaN then (if res32 then nanBits else 0x7FC0, false)
    else
      let b16 := fun (v : Num) => let r := ieeeEncode 19 v 0 0 (some (capOf 19 0)); (ieeeDecode 19 r.1, r.2 &&& flOF != 0)
      let first := b16 x
      let mid := rest.dropLast.foldl (fun (a : Num × Bool) v => let r := b16 (fAdd a.1 v).1; (r.1, a.2 || r.2)) first
      let y := (fAdd mid.1 (rest.getLastD x)).1
      if res32 then ((ieeeEncode 20 y 0 0 none).1, mid.2)
      else let r := ieeeEncode 19 y 0 0 (some (capOf 19 0)); (r.1, mid.2 || r.2 &&& flOF != 0)

/-- Element `i` of chunk `k` reduced over the ranks. -/
def reduceElem (c : Card) (src : Nat → Nat → Nat) (k i : Nat) : Nat × Bool :=
  let at_ := k * c.count + i
  if c.ifmt == 20 then ringReduce c.res32 ((List.range c.n).map fun v => ieeeDecode 20 (src ((k + 1 + v) % c.n) at_))
  else (((List.range c.n).map fun r => src r at_).foldl (fun a v => (a + v) % 2 ^ fmtBits c.ifmt) 0, false)

/-- A collective is complete: this module's destination is written (R218). -/
def State.collRun (s : State) (e : EJob) (agree : Bool) (data : List (List Word)) : State :=
  match s.jobOf e.job with
  | none => s.modEJob e.id (failJob .collmis)
  | some j =>
    let c := cardParse e.card.toNat
    if !agree then s.failCard e .collmis
    else
      let ib := fmtBits c.ifmt / 8
      let ob := fmtBits c.outFmt / 8
      let src := fun (r i : Nat) => if r = c.rank then s.jobRead j (c.local_ + ib * i) ib else ((data.getD r []).getD i 0).toNat % 2 ^ (8 * ib)
      let out := fun (k i : Nat) => match c.op with
        | 0 => reduceElem c src c.rank i
        | 1 => ((src k i, false) : Nat × Bool)
        | 2 => reduceElem c src k i
        | _ => (src 0 i, false)
      let put := fun (acc : State × Bool) (m : Nat) =>
        let v := out (m / c.count) (m % c.count)
        (acc.1.jobWrite j (c.local2 + ob * m) ob v.1, acc.2 || v.2)
      let r := (List.range (c.chunksOut * c.count)).foldl put (s, false)
      let bad := (s.jobMiss j .load c.local_ c.inBytes).or (s.jobMiss j .store c.local2 c.outBytes)
      let s1 := r.1.modEJob e.id fun e =>
        { e with
          performed := true, oflow := r.2, fault := bad.isSome, cause := if bad.isSome then causeCode .page else 0
          old := s.changedBy r.1 e }
      match bad with
      | some va => s1.elementFault e va 0 c.stamp (causeCode .page)
      | none => s1

/-- The engine finds a collective complete, or its parties in disagreement. -/
def execCollComplete (s : State) : Out :=
  match s.input with
  | .collComplete id agree data =>
    match s.ejobs.find? (·.id = id) with
    | none => .next s
    | some e => .next (if e.started && !e.performed && e.kind == .coll then s.withPages e (·.collRun e agree data) else s)
  | _ => .next s

/-! ### Network operations (R219) -/

/-- Whether a card's traffic is delivered in order (R311): `NWR` and `NRD` as OP says, `COLL` not; command messages and events
are, as the list of what the module has sent. -/
def Card.ordered (c : Card) : Bool := c.kind != 1 && c.op == 1

/-- Ordered delivery: an earlier ordered job of the plot to the same target is still under way. -/
def State.orderHeld (s : State) (e : EJob) : Bool :=
  (cardParse e.card.toNat).ordered &&
    s.ejobs.any fun (x : EJob) => x.plot == e.plot && (x.kind == .nwr || x.kind == .nrd) && decide (x.id < e.id) && x.peer == e.peer
      && (cardParse x.card.toNat).ordered && !x.performed

/-- The outcome of a network job; a local page that was refused fails its bytes. -/
def State.netEnd (s : State) (e : EJob) (refused : Bool) (bytes : List Byte) : State :=
  match s.jobOf e.job with
  | none => s.modEJob e.id (failJob .netrefuse)
  | some j =>
    let c := cardParse e.card.toNat
    if refused then s.failCard e .netrefuse
    else
      let wr := e.kind == .nrd
      let s0 := if wr then (mapIdxFrom (fun i (b : Byte) => (i, b)) 0 (bytes.take c.count)).foldl (fun t p => t.jobWrite j (c.local_ + p.1) 1 p.2.toNat) s else s
      let s1 := s0.modEJob e.id fun e => { e with old := s.changedBy s0 e }
      match s.jobMiss j (accOf wr) c.local_ c.count with
      | none => s1.modEJob e.id fun e => { e with performed := true }
      | some va =>
        (s1.modEJob e.id fun e => { failJob .page e with first := va - c.local_ }).elementFault e va (va - c.local_) c.stamp (causeCode .page)

/-- The target acknowledged an `NWR`, or refused it. -/
def execNwrAck (s : State) : Out :=
  match s.input with
  | .nwrAck id refused =>
    match s.ejobs.find? (·.id = id) with
    | none => .next s
    | some e => .next (if e.started && !e.performed && e.kind == .nwr && !s.orderHeld e then s.withPages e (·.netEnd e refused []) else s)
  | _ => .next s

/-- The target answered an `NRD`, or refused it. -/
def execNrdComplete (s : State) : Out :=
  match s.input with
  | .nrdComplete id refused bytes =>
    match s.ejobs.find? (·.id = id) with
    | none => .next s
    | some e => .next (if e.started && !e.performed && e.kind == .nrd && !s.orderHeld e then s.withPages e (·.netEnd e refused bytes) else s)
  | _ => .next s

/-- A lost packet is sent again (R312), which delays the transfer and changes nothing else; or an acknowledgement comes, from
which the 50 ms count anew; or a flit or frame is replayed, which its unit is charged for (R331, R334). -/
def execTransportRetransmit (s : State) : Out :=
  match s.input with
  | .transportRetransmit _ => .next s
  | .transportAck id => .next (s.modEJob id fun e => { e with sentNs := s.timeNs })
  | .bridgeRetry n => .next (s.charge .bridgeRetry (.bridge n))
  | .portFcs n => .next (if n < 32 then s.charge .portFcs (.port n) else s)
  | _ => .next s

/-- 50 ms. -/
def abandonNs : Nat := 50000000

/-- The transport gives a transfer up (R312, R219). -/
def execTransportAbandon (s : State) : Out :=
  match s.input with
  | .transportAbandon id =>
    match s.ejobs.find? (·.id = id) with
    | none => .next s
    | some e =>
      .next (if e.started && !e.performed && (e.kind == .nwr || e.kind == .nrd) && decide (e.sentNs + abandonNs ≤ s.timeNs) then s.failCard e .netdown
        else s)
  | _ => .next s

/-! ### Windows (R319) -/

/-- The job and address that a transfer reaches, where its window admits it; those of a job that has ended admit reads by its
own hosts (R344). -/
def State.windowAt (s : State) (x : Transfer) (wr : Bool) (offset n : Nat) : Option (Job × Nat) :=
  match s.jobOfAsid x.asid with
  | none => none
  | some j =>
    let w := j.windows.getD x.window {}
    let who := x.slot == j.slot && (if x.isHost then w.host else w.any || w.peer == x.peer) && (j.live || (x.isHost && !wr))
    if w.isOpen && who && (if wr then w.wr else w.rd) && decide (offset + n ≤ w.len) then some (j, w.base.toNat + offset) else none

/-- Pages of a window are mapped on first touch (R318). -/
def State.touched (s : State) (j : Job) (wr : Bool) (va n : Nat) : State :=
  s.touchRange j.id va (accOf wr) ((va + n - 1) / pageSize - va / pageSize + 1)

/-- Writes bytes through a window, at home slices; with its pages out of reach the transfer is refused and writes nothing. -/
def State.windowWrite (s : State) (x : Transfer) (bytes : List Byte) : Option State :=
  match s.windowAt x true x.offset bytes.length with
  | none => none
  | some (j, va) =>
    let t := s.touched j true va bytes.length
    if bytes.isEmpty then some s
    else if t.badBytes j true va bytes.length then none
    else some ((mapIdxFrom (fun i (b : Byte) => (i, b)) 0 bytes).foldl (fun u p => u.jobWrite j (va + p.1) 1 p.2.toNat) t)

/-- What the module answers to a remote initiator (R319; the message's form is log entry 37): the data read, or NETREFUSE. -/
def State.answerTransfer (s : State) (x : Transfer) (refused : Bool) (body : List Word) : State :=
  let m : CmdHdr :=
    { type := 0, resp := true, rstat := if refused then causeCode .netrefuse else 0, slot := BitVec.ofNat 32 x.slot, seq := 0
      length := BitVec.ofNat 32 (8 * body.length), asid := x.asid, tag := 0, body := body }
  { s with fleet := { s.fleet with out := s.fleet.out ++ [m] } }

/-- The stamp of an `NWR` at its target: at system scope with REMOTE set (R104). -/
def State.remoteStamp (t : State) (x : Transfer) (off v : Word) (add : Bool) : State :=
  match t.windowAt x true off.toNat 16 with
  | none => t
  | some (j, va) =>
    let t1 := t.touched j true va 16
    let t2 := t1.putStamp j 0 0 1 4 va v.toNat add 0
    { t2 with checker := match t2.checker with
        | r :: rest => if (t1.jobPa j .store va).isSome then { r with remote := true } :: rest else r :: rest
        | [] => [] }

/-- The target side of an `NWR` (R219): the payload, then the stamp where there is one; it is acknowledged or refused. -/
def execNwrTargetWrite (s : State) : Out :=
  match s.input with
  | .nwrTargetWrite x bytes off v add =>
    let none_ := off == BitVec.allOnes 64
    let room := none_ || (s.windowAt x true off.toNat 16).isSome
    .next (match (if room then s.windowWrite x bytes else none) with
      | none => s.answerTransfer x true []
      | some t => (if none_ then t else t.remoteStamp x off v add).answerTransfer x false [])
  | _ => .next s

/-- A host writes through a window (R319). -/
def execHostWindowWrite (s : State) : Out :=
  match s.input with
  | .hostWindowWrite x bytes =>
    .next (match s.windowWrite x bytes with
      | some t => t.answerTransfer x false []
      | none => s.answerTransfer x true [])
  | _ => .next s

/-- `n` bytes as words, the last filled with zeros. -/
def wordsOf (n v : Nat) : List Word := (List.range ((n + 7) / 8)).map fun i => BitVec.ofNat 64 (v / 2 ^ (64 * i))

/-- What a read through a window finds (R319): with its pages out of reach it is refused. -/
def State.windowRead (s : State) (x : Transfer) (n : Nat) : Option (State × Nat) :=
  match s.windowAt x false x.offset n with
  | none => none
  | some (j, va) =>
    let t := if n = 0 then s else s.touched j false va n
    if t.badBytes j false va n then none else some (t, t.jobRead j va n)

/-- A host reads through a window (R319). -/
def execHostWindowRead (s : State) : Out :=
  match s.input with
  | .hostWindowRead x n =>
    .next (match s.windowRead x n with
      | some (t, v) => t.answerTransfer x false (wordsOf n v)
      | none => s.answerTransfer x true [])
  | _ => .next s

end Sys2Proof.Machine
end

