-- ==== Sys2Proof/Machine/Binder.lean ====
section
/-! DEFINITION. smilos, the binder (R262 to R273, R276): class declarations, the class graph, candidates and their unit errors,
the choice of a candidate for each class, and the binding record. -/

namespace Sys2Proof.Machine

/-! ### Exact numbers: `n / 2^k` (R266) -/

structure Dy where
  n : Nat
  k : Nat
deriving DecidableEq, Repr

def Dy.add (a b : Dy) : Dy :=
  let k := Nat.max a.k b.k
  { n := a.n * 2 ^ (k - a.k) + b.n * 2 ^ (k - b.k), k := k }
def Dy.mul (a b : Dy) : Dy := { n := a.n * b.n, k := a.k + b.k }
def Dy.le (a b : Dy) : Bool := decide (a.n * 2 ^ b.k ≤ b.n * 2 ^ a.k)
/-- The difference, zero where it would be negative. -/
def Dy.sub (a b : Dy) : Dy := { n := a.n * 2 ^ b.k - b.n * 2 ^ a.k, k := a.k + b.k }
/-- 2^−k. -/
def Dy.half (k : Nat) : Dy := { n := 1, k := k }
def Dy.min (a b : Dy) : Dy := if a.le b then a else b
/-- ⌈log2⌉ of a positive integer. -/
def clog2 (n : Nat) : Nat := if n ≤ 1 then 0 else Nat.log2 (n - 1) + 1
/-- ⌈log2⌉ of a positive number. -/
def Dy.clog (a : Dy) : Int := (clog2 a.n : Int) - a.k

/-! ### Declarations and edges (R262 to R264) -/

structure Decl where
  emin   : Int
  emax   : Int
  role   : Nat
  pin    : Bool
  split3 : Bool
  scale  : Bool
  used   : Bool
  p      : Nat
  q      : Nat
  span   : Nat
  n      : Nat
deriving DecidableEq, Repr

def declParse (d : Nat) : Decl :=
  { emin := toSigned 11 (bitsOf d 0 11), emax := toSigned 11 (bitsOf d 11 11), role := bitsOf d 24 2, pin := bitOf d 26
    split3 := bitOf d 27, scale := bitOf d 28, used := bitOf d 29, p := bitsOf d 32 6, q := bitsOf d 38 6, span := bitsOf d 44 6
    n := bitsOf d 64 32 }

/-- A malformed declaration by itself (R264). -/
def declBad (d : Nat) : Bool :=
  let x := declParse d
  (!x.used && d != 0) || bitsOf d 30 2 != 0 || bitsOf d 50 14 != 0 || bitsOf d 96 32 != 0
    || (x.pin && (if x.role = 2 then x.q == 0 else x.p == 0))
    || (x.split3 && x.role != 0) || (x.scale && x.role != 0 && x.role != 3) || (x.q != 0 && x.role != 2)

structure Edge264 where
  kind : Nat
  out  : Nat
  a    : Nat
  b    : Nat
  k    : Nat
deriving DecidableEq, Repr

def edgeParse (e : Nat) : Edge264 :=
  { kind := bitsOf e 0 4, out := bitsOf e 4 4, a := bitsOf e 8 4, b := bitsOf e 12 4, k := bitsOf e 32 32 }

/-- `PROD` and `MSUM` have two inputs. -/
def Edge264.two (e : Edge264) : Bool := e.kind == 1 || e.kind == 2
/-- The distinct inputs. -/
def Edge264.ins (e : Edge264) : List Nat := if e.two && e.a != e.b then [e.a, e.b] else [e.a]
/-- The classes that a malformation of the edge concerns. -/
def Edge264.names (e : Edge264) : List Nat := e.out :: (if e.two then [e.a, e.b] else [e.a])

/-- A malformed edge by itself (R264). -/
def edgeBad (ds : List Decl) (w : Nat) : Bool :=
  let e := edgeParse w
  let d := fun (c : Nat) => ds.getD c (declParse 0)
  let role := fun (c : Nat) (l : List Nat) => l.contains (d c).role
  bitsOf w 16 16 != 0 || e.names.any (fun c => !(d c).used) ||
    match e.kind with
    | 1 => e.k != 0 || !role e.a [1] || !role e.b [1] || !role e.out [1, 3]
    | 2 => !role e.a [0] || !role e.b [0] || !role e.out [2] || !(decide (1 ≤ e.k ∧ e.k ≤ (d e.out).n))
    | 3 => e.k != 0 || e.b != 0 || !role e.out [0, 1, 3]
    | 4 => e.b != 0 || !role e.a [1, 2] || !role e.out [1, 2] || !(decide (2 ≤ e.k ∧ e.k ≤ (d e.out).n))
    | _ => true

/-- The classes reachable from one through edges, in as many rounds as there are classes. -/
def reaches (es : List Edge264) : Nat → List Nat → List Nat
  | 0, l => l
  | n + 1, l => reaches es n (es.foldl (fun (acc : List Nat) (e : Edge264) =>
      if e.ins.any acc.contains && !acc.contains e.out then e.out :: acc else acc) l)

/-- An edge of a cycle. -/
def onCycle (es : List Edge264) (e : Edge264) : Bool := e.ins.any (reaches es 16 [e.out]).contains

/-- A class section, as smilos reads it: the classes that malformations concern, whether one concerns none, the
declarations and the edges. -/
structure Section where
  bad   : List Nat
  none_ : Bool
  decls : List Decl
  edges : List Edge264
deriving DecidableEq, Repr

/-- Reads a class section given as a number, in whole, with an edge count above 64 too (R264). -/
def sectionParse (v : Nat) : Section :=
  let ws := (List.range 16).map fun c => bitsOf v (128 * c) 128
  let ds := ws.map declParse
  let cnt := bitsOf v 2048 32
  let raw := (List.range cnt).map fun i => bitsOf v (2112 + 64 * i) 64
  let es := raw.map edgeParse
  let b1 := (List.range 16).filter fun c => declBad (ws.getD c 0)
  let b2 := (raw.filter (edgeBad ds)).flatMap fun w => (edgeParse w).names
  let dup := es.filter fun e => decide (1 < (es.filter fun x => x.out == e.out).length)
  let cyc := es.filter (onCycle es)
  { bad := b1 ++ b2 ++ (dup ++ cyc).flatMap (·.names), none_ := decide (64 < cnt) || bitsOf v 2080 32 != 0, decls := ds, edges := es }

/-! ### Candidates (R265, R267) -/

/-- A candidate: native code, scheme, roles. -/
structure Cand where
  native : Nat
  scheme : Nat
  roles  : List Nat
deriving DecidableEq, Repr

/-- The candidates in their order. -/
def cands : List Cand :=
  [⟨16, 0, [0, 3]⟩, ⟨16, 1, [0, 3]⟩, ⟨17, 0, [0, 3]⟩, ⟨17, 1, [0, 3]⟩, ⟨18, 0, [0, 1, 3]⟩, ⟨18, 1, [0, 3]⟩,
   ⟨19, 0, [0, 1, 3]⟩, ⟨19, 1, [0, 3]⟩, ⟨20, 0, [1, 2, 3]⟩, ⟨21, 0, [1, 3]⟩, ⟨20, 2, [0]⟩]

/-- Usable binades of a native code (R265). -/
def binades (native : Nat) : Int × Int :=
  match native with
  | 16 => (-6, 5)
  | 17 => (-10, 9)
  | 18 => (-14, 15)
  | 21 => (-1022, 1023)
  | _ => (-126, 127)

/-- Fraction bits of a binade of T6 or T8 (R265). -/
def tFrac (native : Nat) (b : Int) : Nat :=
  let up := (b / 2).toNat
  let down := ((-b - 1) / 2).toNat
  (if native = 16 then 2 else 4) - if 0 ≤ b then up else down

/-- The exponent of u of a format that does not taper: u = 2^−this. -/
def uBits (c : Cand) : Nat :=
  if c.scheme = 2 then 22 else match c.native with | 18 => 11 | 19 => 8 | 20 => 24 | _ => 53

/-- Least fraction bits over binades of a range; the range is not empty. -/
def minFrac (native : Nat) (lo hi : Int) : Nat :=
  (List.range ((hi - lo).toNat + 1)).foldl (fun (m i : Nat) => Nat.min m (tFrac native (lo + (i : Int)))) 4

/-- Whether the shifts of a scaled candidate fit (R265). -/
def shiftsFit (d : Decl) (c : Int) : Bool :=
  let lo := d.emin + d.span - 1
  decide (d.emax < lo) || (decide (-127 ≤ lo - c + 1) && decide (d.emax - c + 1 ≤ 127))

/-- The cover of a class: u as an exponent (`none`: u is 0) and the clamp bound as FP32 bits. -/
structure Cover where
  u     : Option Nat
  clamp : Nat
deriving DecidableEq, Repr

/-- A scaled T6 or T8 candidate: the top binade with the least u, and of those the largest (R265). -/
def scaledT (d : Decl) (native : Nat) : Option Cover :=
  let (lo, hi) := binades native
  let cs := ((List.range 24).map fun (i : Nat) => lo + 1 + (i : Int)).filter fun c =>
    decide (lo ≤ c - d.span ∧ c - 1 ≤ hi) && shiftsFit d c
  (cs.foldl (fun (acc : Option (Nat × Int)) c =>
    let f := minFrac native (c - d.span) (c - 1)
    match acc with
    | some (g, b) => if g ≤ f then some (f, c) else some (g, b)
    | none => some (f, c)) none).map fun p => { u := some (p.1 + 1), clamp := place (p.2 + 127).toNat 23 }

/-- How a candidate covers a class, if it does (R263, R265). -/
def coverOf (d : Decl) (c : Cand) : Option Cover :=
  if !c.roles.contains d.role || (c.scheme == 2 && !d.split3) then none
  else if d.emax < d.emin then some { u := none, clamp := 0 }
  else
    let (lo, hi) := binades c.native
    if c.scheme = 1 then
      if !d.scale || d.span = 0 then none
      else if c.native ≤ 17 then scaledT d c.native
      else
        let top : Int := if c.native = 18 then 16 else 128
        if lo ≤ top - d.span && shiftsFit d top then some { u := some (uBits c), clamp := 0 } else none
    else if lo ≤ d.emin && d.emax ≤ hi then
      some { u := some (if c.native ≤ 17 then minFrac c.native d.emin d.emax + 1 else uBits c), clamp := 0 }
    else none

/-- u as a number. -/
def Cover.num (c : Cover) : Dy := match c.u with | some k => Dy.half k | none => ⟨0, 0⟩

/-- The pairings of matrix operands (R236). -/
def pairs (x y : Cand) : Bool :=
  if x.scheme = 2 || y.scheme = 2 then (x.scheme == 2 || x.native == 19) && (y.scheme == 2 || y.native == 19)
  else (decide (x.native ≤ 17) && decide (y.native ≤ 17)) || ([18, 19].contains x.native && [18, 19].contains y.native)

/-! ### Binding (R266, R268, R269) -/

/-- What smilos has settled: each class's requirement (2^−b) and candidate. -/
structure Binding where
  req  : List (Option Nat)
  cand : List (Option Nat)
deriving DecidableEq, Repr

/-- A failure (R270). -/
structure BindFail where
  status : Nat
  cls    : Nat
  short  : Nat
deriving DecidableEq, Repr

def Section.decl (x : Section) (c : Nat) : Decl := x.decls.getD c (declParse 0)
def Section.producer (x : Section) (c : Nat) : Option Edge264 := x.edges.find? fun e => e.out == c
def candAt (i : Nat) : Cand := cands.getD i ⟨0, 0, []⟩
def Section.cover (x : Section) (c i : Nat) : Option Cover := coverOf (x.decl c) (candAt i)

/-- The local term of an edge when its output takes a cover (R266). -/
def localTerm (e : Edge264) (v : Cover) : Dy :=
  match e.kind with
  | 2 => { n := (e.k + 31) / 32 + 1, k := 24 }
  | 4 => { v.num with n := v.num.n * clog2 e.k }
  | _ => v.num

/-- Whether a candidate that covers a class passes the class's own test (R268). -/
def Section.passes (x : Section) (req : List (Option Nat)) (c : Nat) (v : Cover) : Bool :=
  match req.getD c none, x.producer c with
  | none, _ => true
  | some b, none => v.num.le (Dy.half b)
  | some b, some e => (localTerm e v).le (Dy.half (b + 1))

/-- SHORT over a list of candidates (R270). -/
def Section.short (x : Section) (req : List (Option Nat)) (c : Nat) (l : List Nat) : Nat :=
  let vs := l.filterMap (x.cover c)
  match vs, req.getD c none with
  | v :: rest, some b =>
    let term := fun (v : Cover) => match x.producer c with | none => v.num | some e => let t := localTerm e v; { t with n := 2 * t.n }
    let least := rest.foldl (fun m w => Dy.min m (term w)) (term v)
    Nat.min 255 ((least.clog + b).toNat)
  | _, _ => 255

/-- The candidates in order. -/
def allCands : List Nat := List.range 11

/-- The budget that an edge leaves its inputs: the least b (R268). -/
def budgetBits (e : Edge264) (b : Nat) (l : Dy) : Nat :=
  let rem := (Dy.half b).sub l
  let need := fun (k : Nat) => if e.two then (Dy.half k).add ((Dy.half k).add (Dy.half (2 * k))) else Dy.half k
  ((List.range (b + 8)).find? fun k => (need k).le rem).getD (b + 8)

/-- Tightens requirements. -/
def tighten (req : List (Option Nat)) (l : List Nat) (b : Nat) : List (Option Nat) :=
  l.foldl (fun r i => modAt (fun o => match o with | some k => some (Nat.max k b) | none => some b) r i) req

/-- The next class to bind: the lowest declared one that is unbound and whose consumers are bound. -/
def Section.nextClass (x : Section) (t : Binding) : Option Nat :=
  (List.range 16).find? fun c => (x.decl c).used && (t.cand.getD c none).isNone &&
    x.edges.all fun e => !e.ins.contains c || (t.cand.getD e.out none).isSome

/-- Binds class after class (R268). -/
def Section.bindAll (x : Section) : Nat → Binding → Except BindFail Binding
  | 0, t => .ok t
  | n + 1, t =>
    match x.nextClass t with
    | none => .ok t
    | some c =>
      match allCands.find? fun i => match x.cover c i with | some v => x.passes t.req c v | none => false with
      | none => .error { status := 1, cls := c, short := x.short t.req c allCands }
      | some i =>
        let v := (x.cover c i).getD ⟨none, 0⟩
        let req := match x.producer c, t.req.getD c none with
          | some e, some b => tighten t.req e.ins (budgetBits e b (localTerm e v))
          | _, _ => t.req
        x.bindAll n { req := req, cand := setAt t.cand c (some i) }

/-- One repair of a pairing that R236 forbids (R269); `none` where every pair is allowed. -/
def Section.repair (x : Section) (t : Binding) (e : Edge264) : Option (Except BindFail Binding) :=
  let f := fun (c : Nat) => (t.cand.getD c none).getD 0
  if e.kind != 2 || pairs (candAt (f e.a)) (candAt (f e.b)) then none
  else
    let (c, y) := if f e.a ≤ f e.b then (e.a, e.b) else (e.b, e.a)
    let u := ((x.cover c (f c)).getD ⟨none, 0⟩).num
    let ok := allCands.filter fun i => decide (f c < i) && pairs (candAt i) (candAt (f y)) &&
      match x.cover c i with | some v => v.num.le u | none => false
    match ok.find? fun i => match x.cover c i with | some v => x.passes t.req c v | none => false with
    | some i => some (.ok { t with cand := setAt t.cand c (some i) })
    | none => some (.error { status := 1, cls := c, short := x.short t.req c ok })

/-- A whole pass over the edges: the binding after it, and whether it changed anything. -/
def Section.pairPass (x : Section) (t : Binding) : Except BindFail (Binding × Bool) :=
  x.edges.foldl (fun (acc : Except BindFail (Binding × Bool)) e =>
    match acc with
    | .error b => .error b
    | .ok (t, ch) => match x.repair t e with
      | none => .ok (t, ch)
      | some (.ok u) => .ok (u, true)
      | some (.error b) => .error b) (.ok (t, false))

/-- Passes until one changes nothing: each change moves one of 16 classes to a later one of 11 candidates. -/
def Section.pairAll (x : Section) : Nat → Binding → Except BindFail Binding
  | 0, t => .ok t
  | n + 1, t =>
    match x.pairPass t with
    | .error b => .error b
    | .ok (u, true) => x.pairAll n u
    | .ok (u, false) => .ok u

/-- The error of a class (R266), by as many levels as there are classes. -/
def Section.errOf (x : Section) (t : Binding) : Nat → Nat → Dy
  | 0, _ => ⟨0, 0⟩
  | n + 1, c =>
    let v := (x.cover c ((t.cand.getD c none).getD 0)).getD ⟨none, 0⟩
    match x.producer c with
    | none => v.num
    | some e =>
      let a := x.errOf t n e.a
      if e.two then
        let b := x.errOf t n e.b
        ((a.add b).add (a.mul b)).add (localTerm e v)
      else a.add (localTerm e v)

/-- What smilos answers for a class section (R268 to R270). -/
def Section.bind (x : Section) : Except BindFail Binding :=
  if x.none_ || !x.bad.isEmpty then .error { status := 2, cls := x.bad.foldl Nat.min (x.bad.headD 0), short := 0 }
  else
    let req := (List.range 16).map fun c =>
      let d := x.decl c
      if d.pin then some (if d.role = 2 then d.q else d.p) else none
    match x.bindAll 16 { req := req, cand := List.replicate 16 none } with
    | .error b => .error b
    | .ok t => x.pairAll 200 t

/-! ### The record (R272, R273) -/

/-- EBITS of an error: floor(−log2 e), at most 63, 63 for 0; above 1 the field cannot hold it (log entry 19). -/
def ebits (c : Nat) (e : Dy) : Nat :=
  if e.n = 0 then 63
  else if 0 ≤ -e.clog then Nat.min 63 (-e.clog).toNat
  else (Config.freeEbits c).toNat

/-- A bound class's entry. -/
def Section.entry (x : Section) (t : Binding) (c : Nat) : Nat :=
  match t.cand.getD c none with
  | none => 128
  | some i =>
    let d := candAt i
    d.native + place d.scheme 5 + place (ebits c (x.errOf t 16 c)) 8 + place (Nat.min 63 ((t.req.getD c none).getD 0)) 14
      + place (((x.cover c i).map (·.clamp)).getD 0) 32

/-- The digest of a class section (R272). -/
def codeId (bytes : List Byte) : Nat := (shake256 bytes).toNat % 2 ^ 128

/-- The binding record of a class section, as a number of 320 bytes. -/
def bindRecord (bytes : List Byte) : Nat :=
  let v := bytes.foldr (fun b acc => b.toNat + 256 * acc) 0
  let x := sectionParse v
  let id := place (codeId bytes) 64
  match x.bind with
  | .error b =>
    1 + place b.status 8 + place b.cls 16 + place b.short 20 + id + (List.range 16).foldl (fun acc c => acc + place 128 (512 + 128 * c)) 0
  | .ok t =>
    let used := t.cand.filterMap fun o => o.map candAt
    let fmts := (List.range 16).foldl (fun acc k => if used.any (fun d => d.native == 16 + k) then acc + 2 ^ k else acc) 0
    1 + place fmts 32 + place (used.any fun d => d.scheme == 1).toNat 48 + place (used.any fun d => d.scheme == 2).toNat 49 + id
      + (List.range 16).foldl (fun acc c => acc + place (x.entry t c) (512 + 128 * c)) 0

/-- Whether a pinned record is used as it stands (R276): this part supports native codes 16 to 31 and every scheme. -/
def pinOk (rec_ : Nat) (bytes : List Byte) : Bool :=
  bitOf rec_ 10 && bitsOf rec_ 8 2 == 0 && bitsOf rec_ 0 8 == 1 && bitsOf rec_ 64 128 == codeId bytes

end Sys2Proof.Machine
end

