-- ==== Sys2Proof/Machine/Place.lean ====
section
/-! DEFINITION. Room on cores and dies (R22), context areas (R330), and the grant of furrows and plots (R22, R23, R30, R51,
R91, R98). -/

namespace Sys2Proof.Machine

/-! ### Room (R22) -/

/-- What is in use on a core: slots, units of its two files, active slots per quadrant and the quadrant that the next grant fills,
bins, tiles and silo. -/
structure Room where
  slots : Nat := 0
  fast  : Nat := 0
  slow  : Nat := 0
  quads : List Nat := [0, 0, 0, 0]
  turn  : Nat := 0
  bins  : Nat := 0
  tiles : Nat := 0
  silo  : Nat := 0
deriving DecidableEq, Repr

/-- What a plot needs: the units of each furrow that takes a slot, the context numbers of those that take none, bins, tiles and
silo. -/
structure Need where
  units : List Nat := []
  ctxs  : Nat := 0
  bins  : Nat := 0
  tiles : Nat := 0
  silo  : Nat := 0
deriving DecidableEq, Repr

/-- A core: 128 slots, 32 of them active, 512 units of the fast file and 1,024 of the slow one, 64 bins, 16 tiles, 64 KiB of
silo (R22). -/
def coreRoom : Room := { slots := 128, fast := 512, slow := 1024, quads := [8, 8, 8, 8], bins := 64, tiles := 16, silo := 16 }

/-- A furrow of `u` units takes a slot: an active one and the fast file where its quadrant has one free, else a pending one and the
slow file (R22, R23). -/
def Room.take (r : Room) (u : Nat) : Room :=
  let q := r.turn % 4
  let r1 := { r with slots := r.slots + 1, turn := (q + 1) % 4 }
  if r.quads.getD q 8 < 8 && decide (r.fast + u ≤ coreRoom.fast) then { r1 with fast := r.fast + u, quads := modAt (· + 1) r.quads q }
  else { r1 with slow := r.slow + u }

def Room.fits (used : Room) (need : Need) : Bool :=
  let t := need.units.foldl Room.take used
  decide (t.slots ≤ coreRoom.slots) && decide (t.slow ≤ coreRoom.slow) && decide (t.bins + need.bins ≤ coreRoom.bins)
    && decide (t.tiles + need.tiles ≤ coreRoom.tiles) && decide (t.silo + need.silo ≤ coreRoom.silo)

/-- Whether a furrow holds a slot and units on its core: one that a trap or a yield has saved does not (R33, R325). -/
def Furrow.onCore (f : Furrow) : Bool :=
  match f.status with
  | .absent | .ended | .trapped .. | .returning | .saved => false
  | _ => true

/-- Whether a plot holds its core's bins, tiles and silo share. -/
def Plot.onCore (p : Plot) : Bool :=
  match p.status with
  | .resident | .leaving | .ending => true
  | _ => false

def State.coreFurs (s : State) (core : Nat) : List Furrow :=
  let ps := (s.allPlots.filter fun p => p.core == core && p.onCore).map (·.id)
  s.allFurs.filter fun f => ps.contains f.plot && f.onCore

/-- What is in use on a core: a sampled plot takes its room on both of its cores (R39). -/
def State.usedRoom (s : State) (core : Nat) : Room :=
  let ps := s.allPlots.filter fun p => (p.core == core || p.twin == core) && p.onCore
  let fs := s.coreFurs core
  let twins := (s.allPlots.filter fun p => p.twin == core && p.onCore).map (·.id)
  let act := fs.filter (·.active)
  let own : Room :=
    { slots := fs.length, fast := act.foldl (fun n f => n + f.budget / 64) 0
      slow := (fs.filter (!·.active)).foldl (fun n f => n + f.budget / 64) 0
      quads := (List.range 4).map fun q => (act.filter fun f => f.slot / 8 == q).length, turn := (s.coreOf core).nextQuad
      bins := ps.foldl (fun n p => n + p.bins.length) 0, tiles := ps.foldl (fun n p => n + p.tiles.length) 0
      silo := ps.foldl (fun n p => n + p.siloUnits) 0 }
  ((s.allFurs.filter fun f => twins.contains f.plot && f.onCore).map fun f => f.budget / 64).foldl Room.take own

/-- The free slots that a core reports. -/
def State.freeSlots (s : State) (core : Nat) : Nat := coreRoom.slots - (s.usedRoom core).slots

/-- The cores of a die that take plots. -/
def State.liveCores (s : State) (die : Nat) : List Nat :=
  ((List.range 96).map fun i => 96 * die + i + 1).filter fun c => s.coreUsable c && ((s.fleet.dies.getD die {}).kernel).isSome

/-- The free slots that a die reports. -/
def State.dieSlots (s : State) (die : Nat) : Nat := (s.liveCores die).foldl (fun n c => n + s.freeSlots c) 0

/-- The first of a list with the greatest value. -/
def best (g : Nat → Nat) (l : List Nat) : Option Nat :=
  l.foldl (fun acc x => match acc with | none => some x | some y => if g y < g x then some x else some y) none

/-- The cores a plot may go to on a die, in ascending order: those that serve its stage (R29), or, for a determinate launch, any
(R31). -/
def State.coresFor (s : State) (l : Launch) (die : Nat) : List Nat :=
  let mine := match s.graphOf l.graph with
    | none => s.liveCores die
    | some g =>
      (s.liveCores die).filter (g.stages.getD l.stage { template := 0, inEdge := none, outEdge := none, outCount := 0, instances := 0 }).share.contains
  if l.det then s.liveCores die else mine

/-- The first core from a die up that is neither retired nor listed (R31). -/
def nextHeld (gone : List Nat) (held : List Nat) (die : Nat) : Option Nat :=
  (List.range 4).findSome? fun k =>
    ((List.range 96).map fun i => 96 * ((die + k) % 4) + i + 1).find? fun x => !gone.contains x && !held.contains x

/-- A launch's held cores: each retired one's index passes on as the core retires (R31). -/
def State.heldCores (s : State) (l : Launch) : List Nat :=
  (s.fleet.retired.foldl (fun (acc : List Nat × List Nat) u =>
    match u with
    | .core n =>
      let gone := (n + 1) :: acc.1
      match acc.2.findIdx? (· == n + 1), nextHeld gone acc.2 (coreDie (n + 1)) with
      | some i, some x => (gone, setAt acc.2 i x)
      | _, _ => (gone, acc.2)
    | _ => acc) ([], l.cores)).2

/-- The held core of a plot of a determinate launch (R31); none where no core is left. -/
def State.heldCore (s : State) (l : Launch) (lplot : Nat) : Option Nat :=
  let held := s.heldCores l
  (held[lplot % l.lcount % max 1 held.length]?).filter fun c => !s.fleet.retired.contains (.core (c - 1))

/-- Whether a furrow keeps a context number of its core: one that a trap has taken away keeps its own until it returns (R62). -/
def Furrow.keepsCtx (f : Furrow) : Bool :=
  f.onCore || match f.status with | .trapped .. | .returning => true | _ => false

/-- The context numbers of a core that a grant may take: none that a furrow keeps, and with a generation that no operation in flight
carries (R51, R62). -/
def State.freeCtx (s : State) (core : Nat) : List Nat :=
  let ps := (s.allPlots.filter fun p => p.core == core && p.onCore).map (·.id)
  let used := (s.allFurs.filter fun f => ps.contains f.plot && f.keepsCtx).map fun g => g.ctx.toNat
  let spent := fun (c : Nat) => decide (2 ^ 16 ≤ s.rets.length) &&
    decide (2 ^ 16 ≤ (((s.rets.filter fun r => r.core == core && r.ctx.toNat == c).map (·.gen)).eraseDups).length)
  (List.range 128).filter fun c => !used.contains c && !spent c

/-- Whether a core takes what a plot needs now (R22, R51). -/
def State.coreTakes (s : State) (core : Nat) (need : Need) : Bool :=
  (s.usedRoom core).fits need && decide (need.units.length + need.ctxs ≤ (s.freeCtx core).length)

/-- Among cores that have the room and whose zone admits the heat class, the one with the most free slots (R22, R352). -/
def State.pickCore (s : State) (l : Launch) (need : Need) (cs : List Nat) : Option Nat :=
  best s.freeSlots (cs.filter fun c => s.coreTakes c need && (s.zone (zoneOf c)).admits l.heat)

/-- The second core of a sampled plot (R39): another of the die that takes it; 0 for a plot that is not sampled, and none where no
core does. -/
def State.pickTwin (s : State) (l : Launch) (need : Need) (core : Nat) (sampled : Bool) : Option Nat :=
  if sampled then s.pickCore l need ((s.liveCores (coreDie core)).filter (· ≠ core)) else some 0

/-- What a plot needs at its first grant. -/
def Launch.room (l : Launch) (silo : Nat) : Need :=
  { units := List.replicate l.furrows (l.budget / 64), bins := l.bins, tiles := l.tiles, silo := silo }

/-- SILO and DEADLINE of an object (R278). -/
def CodeObj.silo (o : CodeObj) : Nat := (o.hdr.extractLsb' 40 5).toNat
def CodeObj.deadline (o : CodeObj) : Nat := (o.hdr.extractLsb' 64 32).toNat
def Job.objAt (j : Job) (va : Word) : CodeObj := (j.objs.find? (·.va = va)).getD {}

/-! ### Context areas (R330) -/

/-- Pages of a plot's areas: contexts, the checkpoint copy, and the held-store area at grant. -/
def Launch.areaPages (l : Launch) : Nat :=
  2 * (pagesOf (plotBytes l.tiles l.bins) + pagesOf (furBytes * l.furrows)) + 1

/-- Near pages that the slot's quota has left. -/
def State.nearLeft (s : State) (slot : Nat) : Nat := ((s.slotOf slot).map (·.near)).getD 0 - s.slotPages slot true

/-- Pages of a job's pool that belong to plots, and so come back. -/
def Job.poolPages (j : Job) : Nat := ((j.areas.filter fun (a : Area) => a.plot != 0).map (·.pages)).foldl (· + ·) 0

/-- Whether the quota could never hold one plot of a launch (R288, R330). -/
def State.quotaNever (s : State) (j : Job) (l : Launch) : Bool :=
  decide (((s.slotOf j.slot).map (·.near)).getD 0 < (j.pagesNear - j.poolPages) + l.areaPages)

/-- Reserves the areas of a plot on a die; nothing where the quota or the memory has no room. -/
def State.reserve (s : State) (l : Launch) (pid die : Nat) : Option State :=
  match s.jobOf l.job with
  | none => none
  | some j =>
    if s.nearLeft j.slot < l.areaPages then none
    else do
      let (va, pa, s1) ← s.poolAlloc j.id pid die (plotBytes l.tiles l.bins)
      let (fva, fpa, s2) ← s1.poolAlloc j.id pid die (furBytes * l.furrows)
      let (_, copy, s3) ← s2.poolAlloc j.id pid die (plotBytes l.tiles l.bins)
      let (_, fcopy, s4) ← s3.poolAlloc j.id pid die (furBytes * l.furrows)
      let (_, _, s5) ← s4.poolAlloc j.id pid die pageSize
      return s5.modPlot pid fun p => { p with ctxVa := BitVec.ofNat 64 va, ctxPa := pa, fursVa := fva, fursPa := fpa, copyPa := copy, fursCopy := fcopy }

/-! ### The grant of a furrow (R22, R23, R51, R91) -/

/-- The lowest number below `n` that a list does not hold. -/
def lowestFree (n : Nat) (l : List Nat) : Option Nat := (List.range n).find? fun k => !l.contains k

/-- The next generation of a context number that no operation in flight carries (R51). -/
def nextGen (rets : List Ret) (core ctx : Nat) : Nat → BitVec 16 → BitVec 16
  | 0, g => g
  | n + 1, g =>
    if rets.any fun r => r.core == core && r.ctx.toNat == ctx && r.gen == g then nextGen rets core ctx n (g + 1) else g

/-- The lowest free active slot of a quadrant (R23). -/
def freeInQuad (q : Nat) (used : List Nat) : Option Nat := ((List.range 8).map (8 * q + ·)).find? fun x => !used.contains x

/-- A free active slot of any quadrant: what a furrow back from `YIELD.W` receives (R27). -/
def freeActive (used : List Nat) : Option Nat := (List.range 32).find? fun x => !used.contains x

/-- Gives a furrow its context number, generation, quadrant and slot on its plot's core, and its number if it has none: it enters
the active set where its quadrant has room, else the pending set; the quadrants are filled in turn (R23). -/
def State.seat (s : State) (core : Nat) (f : Furrow) (st : FStatus) : State :=
  let fs := s.coreFurs core
  let c := s.coreOf core
  let ctx := (s.freeCtx core).headD 0
  let gen := nextGen s.rets core ctx s.rets.length (((c.gens.find? fun p => p.1 == ctx).map (·.2)).getD 0 + 1)
  let q := c.nextQuad % 4
  let slot := freeInQuad q ((fs.filter (·.active)).map (·.slot))
  let id := if f.id = 0 then s.nextId else f.id
  let g : Furrow :=
    { f with
      id := id, status := st, ctx := BitVec.ofNat 7 ctx, gen := gen, quad := q, active := slot.isSome && st == .ready, slot := slot.getD 0
      waited := 0, entered := s.steps, waitFrom := s.steps, waitClk := s.cycles, cur := 0 }
  let s1 := s.modCore core fun c => { c with gens := (ctx, gen) :: c.gens.filter fun p => p.1 != ctx, nextQuad := (q + 1) % 4 }
  { s1 with nextId := if f.id = 0 then s.nextId + 1 else s.nextId, furs := g :: s1.furs.filter (·.id ≠ id) }

/-- A furrow of a plot as it is granted (R30, R42, R53 to R56): everything zero but what its grant gives. -/
def State.newFurrow (s : State) (p : Plot) (j : Job) (obj : Word) (budget : Nat) (logical : BitVec 5) (kind : FurKind) (pc entry : Word) (m : Mask) : Furrow :=
  let o := j.objAt obj
  let tag := (lowestFree 128 ((s.allFurs.filter (·.plot = p.id)).map fun f => f.tag.toNat)).getD 0
  { plot := p.id, logical := logical, kind := kind, entryVa := entry, budget := budget, priv := o.priv, obj := obj
    codeLo := BitVec.ofNat 64 o.codeLo, codeHi := BitVec.ofNat 64 (o.codeLo + o.codeSize), deadline := o.deadline, granted := m
    splits := [{ valid := true, pc := pc, mask := m }, {}, {}, {}], tag := BitVec.ofNat 7 tag
    ctxVa := BitVec.ofNat 64 (p.fursVa + furBytes * logical.toNat), ctxPa := p.fursPa + furBytes * logical.toNat }

/-- The lanes of a furrow at the start (R30): global lane indices below SV[d]. -/
def Launch.laneMask (l : Launch) (lplot f : Nat) : Mask :=
  maskOf fun i => decide ((lplot * l.furrows + f) * 32 + i < (l.sv.getD l.dim 0).toNat)

/-- The entry record of a launch's bucket. -/
def Launch.entry (l : Launch) (o : CodeObj) : BitVec 256 := (o.entryAt l.entryVa.toNat).getD 0

/-- Grants the furrows of a plot at its start (R22, R56): argument words in every furrow. -/
def State.grantAll (s : State) (p : Plot) (l : Launch) (j : Job) : State :=
  let o := j.objAt l.obj
  let pc := BitVec.ofNat 64 (o.codeLo + entryOffset (l.entry o))
  (List.range l.furrows).foldl (fun t k =>
    let f := t.newFurrow p j l.obj l.budget (BitVec.ofNat 5 k) .granted pc l.entryVa (l.laneMask p.lplot k)
    t.seat p.core { f with xregs := (List.range 64).map fun k => l.args.getD k 0 } .ready) s

/-- Whether a plot is sampled (R39): the low e bits of a sower output are zero. -/
def sampledBy (e : Nat) (seed lplot : Nat) : Bool := e != 0 && sower seed 0 lplot % 2 ^ e == 0

/-- A plot tag that no plot that has not ended carries (R98). -/
def State.freeTag (s : State) : BitVec 24 :=
  let used := s.allPlots.map (·.tag)
  (((List.range (used.length + 2)).map fun i => BitVec.ofNat 24 ((s.ptags + i - 1) % (2 ^ 24 - 1) + 1)).find? fun t => !used.contains t).getD 1

/-- Whether a plot is, or at its first grant will be, sampled (R39). -/
def State.sampledNow (s : State) (p : Plot) (l : Launch) : Bool := if p.granted then p.sampled else sampledBy s.cruise l.seed.toNat p.lplot

/-- A plot starts on a core, and a sampled one on a second (R96: with an acquire at module scope): zero tiles and bins (R58, R59),
one furrow after the other. -/
def State.startPlot (s : State) (pid core twin : Nat) : State :=
  match s.plotOf pid with
  | none => s
  | some p =>
    let l := (s.launchOf p.launch).getD {}
    let j := (s.jobOf l.job).getD {}
    let first := !p.granted
    let tag := if first then s.freeTag else p.tag
    let q : Plot :=
      { p with
        status := .resident, tag := tag, die := coreDie core, core := core, granted := true, siloUnits := (j.objAt l.obj).silo
        silo := [], held := [], tiles := List.replicate l.tiles {}, bins := List.replicate l.bins {}, team := 0, yokes := [], bars := []
        chans := List.replicate 16 {}, flags := 0, redCount := [], preempt := false, had := BitVec.ofNat 32 (2 ^ l.furrows - 1)
        barto := if first then s.barto else p.barto, cruise := if first then s.cruise else p.cruise
        trapq := if first then s.trapq else p.trapq, faultq := if first then s.faultq else p.faultq
        sampled := s.sampledNow p l, twin := twin, second := .alike, runFault := none
        acqAt := s.steps }
    let s1 := (s.modPlot pid fun _ => q).modCore core fun c => { c with l1 := [] }
    ({ s1 with ptags := if first then tag.toNat + 1 else s1.ptags }).grantAll q l j

end Sys2Proof.Machine
end

