-- ==== Sys2Proof/Machine/Objects.lean ====
section
/-! DEFINITION. The loader (R278 to R284) and the records of launches, graphs and seasons (R286 to R291). -/

namespace Sys2Proof.Machine

/-! ### Code objects (R278 to R284) -/

/-- The header's fields. -/
structure Header where
  magic    : Nat
  version  : Nat
  silo     : Nat
  deadline : Nat
  feat     : Nat
  hintreq  : Nat
  codeOff  : Nat
  codeSize : Nat
  entOff   : Nat
  nEnt     : Nat
  mapOff   : Nat
  nMap     : Nat
  regOff   : Nat
  nReg     : Nat
  clsOff   : Nat
  clsSize  : Nat
deriving DecidableEq, Repr

def headerParse (h : Nat) : Header :=
  { magic := bitsOf h 0 32, version := bitsOf h 32 8, silo := bitsOf h 40 5, deadline := bitsOf h 64 32, feat := bitsOf h 128 64
    hintreq := bitsOf h 192 64, codeOff := bitsOf h 256 32, codeSize := bitsOf h 288 32, entOff := bitsOf h 320 32, nEnt := bitsOf h 352 32
    mapOff := bitsOf h 384 32, nMap := bitsOf h 416 32, regOff := bitsOf h 448 32, nReg := bitsOf h 480 32, clsOff := bitsOf h 512 32
    clsSize := bitsOf h 544 32 }

/-- The sections as offset and length, the header first. -/
def Header.sections (x : Header) : List (Nat × Nat) :=
  [(0, 128), (x.codeOff, x.codeSize), (x.entOff, 32 * x.nEnt), (x.mapOff, 32 * x.nMap), (x.regOff, 8 * x.nReg), (x.clsOff, x.clsSize)]

/-- No two sections that hold a byte overlap (R279). -/
def disjoint : List (Nat × Nat) → Bool
  | [] => true
  | a :: rest => (rest.all fun b => a.2 == 0 || b.2 == 0 || decide (a.1 + a.2 ≤ b.1 ∨ b.1 + b.2 ≤ a.1)) && disjoint rest

/-- Order 1 of R284: `e` is the edge count that the class section holds. -/
def Header.ok1 (x : Header) (h va len e : Nat) : Bool :=
  x.magic == 0xB0E10440 && x.version == 1 && bitsOf h 45 19 == 0 && bitsOf h 96 32 == 0 && bitsOf h 576 448 == 0
    && x.codeOff % 65536 == 0 && x.codeSize % 8 == 0 && decide (8 ≤ x.codeSize) && x.entOff % 32 == 0 && decide (1 ≤ x.nEnt ∧ x.nEnt ≤ 4096)
    && x.mapOff % 32 == 0 && decide (x.nMap ≤ 65536) && x.regOff % 8 == 0 && decide (x.nReg ≤ 65536)
    && (if x.clsSize = 0 then x.clsOff == 0 else x.clsOff % 16 == 0 && x.clsSize == 264 + 8 * e)
    && x.sections.all (fun p => decide (p.1 + p.2 ≤ len)) && disjoint x.sections
    && va % 65536 == 0 && decide (va + x.codeOff + x.codeSize ≤ aperture)

/-- The opcode of an S or W word: W's prefix bits make it 12 bits long (R116, R121, R126). -/
def opcodeOf (w : Word) : Option Nat :=
  match (w.extractLsb' 62 2).toNat with
  | 1 => some (w.extractLsb' 52 10).toNat
  | 2 => some (w.extractLsb' 50 12).toNat
  | _ => none

/-- Opcodes of `CALL`, `CALLI`, `YIELD` and `YIELD.W`, with their W-only forms. -/
def mapOps : List Nat := [0x020, 0x021, 0x040, 0x041, 0x400, 0x401]

/-- Whether `g` holds of each two neighbours of a list. -/
def ordered (g : Nat → Nat → Bool) : List Nat → Bool
  | a :: b :: rest => g a b && ordered g (b :: rest)
  | _ => true

/-- An object as it stands in a job's memory: what the loader has read of it. -/
structure Image where
  va      : Nat
  len     : Nat
  hdr     : Nat
  entries : List Nat
  maps    : List Nat
  regs    : List Nat
  cls     : List Byte
deriving DecidableEq, Repr

/-- Bytes of a job's memory. -/
def State.jobBytes (s : State) (j : Job) (va n : Nat) : List Byte := (List.range n).map fun i => BitVec.ofNat 8 (s.jobRead j (va + i) 1)

def State.readImage (s : State) (j : Job) (va len : Nat) : Image :=
  let h := s.jobRead j va 128
  let x := headerParse h
  { va := va, len := len, hdr := h
    entries := (List.range (min x.nEnt 4096)).map fun k => s.jobRead j (va + x.entOff + 32 * k) 32
    maps := (List.range (min x.nMap 65536)).map fun k => s.jobRead j (va + x.mapOff + 32 * k) 32
    regs := (List.range (min x.nReg 65536)).map fun k => s.jobRead j (va + x.regOff + 8 * k) 8
    cls := s.jobBytes j (va + x.clsOff) x.clsSize }

/-- The word of an object's code at an offset, where it lies inside. -/
def State.objWord (s : State) (j : Job) (im : Image) (off : Nat) : Option Word :=
  let x := headerParse im.hdr
  if off % 8 = 0 ∧ off + 8 ≤ x.codeSize then some (BitVec.ofNat 64 (s.jobRead j (im.va + x.codeOff + off) 8)) else none

def State.opAt (s : State) (j : Job) (im : Image) (off : Nat) : Option Nat := (s.objWord j im off).bind opcodeOf

/-- The loader's checks in their order, with the pinned record where one is supplied (R284). -/
def State.loadCheck (s : State) (j : Job) (im : Image) (pinned : Option Nat) : Option Cause :=
  let x := headerParse im.hdr
  let e := im.cls.drop 256 |>.take 4 |>.foldr (fun b acc => b.toNat + 256 * acc) 0
  let badEntry := fun (w : Nat) =>
    let v := BitVec.ofNat 256 w
    decide (x.codeSize ≤ entryOffset v) || entryOffset v % 8 != 0 || entryKind v == 3 || decide (16 < entryTiles v) || decide (64 < entryBins v)
      || bitsOf w 50 206 != 0
  if !x.ok1 im.hdr im.va im.len e then some .loadfmt
  else if x.silo < 1 || 16 < x.silo || x.deadline < 64 || 65536 < x.deadline then some .loadfmt
  else if bitsOf x.feat 2 14 != 0 || bitsOf x.feat 32 32 != 0 then some .feature
  else if bitsOf x.hintreq 3 61 != 0 then some .hint
  else if im.entries.any badEntry then some .loadfmt
  else if !ordered (fun a b => decide (bitsOf a 0 32 < bitsOf b 0 32)) im.maps
      || im.maps.any (fun w => bitsOf w 32 32 != 0 || bitsOf w 192 64 != 0
          || match s.opAt j im (bitsOf w 0 32) with | some o => !mapOps.contains o | none => true) then some .loadfmt
  else if !ordered (fun a b => decide (bitsOf a 0 32 ≤ bitsOf b 0 32)) im.regs
      || im.regs.any (fun w => bitsOf w 32 32 != 0 || s.opAt j im (bitsOf w 0 32) != some 0x044) then some .loadfmt
  else match pinned with
    | some r => if pinOk r im.cls then none else some .pinrej
    | none => none

/-- The object that the loader keeps. -/
def Image.obj (im : Image) (bind : Word) : CodeObj :=
  { va := BitVec.ofNat 64 im.va, hdr := BitVec.ofNat 1024 im.hdr
    entries := im.entries.map (BitVec.ofNat 256 ·)
    maps := im.maps.map fun w => (bitsOf w 0 32, BitVec.ofNat 128 (bitsOf w 64 128))
    regions := im.regs.map fun w => bitsOf w 0 32
    bind := bind
    classes := (sectionParse (im.cls.foldr (fun b acc => b.toNat + 256 * acc) 0)).decls.any (·.used) }

/-- Maps an image's pages: those of the code execute-only, the others read-only (R113, R279). -/
def State.protect (s : State) (j : Job) (im : Image) : State :=
  let x := headerParse im.hdr
  let lo := im.va + x.codeOff
  let t := (pageStarts im.va im.len).foldl (fun (t : State) a =>
    match t.walk j a with
    | .leaf e =>
      let code := decide (lo < e.va + e.size ∧ e.va < lo + x.codeSize)
      t.setLeaves j e.va (sizeCode e.size) (leafEntry e.pa (sizeCode e.size) (!code) false code e.p j.keySlot)
    | _ => t) s
  t.dropTlb fun e => e.asid == j.asid && decide (e.va < im.va + im.len ∧ im.va < e.va + e.size)

/-- Writes `n` bytes of a job's memory by the kernel, its pages mapped on the way. -/
def State.kernelWrite (s : State) (j : Job) (va n v : Nat) : State :=
  (s.touchRange j.id va .store ((va + n - 1) / pageSize - va / pageSize + 1)).jobWrite j va n v

/-! ### Launch records (R286 to R288) -/

structure Bucket where
  entry   : Nat
  plots   : Nat
  furrows : Nat
  dim     : Nat
  lo      : List Nat
  hi      : List Nat
  clean   : Bool
deriving DecidableEq, Repr

def bucketParse (b : Nat) : Bucket :=
  { entry := bitsOf b 0 64, plots := bitsOf b 64 32, furrows := bitsOf b 96 5 + 1, dim := bitsOf b 101 3
    lo := (List.range 8).map fun j => bitsOf b (64 * j + 128) 32, hi := (List.range 8).map fun j => bitsOf b (64 * j + 160) 32
    clean := bitsOf b 104 24 == 0 && bitsOf b 640 128 == 0 }

structure LRec where
  version : Nat
  det     : Bool
  heat    : Nat
  narg    : Nat
  lcount  : Nat
  seed    : Nat
  code    : Nat
  bind    : Nat
  flagw   : Nat
  spill   : Nat
  stageVa : Nat
  stageN  : Nat
  sv      : List Nat
  buckets : List Bucket
  args    : List Nat
  cores   : List Nat
  clean   : Bool
deriving DecidableEq, Repr

/-- A launch record's fields; `clean`: its reserved bits, and the argument words above NARG, are zero. -/
def lrecParse (r : Nat) : LRec :=
  let narg := bitsOf r 16 7
  let byte := fun (o : Nat) => 8 * o
  { version := bitsOf r 0 8, det := bitOf r 8, heat := bitsOf r 9 2, narg := narg, lcount := bitsOf r 32 12, seed := bitsOf r 64 64
    code := bitsOf r 128 64, bind := bitsOf r 192 64, flagw := bitsOf r 256 64, spill := bitsOf r 320 64, stageVa := bitsOf r 384 64
    stageN := bitsOf r 448 32
    sv := (List.range 8).map fun j => bitsOf r (byte (64 + 4 * j)) 32
    buckets := (List.range (bitsOf r 11 3 + 1)).map fun b => bucketParse (bitsOf r (byte (128 + 96 * b)) 768)
    args := (List.range 64).map fun k => if k < narg then bitsOf r (byte (896 + 8 * k)) 64 else 0
    cores := (List.range 384).filter fun g => bitOf r (byte 1408 + g)
    clean := bitsOf r 14 2 == 0 && bitsOf r 23 9 == 0 && bitsOf r 44 20 == 0 && bitsOf r 480 32 == 0 && bitsOf r (byte 96) 256 == 0
      && bitsOf r (byte 1456) 640 == 0 }

/-- The entry record of a bucket, if it is a launch entry of the object (R287). -/
def CodeObj.launchEntry (o : CodeObj) (va : Nat) : Option (BitVec 256) :=
  match o.entryAt va with
  | some e => if entryKind e == 0 || entryKind e == 2 then some e else none
  | none => none

/-- The first row of R288. -/
def LRec.fmtBad (r : LRec) (j : Job) : Bool :=
  match j.objs.find? (·.va.toNat = r.code) with
  | none => true
  | some o =>
    r.version != 1 || !r.clean || (!r.det && r.lcount != 0) || (!r.det && !r.cores.isEmpty) || r.flagw % 8 != 0
      || (o.classes && r.bind == 0)
      || r.buckets.any fun b => (o.launchEntry b.entry).isNone || b.plots == 0 || !b.clean

/-- The first bucket that matches (R30). -/
def LRec.bucket (r : LRec) : Option Bucket :=
  r.buckets.find? fun b => (List.range 8).all fun j => decide (b.lo.getD j 0 ≤ r.sv.getD j 0 ∧ r.sv.getD j 0 ≤ b.hi.getD j 0)

/-- The launch that a record describes in a bucket (R274, R286, R287): its class table is the record's copy. -/
def LRec.launch (r : LRec) (j : Job) (b : Bucket) (classes : Nat) : Launch :=
  let o := j.objAt (BitVec.ofNat 64 r.code)
  let e := (o.entryAt b.entry).getD 0
  { job := j.id, live := true, comp := { detres := r.det }, det := r.det, heat := r.heat, lcount := r.lcount + 1, seed := BitVec.ofNat 64 r.seed
    obj := o.va, classes := (List.range 16).map fun k => BitVec.ofNat 128 (bitsOf classes (128 * k) 128), flagw := BitVec.ofNat 64 r.flagw
    spill := BitVec.ofNat 64 r.spill, stageVa := BitVec.ofNat 64 r.stageVa, stageN := r.stageN, sv := r.sv.map (BitVec.ofNat 32 ·)
    args := r.args.map (BitVec.ofNat 64 ·), cores := (if r.cores.isEmpty then List.range 384 else r.cores).map (· + 1)
    entryVa := BitVec.ofNat 64 b.entry, plots := b.plots, furrows := b.furrows, dim := b.dim, budget := entryBudget e
    tiles := entryTiles e, bins := entryBins e }

/-- Bytes 64 to 319 of a binding record, and its STATUS; the table of no record leaves every class unbound. -/
def State.bindTable (s : State) (j : Job) (bind : Nat) : Nat × Nat :=
  if bind = 0 then ((List.range 16).foldl (fun acc k => acc + place 128 (128 * k)) 0, 0)
  else (s.jobRead j (bind + 64) 256, bitsOf (s.jobRead j bind 8) 8 2)

/-- What R288 says of a launch record; `template`: a stage's template, for which no bucket has to match (R289). -/
def State.launchCheck (s : State) (j : Job) (r : LRec) (template : Bool) : Except Cause Launch :=
  let t := s.bindTable j r.bind
  if r.fmtBad j then .error .launchfmt
  else match (if template then r.bucket.or r.buckets.head? else r.bucket) with
    | none => .error .nobucket
    | some b =>
      let l := r.launch j b t.1
      if t.2 != 0 || j.objs.any (fun o => o.va.toNat == r.code && o.failed) then .error .bindfail
      else if s.quotaNever j l then .error .quota
      else .ok l

def State.readLaunch (s : State) (j : Job) (va : Nat) : LRec := lrecParse (s.jobRead j va 1536)

/-! ### Graph and season records (R289, R291) -/

def edgeNo (v : Nat) : Option Nat := if v = 63 then none else some v

def stageParse (w : Nat) : Stage :=
  { template := BitVec.ofNat 64 (bitsOf w 0 64), inEdge := edgeNo (bitsOf w 64 6), outEdge := edgeNo (bitsOf w 70 6)
    outCount := bitsOf w 76 7, instances := bitsOf w 96 32 }

def edgeOf289 (w : Nat) : Edge :=
  { base := BitVec.ofNat 64 (bitsOf w 0 64), capacity := bitsOf w 64 17, slotsz := bitsOf w 96 7 }

/-- The stages that a stage's output leads to, in as many rounds as there are stages. -/
def stageReach (sts : List Stage) : Nat → List Nat → List Nat
  | 0, l => l
  | n + 1, l => stageReach sts n ((List.range sts.length).foldl (fun (acc : List Nat) i =>
      match (sts.getD i { template := 0, inEdge := none, outEdge := none, outCount := 0, instances := 0 }).inEdge with
      | none => acc
      | some e => if !acc.contains i && acc.any (fun k => ((sts[k]?).bind (·.outEdge)) == some e) then i :: acc else acc) l)

/-- A stage lies on a cycle. -/
def stageCycle (sts : List Stage) (i : Nat) : Bool :=
  match (sts[i]?).bind (·.outEdge) with
  | none => false
  | some e =>
    let next := (List.range sts.length).filter fun k => ((sts[k]?).bind (·.inEdge)) == some e
    (stageReach sts sts.length next).contains i

/-- A graph record: its fields, or what R289 refuses it with. -/
def State.graphCheck (s : State) (j : Job) (va : Nat) : Except Cause Graph :=
  let h := s.jobRead j va 64
  let ns := bitsOf h 8 6
  let ne := bitsOf h 14 6
  let sw := (List.range ns).map fun k => s.jobRead j (va + 64 + 32 * k) 32
  let ew := (List.range ne).map fun k => s.jobRead j (va + 64 + 32 * ns + 32 * k) 32
  let sts := sw.map stageParse
  let es := ew.map edgeOf289
  let cper := bitsOf h 32 7
  let stageBad := fun (st : Stage) =>
    let src := st.inEdge.isNone
    let sink := st.outEdge.isNone
    (match st.inEdge with | some e => decide (ne ≤ e) | none => false) || (match st.outEdge with | some e => decide (ne ≤ e) | none => false)
      || (src && sink && ns != 1)
      || (if sink then st.outCount != 0 else !(decide (1 ≤ st.outCount ∧ st.outCount ≤ 64)))
      || (if src then st.instances == 0 else st.instances != 0)
  let edgeBad := fun (p : Nat × Edge) =>
    (sts.filter fun st => st.outEdge == some p.1).length != 1 || (sts.filter fun st => st.inEdge == some p.1).length != 1
      || p.2.base.toNat % 64 != 0 || p.2.capacity == 0 || decide (65536 < p.2.capacity) || p.2.slotsz == 0 || decide (64 < p.2.slotsz)
      || !(j.regions.any fun r => r.wr && decide (r.base.toNat ≤ p.2.base.toNat
          ∧ p.2.base.toNat + 64 * p.2.slotsz * p.2.capacity ≤ r.base.toNat + r.len))
  let bad := va % 64 != 0 || bitsOf h 0 8 != 1 || ns == 0 || decide (32 < ns) || bitsOf h 20 4 == 0 || bitsOf h 24 8 != 0 || cper == 0
    || decide (96 < cper) || bitsOf h 39 473 != 0
    || sw.any (fun w => bitsOf w 83 13 != 0 || bitsOf w 128 128 != 0) || ew.any (fun w => bitsOf w 81 15 != 0 || bitsOf w 103 153 != 0)
    || sts.any stageBad || (mapIdxFrom (fun k e => (k, e)) 0 es).any edgeBad || (List.range ns).any (stageCycle sts)
  if bad then .error .launchfmt
  else
    match sts.findSome? fun st =>
      match s.launchCheck j (s.readLaunch j st.template.toNat) true with
      | .ok _ => if st.template.toNat % 64 = 0 then none else some Cause.launchfmt
      | .error c => some (if c = .bindfail then .bindfail else .launchfmt) with
    | some c => .error c
    | none => .ok { job := j.id, dies := BitVec.ofNat 4 (bitsOf h 20 4), cperdie := cper, stages := sts, edges := es }

/-- The graphs of a season record, or what R291 refuses it with. -/
def State.seasonCheck (s : State) (j : Job) (va : Nat) : Except Cause (List Graph) :=
  let h := s.jobRead j va 64
  let n := bitsOf h 8 6
  if va % 64 != 0 || bitsOf h 0 8 != 1 || bitsOf h 14 498 != 0 then .error .launchfmt
  else
    -- NGRAPH is 6 bits wide, and 64 graphs do not fit it: 0 is refused (log entry 31)
    if n = 0 then .error .launchfmt
    else (List.range n).foldl (fun (acc : Except Cause (List Graph)) k =>
      match acc with
      | .error c => .error c
      | .ok l => match s.graphCheck j (s.jobRead j (va + 64 + 8 * k) 8) with
        | .ok g => .ok (l ++ [g])
        | .error c => .error c) (.ok [])

end Sys2Proof.Machine
end

