-- ==== Sys2Proof/Machine/Graphs.lean ====
section
/-! DEFINITION. Seasons, graphs and stages at work (R28, R29, R290, R291): their starts, the shares of cores, the instances,
and the start and the end of launches (R100). -/

namespace Sys2Proof.Machine

/-! ### Edges (R28, R290) -/

def Edge.slot (e : Edge) (k : Nat) : SlotState := sget .free e.slots k
def Edge.setSlot (e : Edge) (k : Nat) (v : SlotState) : Edge := { e with slots := sset .free e.slots k v }
/-- Address of a slot (R289). -/
def Edge.slotAt (e : Edge) (k : Nat) : Nat := e.base.toNat + 64 * e.slotsz * k

/-- Consecutive free slots from a slot, at most `n`. -/
def Edge.freeFrom (e : Edge) (k : Nat) : Nat → Nat
  | 0 => 0
  | n + 1 => if e.slot (k % max 1 e.capacity) = .free then 1 + e.freeFrom (k + 1) n else 0
/-- The free-slot count of R28. -/
def Edge.free (e : Edge) : Nat := e.freeFrom e.ri e.capacity

/-- Skips the empty slots at TI, each becoming free; at most `n`. -/
def Edge.skip (e : Edge) : Nat → Edge
  | 0 => e
  | n + 1 => if e.slot e.ti = .empty then ({ e.setSlot e.ti .free with ti := (e.ti + 1) % max 1 e.capacity } : Edge).skip n else e
def Edge.skipped (e : Edge) : Edge := e.skip e.capacity

/-- Whether the slot at TI is produced. -/
def Edge.holdsWork (e : Edge) : Bool := e.skipped.slot e.skipped.ti == .produced
/-- Slots that hold an entry: produced, or taken by an instance that has not ended (R29's occupancy; log entry 30). -/
def Edge.occupied (e : Edge) : Nat := (e.slots.filter fun p => p.2 == .produced || p.2 == .taken).length

def noStage : Stage := { template := 0, inEdge := none, outEdge := none, outCount := 0, instances := 0 }
def noEdge : Edge := { base := 0, capacity := 1, slotsz := 1 }
def Graph.stage (g : Graph) (k : Nat) : Stage := g.stages.getD k noStage
def Graph.edge (g : Graph) (k : Nat) : Edge := g.edges.getD k noEdge
def Graph.setEdge (g : Graph) (k : Nat) (e : Edge) : Graph := { g with edges := setAt g.edges k e }

/-! ### Shares (R29) -/

/-- A stage's weight (R29): entries occupied, room, and w; a determinate template has none (R291). A source has work while it has
instances to start, or, in `busy`, plots of one to place (log entry 30). -/
def Graph.weight (g : Graph) (st : Stage) (det busy : Bool) : Nat :=
  let src := if st.started < st.instances || busy then 1 else 0
  let occ := match st.inEdge with | none => src | some e => (g.edge e).occupied
  let fin := match st.inEdge with | none => 16 * src | some e => 16 * occ / max 1 (g.edge e).capacity
  let room := match st.outEdge with | none => 1 | some e => (g.edge e).free
  let gout := match st.outEdge with | none => 16 | some e => 16 * room / max 1 (g.edge e).capacity
  if det then 0 else if fin * gout = 0 ∧ 0 < occ ∧ 0 < room then 1 else fin * gout

/-- The targets of R29 from the weights: a number of cores for each stage. -/
def shareTargets (ws : List Nat) (c : Nat) : List Nat :=
  let act := (sortOrd (fun (a b : Nat × Nat) => decide (b.2 < a.2)) ((mapIdxFrom (fun i w => (i, w)) 0 ws).filter fun p => p.2 != 0)).take c
  let rest := c - act.length
  let sum := (act.map (·.2)).foldl (· + ·) 0
  let base := act.map fun p => (p.1, 1 + rest * p.2 / max 1 sum)
  let left := c - (base.map (·.2)).foldl (· + ·) 0
  let full := mapIdxFrom (fun i (p : Nat × Nat) => (p.1, p.2 + if i < left then 1 else 0)) 0 base
  mapIdxFrom (fun i _ => ((full.find? fun p => p.1 == i).map (·.2)).getD 0) 0 ws

/-- Whether the shares change (R29). -/
def shareChanges (cur tgt : List Nat) : Bool :=
  (cur.zip tgt).any fun p => (p.2 == 0) != (p.1 == 0) || decide (max 2 (p.1 / 4) ≤ (if p.1 ≤ p.2 then p.2 - p.1 else p.1 - p.2))

/-- Hands a die's cores to the stages: each keeps its own as far as its target goes, then takes spare ones in order (log
entry 30). -/
def dealCores (mine : List Nat) (tgt : List Nat) (sts : List Stage) (die : Nat) : List Stage :=
  let kept := mapIdxFrom (fun i (st : Stage) => (st.share.filter fun c => coreDie c == die).take (tgt.getD i 0)) 0 sts
  let spare := mine.filter fun c => !(kept.any fun l => l.contains c)
  ((mapIdxFrom (fun i (st : Stage) => (i, st)) 0 sts).foldl (fun (acc : List Stage × List Nat) p =>
    let k := kept.getD p.1 []
    let n := tgt.getD p.1 0 - k.length
    (acc.1 ++ [{ p.2 with share := (p.2.share.filter fun c => coreDie c != die) ++ k ++ acc.2.take n }], acc.2.drop n)) ([], spare)).1

/-- Whether a stage of a graph has plots that are not placed yet. -/
def State.stageBusy (s : State) (gid k : Nat) : Bool :=
  s.allLaunches.any fun l => l.live && l.graph == gid && l.stage == k && !l.cancel &&
    (decide (l.next < l.plots) || s.allPlots.any fun p => p.launch == l.id && p.status == .atDie)

/-- A die dispatcher recomputes the shares of one graph (R29). -/
def State.reshare (s : State) (die : Nat) (g : Graph) : Graph :=
  let mine := g.cores.filter fun c => coreDie c == die
  let j := (s.jobOf g.job).getD {}
  let ws := mapIdxFrom (fun k (st : Stage) => g.weight st (s.readLaunch j st.template.toNat).det (s.stageBusy g.id k)) 0 g.stages
  let cur := g.stages.map fun st => (st.share.filter fun c => coreDie c == die).length
  let tgt := shareTargets ws mine.length
  if mine.isEmpty || !shareChanges cur tgt then g else { g with stages := dealCores mine tgt g.stages die }

/-- A die dispatcher's 4,096 clocks since its last recomputation have passed (R29). -/
def State.rebalanceDue (s : State) (die : Nat) : Bool := decide (s.rebalanced.getD die 0 + 4096 ≤ s.cycles)

/-- The shares of stages on a die, every 4,096 clocks (R29). -/
def execGraphRebalance (s : State) : Out :=
  match s.input with
  | .graphRebalance die =>
    .next (if s.rebalanceDue die then
      { s with graphs := s.graphs.map (s.reshare die), rebalanced := setAt s.rebalanced die (s.cycles / 4096 * 4096) } else s)
  | _ => .next s

/-! ### Starts of graphs and seasons (R291) -/

/-- The cores that the dispatchers of a graph's dies choose: most free slots first, then the lowest number. -/
def State.chooseCores (s : State) (dies : BitVec 4) (n : Nat) : List Nat :=
  (List.range 4).flatMap fun d =>
    if dies.getLsbD d then (sortOrd (fun a b => decide (s.freeSlots b < s.freeSlots a)) (s.liveCores d)).take n else []

/-- A graph starts in a season: its completion record, its cores and its first shares. -/
def State.startGraph (s : State) (sid : Nat) (g : Graph) : Option (Word × Nat × State) :=
  match s.newComp g.job with
  | none => none
  | some (c, s1) =>
    let id := s1.nextId
    let h : Graph := { g with id := id, season := sid, comp := c, cores := s1.chooseCores g.dies g.cperdie }
    let h := (List.range 4).foldl (fun (g : Graph) d => s1.reshare d g) h
    some (c.va, id, ({ s1 with nextId := id + 1, graphs := s1.graphs ++ [h] } : State).putComp c)

/-- A season with its graphs: the addresses of its record and of theirs, and the graphs' numbers. -/
def State.startSeason (s : State) (jid : Nat) (gs : List Graph) : Option (List Word × List Nat × State) :=
  match s.newComp jid with
  | none => none
  | some (c, s1) =>
    let id := s1.nextId
    let s2 := { s1 with nextId := id + 1, seasons := s1.seasons ++ [({ id := id, job := jid, comp := c } : Season)] }.putComp c
    gs.foldl (fun (acc : Option (List Word × List Nat × State)) g =>
      match acc with
      | none => none
      | some (vs, ids, t) => match t.startGraph id g with
        | none => none
        | some (v, k, u) => some (vs ++ [v], ids ++ [k], u)) (some ([c.va], [], s2))

/-! ### Starts of launches (R286, R288, R290) -/

/-- Enqueues a launch in a stage of a graph, with its completion record; the word that FLAGW names becomes zero (R68),
whichever word that is: R286 has no value of FLAGW for none. -/
def State.enqueue (s : State) (l : Launch) (gid stage : Nat) (c : Comp) : State :=
  let j := (s.jobOf l.job).getD {}
  let k := { c with detres := l.det }
  let s1 := s.kernelWrite j l.flagw.toNat 8 0
  { s1 with
    nextId := s1.nextId + 1
    launches := s1.launches ++ [{ l with id := s1.nextId, graph := gid, stage := stage, comp := k }] }.putComp k

/-- A launch refused at start (R288, R291): STATUS 4, and its graph starts no further instance. -/
def State.refuseLaunch (s : State) (gid : Nat) (c : Comp) (det : Bool) (cause : Cause) : State :=
  let k := { c with status := 4, cause := causeCode cause, tend := BitVec.ofNat 64 s.timeNs, detres := det }
  let jid := ((s.graphOf gid).map (·.job)).getD 0
  let s1 := (s.putComp k).modJob jid fun j => { j with pastRecs := (0, k.va) :: j.pastRecs }
  let s2 := s1.modGraph gid fun g => { g with cause := g.cause.or (some cause), comp := g.comp.countOne true }
  ((s2.graphOf gid).map fun g => s2.putComp g.comp).getD s2 |>.settleGraph gid

/-- Starts an instance of a stage from its template (R290): `args` replace words 60 to 62. `prep` is what a start does before the
launch is enqueued; a refused launch does nothing of it (R310). -/
def State.startInstance (s : State) (gid stage : Nat) (r : LRec) (args : Option (Nat × Nat × Nat)) (taken reserve : Option Nat)
    (prep : State → State) : Option (Word × State) :=
  match s.graphOf gid with
  | none => none
  | some g =>
    match s.newComp g.job with
    | none => none
    | some (c, s1) =>
      let j := (s1.jobOf g.job).getD {}
      match s1.launchCheck j r false with
      | .error e => some (c.va, s1.refuseLaunch gid c r.det e)
      | .ok l =>
        let as := match args with
          | none => l.args
          | some (a, b, n) => setAt (setAt (setAt l.args 60 (BitVec.ofNat 64 a)) 61 (BitVec.ofNat 64 b)) 62 (BitVec.ofNat 64 n)
        some (c.va, (prep s1).enqueue { l with args := as, taken := taken, reserve := reserve } gid stage c)

/-- What a stage may start (R28): its input, where it has one, skipped and ready, and room in its output. -/
def Graph.canStart (g : Graph) (st : Stage) : Bool :=
  !g.cancel && g.cause.isNone
    && (match st.inEdge with | none => decide (st.started < st.instances) | some e => (g.edge e).holdsWork)
    && (match st.outEdge with | none => true | some e => decide (st.outCount ≤ (g.edge e).free))

/-- Takes the slot at TI: the graph, the slot and its address. -/
def Graph.take (g : Graph) (st : Stage) : Graph × Option Nat × Nat :=
  match st.inEdge with
  | none => (g, none, 0)
  | some k =>
    let e := (g.edge k).skipped
    (g.setEdge k { e.setSlot e.ti .taken with ti := (e.ti + 1) % max 1 e.capacity }, some e.ti, e.slotAt e.ti)

/-- Reserves OUTCOUNT slots from RI: the graph and the first slot. -/
def Graph.reserve (g : Graph) (st : Stage) : Graph × Option Nat :=
  match st.outEdge with
  | none => (g, none)
  | some k =>
    let e := g.edge k
    let e1 := (List.range st.outCount).foldl (fun (e : Edge) i => e.setSlot ((e.ri + i) % max 1 e.capacity) .reserved) e
    (g.setEdge k { e1 with ri := (e.ri + st.outCount) % max 1 e.capacity }, some e.ri)

/-- The slots that an instance reserved. -/
def Graph.slotsOf (g : Graph) (st : Stage) (r : Nat) : List Nat :=
  match st.outEdge with
  | none => []
  | some k => (List.range st.outCount).map fun i => (r + i) % max 1 (g.edge k).capacity

/-- A stage instance starts (R28, R290, R291). -/
def State.stageStart (s : State) (gid stage : Nat) : State :=
  match s.graphOf gid with
  | none => s
  | some g =>
    let st := g.stage stage
    if stage < g.stages.length && g.canStart st then
      let j := (s.jobOf g.job).getD {}
      let (g1, taken, a) := g.take st
      let (g2, first) := g1.reserve st
      let g3 := { g2 with stages := setAt g2.stages stage { st with started := st.started + 1 } }
      let prep := fun (t : State) =>
        let t1 := t.modGraph gid fun _ => g3
        match st.outEdge, first with
        | some k, some r => (g3.slotsOf st r).foldl (fun (t : State) n => t.kernelWrite j ((g3.edge k).slotAt n) 8 0) t1
        | _, _ => t1
      match s.startInstance gid stage (s.readLaunch j st.template.toNat) (some (a, first.getD 0, st.started)) taken first prep with
      | some (_, t) => t
      | none => s
    else s

def execStageInstanceStart (s : State) : Out :=
  match s.input with
  | .stageInstanceStart gid stage => .next (s.stageStart gid stage)
  | _ => .next s

/-! ### The end of a launch (R16, R100, R290) -/

/-- Order of sort keys. -/
def keyBefore (a b : Nat × Nat × Nat × Nat) : Bool :=
  let (a1, a2, a3, a4) := a
  let (b1, b2, b3, b4) := b
  decide (a1 < b1 ∨ (a1 = b1 ∧ (a2 < b2 ∨ (a2 = b2 ∧ (a3 < b3 ∨ (a3 = b3 ∧ a4 < b4))))))

/-- Applies the staged reductions of a launch in ascending key. -/
def State.applyStaged (s : State) (l : Launch) : State :=
  (sortOrd (fun (a b : RedEntry) => keyBefore a.key b.key) l.staged).foldl State.applyRed s

/-- The slots of an instance that ends (R290): produced where their header words at home are not zero, else empty; the
taken one is free. -/
def State.closeSlots (s : State) (l : Launch) : State :=
  match s.graphOf l.graph, s.jobOf l.job with
  | some g, some j =>
    let st := g.stage l.stage
    let g1 := match st.outEdge, l.reserve with
      | some k, some r => g.setEdge k ((g.slotsOf st r).foldl (fun (e : Edge) n =>
          e.setSlot n (if s.jobRead j (e.slotAt n) 8 = 0 then .empty else .produced)) (g.edge k))
      | _, _ => g
    let g2 := match st.inEdge, l.taken with
      | some k, some n => g1.setEdge k ((g1.edge k).setSlot n .free)
      | _, _ => g1
    s.modGraph l.graph fun _ => g2
  | _, _ => s

/-- Whether every plot of a launch has ended. -/
def State.launchDone (s : State) (l : Launch) : Bool :=
  (l.cancel || decide (l.plots ≤ l.next)) && !(s.allPlots.any (·.launch = l.id)) && !(s.ejobs.any (·.launch = l.id))

/-- A launch ends (R16, R17, R100, R290, R291, R326). Plots that a cancel kept from starting count as ended by it. -/
def State.endLaunch (s : State) (lid : Nat) : State :=
  match s.launchOf lid with
  | none => s
  | some l =>
    if !l.live || !s.launchDone l then s
    else
      let bad := l.cancel || l.cause.isSome
      let s1 := if bad then s else s.applyStaged l
      let s2 := s1.closeSlots l
      let left := l.plots - l.next
      let c := ({ l.comp with done := l.comp.done + left, failed := l.comp.failed + left } : Comp).finish l.cancel l.cause s.timeNs
      let s3 := s2.putComp c
      let s4 := s3.modJob l.job fun j => { j with pastRecs := (0, c.va) :: j.pastRecs }
      let s5 : State := { s4 with
        launch := if s4.launch.id = lid then {} else s4.launch
        launches := s4.launches.filter (·.id ≠ lid) }
      let s6 := s5.modGraph l.graph fun g => { g with comp := g.comp.countOne bad }
      let s7 := match s6.graphOf l.graph with | some g => s6.putComp g.comp | none => s6
      (s7.settleGraph l.graph).settleJob l.job

def execLaunchEnd (s : State) : Out :=
  match s.input with
  | .launchEnd lid => .next (s.endLaunch lid)
  | _ => .next s

end Sys2Proof.Machine
end

