-- ==== Sys2Proof/Machine/Mlkem.lean ====
section
/-! DEFINITION. ML-KEM-1024 decapsulation (FIPS 203), which the spec names for provisioning (R315; log entry 13). -/

namespace Sys2Proof.Machine

/-- A polynomial: 256 coefficients modulo q, or its transform. -/
abbrev Poly := List Nat

/-- The modulus, and the rank of ML-KEM-1024. -/
def kemQ : Nat := 3329
def kemRank : Nat := 4

/-- A seven-bit number with its bits in reverse. -/
def reverse7 (n : Nat) : Nat := (List.range 7).foldl (fun a i => a + 2 ^ (6 - i) * (n / 2 ^ i % 2)) 0

/-- Powers of the 256th root of unity 17, by squaring. -/
def rootPower (e : Nat) : Nat :=
  ((List.range 8).foldl (fun (a : Nat × Nat) i => (if e / 2 ^ i % 2 = 1 then a.1 * a.2 % kemQ else a.1, a.2 * a.2 % kemQ)) (1, 17)).1

/-- The i-th factor of X²⁵⁶ + 1 is X² − 17^(factorExp i). -/
def factorExp (i : Nat) : Nat := 2 * reverse7 i + 1

def addPoly (a b : Poly) : Poly := List.zipWith (fun x y => (x + y) % kemQ) a b
def subPoly (a b : Poly) : Poly := List.zipWith (fun x y => (x + kemQ - y) % kemQ) a b
def zeroPoly : Poly := List.replicate 256 0

/-- The coefficients of every second power, from the 0th or the 1st on. -/
def halfPoly (f : Poly) (odd : Nat) : List Nat := (List.range 128).map fun j => f.getD (2 * j + odd) 0

/-- A value of a half at a power of the root. -/
def evalHalf (h : List Nat) (e : Nat) : Nat :=
  let r := rootPower (e % 256)
  h.reverse.foldl (fun a c => (a * r + c) % kemQ) 0

/-- The residues of a polynomial modulo the 128 factors, two coefficients each. -/
def ntt (f : Poly) : Poly :=
  (List.range 256).map fun k => evalHalf (halfPoly f (k % 2)) (factorExp (k / 2))

/-- The polynomial with given residues: 3303 is the inverse of 128. -/
def unntt (f : Poly) : Poly :=
  (List.range 256).map fun k =>
    3303 * ((List.range 128).foldl (fun a i => (a + f.getD (2 * i + k % 2) 0 * rootPower ((256 - factorExp i) * (k / 2) % 256)) % kemQ) 0) % kemQ

/-- The product of two transforms: factor by factor. -/
def timesPoly (a b : Poly) : Poly :=
  (List.range 256).map fun k =>
    let i := k / 2 * 2
    let (a0, a1, b0, b1) := (a.getD i 0, a.getD (i + 1) 0, b.getD i 0, b.getD (i + 1) 0)
    if k % 2 = 0 then (a0 * b0 + a1 * b1 % kemQ * rootPower (factorExp (k / 2) % 256)) % kemQ else (a0 * b1 + a1 * b0) % kemQ

/-- The inner product of two vectors of transforms. -/
def innerPoly (a b : List Poly) : Poly := (List.zipWith timesPoly a b).foldl addPoly zeroPoly

/-- Coefficients of `d` bits, packed from the lowest bit on, and back; with d = 12 they are taken modulo q. -/
def unpackPoly (d : Nat) (bs : List Byte) : Poly :=
  let n := wordOfBytes bs
  (List.range 256).map fun i => if d = 12 then n / 2 ^ (d * i) % 2 ^ d % kemQ else n / 2 ^ (d * i) % 2 ^ d
def packPoly (d : Nat) (f : Poly) : List Byte := bytesOfNat (f.reverse.foldl (fun a c => a * 2 ^ d + c % 2 ^ d) 0) (32 * d)

/-- A vector of packed polynomials. -/
def unpackVec (d : Nat) (bs : List Byte) : List Poly := (List.range kemRank).map fun i => unpackPoly d ((bs.drop (32 * d * i)).take (32 * d))

/-- A coefficient to `d` bits, rounded, and back. -/
def squeezeCoef (d x : Nat) : Nat := (2 ^ (d + 1) * x + kemQ) / (2 * kemQ) % 2 ^ d
def stretchCoef (d y : Nat) : Nat := (2 * kemQ * y + 2 ^ d) / 2 ^ (d + 1)

/-- A uniform polynomial of transforms from a seed: 12-bit candidates below q, of at most 280 groups of three bytes. -/
def samplePoly (seed : List Byte) : Poly :=
  let bs := shake128Bytes seed 840
  let c := (List.range 280).flatMap fun i =>
    let n := wordOfBytes ((bs.drop (3 * i)).take 3)
    [n % 4096, n / 4096]
  let a := (c.filter (· < kemQ)).take 256
  a ++ List.replicate (256 - a.length) 0

/-- A small polynomial: coefficient i is the number of set bits among bits 4i and 4i + 1 less that of the next two. -/
def smallPoly (r : List Byte) (n : Nat) : Poly :=
  let x := wordOfBytes (shake256Bytes (r ++ [BitVec.ofNat 8 n]) 128)
  (List.range 256).map fun i =>
    let b := x / 2 ^ (4 * i)
    (b % 2 + b / 2 % 2 + kemQ - b / 4 % 2 - b / 8 % 2) % kemQ

/-- The encryption of a message under a public key, with given randomness. -/
def kemEncrypt (ek m r : List Byte) : List Byte :=
  let t := unpackVec 12 ek
  let rho := (ek.drop 1536).take 32
  let y := (List.range kemRank).map fun i => ntt (smallPoly r i)
  let u := (List.range kemRank).map fun i =>
    let row := (List.range kemRank).map fun j => samplePoly (rho ++ [BitVec.ofNat 8 i, BitVec.ofNat 8 j])
    addPoly (unntt (innerPoly row y)) (smallPoly r (kemRank + i))
  let v := addPoly (addPoly (unntt (innerPoly t y)) (smallPoly r (2 * kemRank))) ((unpackPoly 1 m).map (stretchCoef 1))
  (u.flatMap fun p => packPoly 11 (p.map (squeezeCoef 11))) ++ packPoly 5 (v.map (squeezeCoef 5))

/-- The message that a ciphertext holds under a secret vector. -/
def kemDecrypt (dk c : List Byte) : List Byte :=
  let u := (unpackVec 11 c).map fun p => ntt (p.map (stretchCoef 11))
  let v := (unpackPoly 5 (c.drop 1408)).map (stretchCoef 5)
  packPoly 1 ((subPoly v (unntt (innerPoly (unpackVec 12 dk) u))).map (squeezeCoef 1))

/-- The shared secret of a ciphertext under a decapsulation key of 3,168 bytes: a ciphertext that does not come back from its own
message gives a secret of the key's last 32 bytes. -/
def decapsulate (dk c : List Byte) : List Byte :=
  let ek := (dk.drop 1536).take 1568
  let m := kemDecrypt (dk.take 1536) c
  let g := sha3Bytes (m ++ (dk.drop 3104).take 32)
  if kemEncrypt ek m (g.drop 32) = c then g.take 32 else shake256Bytes ((dk.drop 3136).take 32 ++ c) 32

end Sys2Proof.Machine
end

