-- ==== Sys2Proof/Machine/Slh.lean ====
section
/-! DEFINITION. SLH-DSA-SHAKE-256s signatures (FIPS 205), as the module makes them for quotes (R337; log entry 13). -/

namespace Sys2Proof.Machine

/-! ### Parameters: n = 32, 8 layers of height 8, 22 trees of height 14, 67 chains of 16 -/

def slhLayers : Nat := 8
def slhHeight : Nat := 8
def slhTrees : Nat := 22
def slhTreeHeight : Nat := 14
def slhChains : Nat := 67

/-- Kinds of addresses. -/
inductive SlhKind
  | chain | chainEnds | tree | forest | roots | chainKey | forestKey
deriving DecidableEq, Repr

def SlhKind.code : SlhKind → Nat
  | .chain => 0 | .chainEnds => 1 | .tree => 2 | .forest => 3 | .roots => 4 | .chainKey => 5 | .forestKey => 6

/-- An address: layer, tree, kind, and the last three words: the key pair, a chain or a height, a step or an index. -/
structure SlhAdr where
  layer : Nat := 0
  tree  : Nat := 0
  kind  : SlhKind := .chain
  pair  : Nat := 0
  a     : Nat := 0
  b     : Nat := 0
deriving DecidableEq, Repr

/-- A number in `k` bytes, most significant first, and back. -/
def bigBytes (n k : Nat) : List Byte := (bytesOfNat n k).reverse
def ofBigBytes (l : List Byte) : Nat := wordOfBytes l.reverse

def SlhAdr.bytes (x : SlhAdr) : List Byte :=
  bigBytes x.layer 4 ++ bigBytes x.tree 12 ++ bigBytes x.kind.code 4 ++ bigBytes x.pair 4 ++ bigBytes x.a 4 ++ bigBytes x.b 4

/-- The first `k` digits of `d` bits of a byte string, the most significant first. -/
def bigDigits (l : List Byte) (d k : Nat) : List Nat :=
  let n := ofBigBytes l
  (List.range k).map fun i => n / 2 ^ (8 * l.length - d * (i + 1)) % 2 ^ d

/-- The keyed hash of an address and a message: F, H, T and PRF of FIPS 205. -/
def slhHash (seed : List Byte) (x : SlhAdr) (m : List Byte) : List Byte := shake256Bytes (seed ++ x.bytes ++ m) 32

/-! ### Chains -/

/-- `steps` steps of a chain from step `from_` on. -/
def slhChain (seed : List Byte) (x : SlhAdr) (m : List Byte) (from_ steps : Nat) : List Byte :=
  (List.range steps).foldl (fun m i => slhHash seed { x with b := from_ + i } m) m

/-- The digits that the chains of a 32-byte message sign, with their check digits. -/
def slhDigits (m : List Byte) : List Nat :=
  let d := bigDigits m 4 64
  d ++ bigDigits (bigBytes ((d.map (15 - ·)).foldl (· + ·) 0 * 16) 2) 4 3

/-- A chain's secret start. -/
def slhChainKey (sk seed : List Byte) (x : SlhAdr) (i : Nat) : List Byte := slhHash seed { x with kind := .chainKey, a := i, b := 0 } sk

def slhChainSign (sk seed : List Byte) (x : SlhAdr) (m : List Byte) : List Byte :=
  (mapIdxFrom (fun i d => slhChain seed { x with kind := .chain, a := i } (slhChainKey sk seed x i) 0 d) 0 (slhDigits m)).flatten

/-- The public value of a key pair's chains. -/
def slhChainPublic (sk seed : List Byte) (x : SlhAdr) : List Byte :=
  slhHash seed { x with kind := .chainEnds, a := 0, b := 0 }
    ((List.range slhChains).flatMap fun i => slhChain seed { x with kind := .chain, a := i } (slhChainKey sk seed x i) 0 15)

/-! ### Trees -/

/-- Node `i` at height `z` of a tree whose leaves `leaf` gives; `x` names the tree. -/
def slhNode (seed : List Byte) (x : SlhAdr) (leaf : Nat → List Byte) (i : Nat) : Nat → List Byte
  | 0 => leaf i
  | z + 1 => slhHash seed { x with a := z + 1, b := i } (slhNode seed x leaf (2 * i) z ++ slhNode seed x leaf (2 * i + 1) z)

/-- The siblings of a leaf's path up to height `h`. -/
def slhPath (seed : List Byte) (x : SlhAdr) (leaf : Nat → List Byte) (i h : Nat) : List Byte :=
  (List.range h).flatMap fun z => slhNode seed x leaf (i / 2 ^ z ^^^ 1) z

/-- The root of a leaf's value and path. -/
def slhRootFrom (seed : List Byte) (x : SlhAdr) (leaf path : List Byte) (i h : Nat) : List Byte :=
  (List.range h).foldl (fun m z =>
    let p := (path.drop (32 * z)).take 32
    slhHash seed { x with a := z + 1, b := i / 2 ^ (z + 1) } (if i / 2 ^ z % 2 = 0 then m ++ p else p ++ m)) leaf

/-- The leaf of a layer's tree. -/
def slhLeaf (sk seed : List Byte) (layer tree i : Nat) : List Byte := slhChainPublic sk seed { layer := layer, tree := tree, pair := i }

/-- A message signed in one layer's tree, and that tree's root. -/
def slhLayerSign (sk seed : List Byte) (layer tree i : Nat) (m : List Byte) : List Byte × List Byte :=
  let x : SlhAdr := { layer := layer, tree := tree, kind := .tree }
  let leaf := slhLeaf sk seed layer tree
  (slhChainSign sk seed { layer := layer, tree := tree, pair := i } m ++ slhPath seed x leaf i slhHeight, slhNode seed x leaf 0 slhHeight)

/-! ### The forest -/

/-- A leaf's secret in the forest, and its value. -/
def slhForestKey (sk seed : List Byte) (x : SlhAdr) (i : Nat) : List Byte := slhHash seed { x with kind := .forestKey, b := i } sk
def slhForestLeaf (sk seed : List Byte) (x : SlhAdr) (i : Nat) : List Byte := slhHash seed { x with b := i } (slhForestKey sk seed x i)

def slhForestSign (sk seed : List Byte) (x : SlhAdr) (digits : List Nat) : List Byte :=
  (mapIdxFrom (fun t d =>
    let i := t * 2 ^ slhTreeHeight + d
    slhForestKey sk seed x i ++ slhPath seed x (slhForestLeaf sk seed x) i slhTreeHeight) 0 digits).flatten

/-- The forest's public value from a signature. -/
def slhForestFrom (seed : List Byte) (x : SlhAdr) (sig : List Byte) (digits : List Nat) : List Byte :=
  slhHash seed { x with kind := .roots }
    (mapIdxFrom (fun t d =>
      let i := t * 2 ^ slhTreeHeight + d
      let s := sig.drop (32 * (slhTreeHeight + 1) * t)
      slhRootFrom seed x (slhHash seed { x with b := i } (s.take 32)) (s.drop 32) i slhTreeHeight) 0 digits).flatten

/-! ### Signatures -/

/-- What a message's digest selects: the forest's digits, the tree and the leaf. -/
def slhSelect (r seed root m : List Byte) : List Nat × Nat × Nat :=
  let d := shake256Bytes (r ++ seed ++ root ++ m) 47
  (bigDigits (d.take 39) slhTreeHeight slhTrees, ofBigBytes ((d.drop 39).take 7) % 2 ^ 56, ofBigBytes (d.drop 46) % 2 ^ slhHeight)

/-- A message as it is signed, with an empty context. -/
def slhMessage (m : List Byte) : List Byte := 0 :: 0 :: m

/-- The 29,792 bytes of a signature under a key of four parts of 32 bytes: the secret seed, the secret of the randomiser, the public
seed, the public root; `opt` is the signer's random string. -/
def slhSign (key opt msg : List Byte) : List Byte :=
  let sk := key.take 32
  let seed := (key.drop 64).take 32
  let m := slhMessage msg
  let r := shake256Bytes ((key.drop 32).take 32 ++ opt ++ m) 32
  let (digits, tree, leaf) := slhSelect r seed ((key.drop 96).take 32) m
  let x : SlhAdr := { tree := tree, kind := .forest, pair := leaf }
  let forest := slhForestSign sk seed x digits
  let layers := (List.range slhLayers).foldl (fun (a : List Byte × List Byte × Nat × Nat) l =>
    let y := slhLayerSign sk seed l a.2.2.1 a.2.2.2 a.2.1
    (a.1 ++ y.1, y.2, a.2.2.1 / 2 ^ slhHeight, a.2.2.1 % 2 ^ slhHeight)) ([], slhForestFrom seed x forest digits, tree, leaf)
  r ++ forest ++ layers.1

end Sys2Proof.Machine
end

