-- ==== Sys2Proof/Machine/Host.lean ====
section
/-! DEFINITION. The command endpoint (R313 to R319): what it accepts, and the commands of hosts. -/

namespace Sys2Proof.Machine

/-! ### Acceptance (R313 to R315, R317) -/

def mgmtSlot : BitVec 32 := 0xFFFFFFFF

/-- What a command comes to. -/
inductive Reply
  /-- done: the response's body -/
  | ok (s : State) (body : List Word)
  /-- done, and the response follows when the job has gone -/
  | later (s : State)
  /-- RSTAT and body; the state stays as it was (R317) -/
  | refuse (rstat : Nat) (body : List Word)
deriving DecidableEq, Repr

/-- A refusal for which R324 has no cause (log entry 34). -/
def refusedOnly : Reply := .refuse 6 []
def badFmt : Reply := .refuse 3 []
def noRoom : Reply := .refuse 4 []
def noJob : Reply := .refuse 5 []
def refusedFor (c : Cause) : Reply := .refuse 6 [BitVec.ofNat 64 (causeCode c).toNat]

/-- Which commands the management slot's epoch binds (R315), and who may send one (R316). -/
structure CmdKind where
  type  : BitVec 8
  mgmt  : Bool := false
  /-- a tenant or management may send it -/
  both  : Bool := false
  epoch : Bool := true
deriving DecidableEq, Repr

def State.reply (s : State) (k : CmdKind) (c : CmdHdr) (r : Reply) (accept : State → State) : State :=
  match r with
  | .ok t body => (accept t).respond k.type 0 c.slot.toNat c.asid body
  | .later t => accept t
  | .refuse n body => s.respond k.type n c.slot.toNat c.asid body

/-- A JOBDEL of a slot is in progress: the slot's next command is taken once it has completed (R314). -/
def State.slotHeld (s : State) (slot : BitVec 32) : Bool := s.allJobs.any fun j => j.deleting == some slot.toNat

/-- A command must wait: its slot's JOBDEL is in progress, or an earlier command of its slot waits (R314). -/
def State.mustWait (s : State) (c : CmdHdr) : Bool :=
  s.slotHeld c.slot || s.fleet.held.any fun h => h.2.2.slot == c.slot && decide (h.2.2.seq.toNat < c.seq.toNat)

/-- The command waits, with what it was handed over as; it is executed in SEQ order, once nothing is before it (R314). -/
def State.hold (s : State) (i : Instr) (c : CmdHdr) : State :=
  if s.fleet.held.any (·.2.2 == c) then s else { s with fleet := { s.fleet with held := s.fleet.held ++ [(i, s.input, c)] } }

/-- A command waits no longer. -/
def State.unheld (s : State) (c : CmdHdr) : State :=
  { s with fleet := { s.fleet with held := s.fleet.held.filter fun h => h.2.2 != c } }

/-- Accepts a command and runs it (R314, R315): TAG first, then the turn of its slot, then SEQ, then who sent it, then its form. -/
def command (i : Instr) (k : CmdKind) (c : CmdHdr) (body : State → Reply) (s : State) : State :=
  let run := fun (s : State) => if c.formOk k.type then body s else badFmt
  if !s.fleet.booted then s
  else if c.slot = mgmtSlot then
    match s.fleet.store.key with
    | none => s
    | some key =>
      let s := if s.mustWait c then s else s.unheld c
      if !c.signed key then { s with fleet := { s.fleet with mgmtAuthFail := s.fleet.mgmtAuthFail + 1 } }
      else if s.mustWait c then s.hold i c
      else if decide (c.seq.toNat ≤ s.fleet.mgmtSeq) || (k.epoch && c.seq.extractLsb' 32 32 != s.fleet.store.epoch) then
        s.respond k.type 2 c.slot.toNat c.asid []
      else s.reply k c (if k.mgmt || k.both then run s else refusedOnly) fun t => { t with fleet := { t.fleet with mgmtSeq := c.seq.toNat } }
  else
    match s.slotOf c.slot.toNat with
    | none => s
    | some x =>
      let modSlot := fun (t : State) (g : TSlot → TSlot) =>
        { t with fleet := { t.fleet with slots := t.fleet.slots.map fun (y : TSlot) => if y.num = x.num then g y else y } }
      let s := if s.mustWait c then s else s.unheld c
      if !c.signed x.key then modSlot s fun y => { y with authFail := y.authFail + 1 }
      else if s.mustWait c then s.hold i c
      else if c.seq.toNat ≤ x.seq then s.respond k.type 2 c.slot.toNat c.asid []
      else if k.mgmt then s.respond k.type 7 c.slot.toNat c.asid []
      else s.reply k c (run s) fun t => modSlot t fun y => { y with seq := c.seq.toNat }

/-- The job that a command names: one of its slot, that no JOBDEL is ending (R317). -/
def State.cmdJob (s : State) (c : CmdHdr) : Option Job :=
  s.allJobs.find? fun j => j.asid == c.asid && j.deleting.isNone && (j.slot == c.slot.toNat || c.slot == mgmtSlot)

/-- A command on a job. -/
def onJob (c : CmdHdr) (run : State → Job → Reply) (s : State) : Reply :=
  match s.cmdJob c with
  | some j => run s j
  | none => noJob

/-- A command on a job that still runs. -/
def onLiveJob (c : CmdHdr) (run : State → Job → Reply) (s : State) : Reply :=
  onJob c (fun s j => if j.live && !j.cancel then run s j else noJob) s

/-! ### Bodies (R316; the place of each item: log entry 58) -/

/-- A body of a given form, or BADFMT (R317). -/
def withBody {α : Type} (b : Option α) (run : α → Reply) : Reply := match b with | some x => run x | none => badFmt

/-- Words as one number, the first lowest. -/
def numOfWords : List Word → Nat
  | [] => 0
  | w :: rest => w.toNat + 2 ^ 64 * numOfWords rest

/-- An empty body. -/
def emptyBody : List Word → Option Unit
  | [] => some ()
  | _ => none
/-- A body of one item. -/
def oneWord : List Word → Option Word
  | [a] => some a
  | _ => none
/-- A body of two items. -/
def twoWords : List Word → Option (Word × Word)
  | [a, b] => some (a, b)
  | _ => none
/-- A flag: 0 or 1. -/
def flagWord (w : Word) : Option Bool := if w = 0 then some false else if w = 1 then some true else none

/-- SLOTSET: slot, 32-byte key, quotas of near and of far memory in pages of 64 KiB, jobs. -/
def slotsetBody : List Word → Option TSlot
  | [slot, k0, k1, k2, k3, near, far, jobs] =>
    if slot.toNat ≤ 1023 then
      some { num := slot.toNat, key := BitVec.ofNat 256 (numOfWords [k0, k1, k2, k3]), near := near.toNat, far := far.toNat, jobs := jobs.toNat }
    else none
  | _ => none

/-- LOAD: address and length of the object, address of the binding record, address of the pinned record or 0. -/
structure LoadBody where
  va     : Word
  len    : Word
  bind   : Word
  pinned : Word
deriving DecidableEq, Repr

def loadBody : List Word → Option LoadBody
  | [va, len, bind, pinned] => some { va := va, len := len, bind := bind, pinned := pinned }
  | _ => none

/-- CANCEL: completion record and level. -/
def cancelBody (l : List Word) : Option (Word × Nat) := (twoWords l).bind fun p => if p.2.toNat ≤ 3 then some (p.1, p.2.toNat) else none

/-- WINOPEN: INDEX, BASE, LEN, RD, WR, HOST, ANY, PEERMOD (R319). -/
def winBody : List Word → Option WinBody
  | [index, base, len, rd, wr, host, any, peer] => do
    let r ← flagWord rd
    let w ← flagWord wr
    let h ← flagWord host
    let a ← flagWord any
    if index.toNat ≤ 63 && decide (a = true ∨ peer.toNat < 65536) then
      some { index := index.toNat, base := base, len := len.toNat, rd := r, wr := w, host := h, any := a, peer := peer.setWidth 16 }
    else none
  | _ => none

/-- TRAPREPLY: the record's sequence number; 0 resume, 1 end. -/
def replyBody (l : List Word) : Option (Nat × Bool) := (twoWords l).bind fun p => (flagWord p.2).map fun e => (p.1.toNat, e)

/-- QUOTE: a nonce of 32 bytes. -/
def nonceBody : List Word → Option (BitVec 256)
  | [a, b, c, d] => some (BitVec.ofNat 256 (numOfWords [a, b, c, d]))
  | _ => none

/-! ### SLOTSET -/

def State.slotset (s : State) (b : TSlot) : Reply :=
  let new : TSlot := match s.slotOf b.num with
    | some old => { old with key := b.key, near := b.near, far := b.far, jobs := b.jobs }
    | none => b
  .ok { s with fleet := { s.fleet with slots := new :: s.fleet.slots.filter fun (x : TSlot) => x.num ≠ b.num } } []

/-- Creates or rekeys a slot (R316). -/
def execSlotset (s : State) : Out :=
  match s.input with
  | .slotset c => .next (command .slotset { type := 0x01, mgmt := true } c (fun s => withBody (slotsetBody c.body) s.slotset) s)
  | _ => .next s

/-! ### JOBNEW and JOBDEL (R316, R318) -/

/-- The body's form (R318). -/
def bodyOk (b : JobBody) : Bool :=
  decide (1 ≤ b.regions.length ∧ b.regions.length ≤ 16) && decide (1 ≤ b.arenaN ∧ b.arenaN ≤ 65536) && b.ctableVa.toNat % 64 == 0
    && b.arenaVa.toNat % 1024 == 0
    && b.regions.all (fun r => r.base.toNat % 65536 == 0 && r.len % 65536 == 0 && r.len != 0 && decide (r.base.toNat + r.len ≤ aperture))
    && disjoint (b.regions.map fun r => (r.base.toNat, r.len))
    && b.regions.any (fun r => r.wr && decide (r.base.toNat ≤ b.arenaVa.toNat ∧ b.arenaVa.toNat < r.base.toNat + r.len))

/-- A region of JOBNEW, from its two words; its zero bits are zero (R318). -/
def regionParse (base w : Word) : Option RegionDesc :=
  if w.extractLsb' 45 19 = 0 then
    some { base := base, len := (w.extractLsb' 0 40).toNat, rd := w.getLsbD 40, wr := w.getLsbD 41, near := w.getLsbD 42, die := w.extractLsb' 43 2 }
  else none

/-- The body of JOBNEW (R318): NREG and ARENAN, ARENAVA, CTABLEVA, CTABLEN, then two words for each region. -/
def jobParse (l : List Word) : Option JobBody :=
  let w := fun (i : Nat) => l.getD i 0
  let n := ((w 0).extractLsb' 0 32).toNat
  if l.length ≠ 4 + 2 * n || 16 < n || (w 3).extractLsb' 12 52 ≠ 0 then none
  else
    ((List.range n).mapM fun i => regionParse (w (4 + 2 * i)) (w (5 + 2 * i))).map fun rs =>
      { arenaN := ((w 0).extractLsb' 32 32).toNat, arenaVa := w 1, ctableVa := w 2, ctableN := (w 3).extractLsb' 0 12, regions := rs }

/-- Whether a die runs (R336, R358, R360). -/
def State.dieRuns (s : State) (d : Nat) : Bool := let x := s.fleet.dies.getD d {}; x.kernel.isSome && !x.isolated

def State.jobnew (s : State) (slot : Nat) (b : JobBody) : Reply :=
  if !bodyOk b then badFmt
  else if !(b.regions.all fun r => s.dieRuns r.die.toNat) then noRoom
  else
    let mine := (s.allJobs.filter (·.slot = slot)).length
    let asid := lowestFree 65535 (s.allJobs.map fun j => j.asid.toNat - 1)
    let keys := lowestFree 4095 (s.allJobs.map fun j => j.keySlot.toNat - 1)
    match asid, keys, s.allocFrame 0 true (2 ^ 14) with
    | some a, some k, some (root, s1) =>
      if ((s.slotOf slot).map (·.jobs)).getD 0 ≤ mine then noRoom
      else
        let j : Job :=
          { id := s1.nextId, live := true, asid := BitVec.ofNat 16 (a + 1), slot := slot, root := root, regions := b.regions
            arenaVa := b.arenaVa, arenaN := b.arenaN, ctableVa := b.ctableVa, ctableN := b.ctableN, keySlot := BitVec.ofNat 12 (k + 1)
            xts := Config.xtsPair s1.nextId, ktag := Config.tagKey s1.nextId }
        let s2 := { s1 with nextId := s1.nextId + 1, jobs := s1.jobs ++ [j] }
        match s2.newComp j.id with
        | some (c, s3) => .ok ((s3.modJob j.id fun j => { j with comp := c }).putComp c) [BitVec.ofNat 64 (a + 1), c.va]
        | none => noRoom
    | _, _, _ => noRoom

/-- Creates a job (R318). -/
def execJobnew (s : State) : Out :=
  match s.input with
  | .jobnew c =>
    .next (command .jobnew { type := 0x10 } c (fun s => withBody (jobParse c.body) (s.jobnew c.slot.toNat)) s)
  | _ => .next s

/-- Cancels the job; once it has ended, destroys its key slot, pages and contexts (R316). -/
def execJobdel (s : State) : Out :=
  match s.input with
  | .jobdel c =>
    .next (command .jobdel { type := 0x11 } c (fun s => withBody (emptyBody c.body) fun _ => onJob c (fun s j =>
      if j.live then .later ((s.modJob j.id fun j => { j with deleting := some c.slot.toNat }).cancelJob j.id)
      else .ok (s.destroyJob j.id) []) s) s)
  | _ => .next s

/-! ### LOAD (R276, R284) -/

def State.loadObject (s : State) (j : Job) (va len bind pinned : Word) : Reply :=
  let im := s.readImage j va.toNat len.toNat
  let pin := if pinned = 0 then none else some (s.jobRead j pinned.toNat 320)
  let outside := fun (a n : Nat) => n != 0 && (pageStarts a n).any fun p => (j.regionOf p).isNone
  if outside va.toNat len.toNat || (bind != 0 && (bind.toNat % 64 != 0 || outside bind.toNat 320)) || (pinned != 0 && outside pinned.toNat 320) then badFmt
  else match s.loadCheck j im pin with
    | some c => refusedFor c
    | none =>
      let s1 := (s.touchRange j.id va.toNat .load ((va.toNat + len.toNat - 1) / pageSize - va.toNat / pageSize + 1)).protect j im
      let rec_ := match pin with | some r => r | none => bindRecord im.cls
      let s2 := if bind = 0 || (im.cls.isEmpty && pin.isNone) then s1 else s1.kernelWrite j bind.toNat 320 rec_
      let failed := (!im.cls.isEmpty || pin.isSome) && bitsOf rec_ 8 8 != 0
      .ok (s2.modJob j.id fun j => { j with objs := { im.obj bind with failed := failed } :: j.objs.filter (·.va ≠ va) }) [0]

/-- Loads a code object. -/
def execLoad (s : State) : Out :=
  match s.input with
  | .load c => .next (command .load { type := 0x12 } c (fun s => withBody (loadBody c.body) fun b =>
      onLiveJob c (fun s j => s.loadObject j b.va b.len b.bind b.pinned) s) s)
  | _ => .next s

/-! ### LAUNCH and SEASON (R288, R291) -/

/-- The one-stage graph of a LAUNCH. -/
def oneStage (j : Job) (rec_ : Word) : Graph :=
  { job := j.id, dies := 0xF, cperdie := 96
    stages := [{ template := rec_, inEdge := none, outEdge := none, outCount := 0, instances := 1 }] }

def State.launchCmd (s : State) (j : Job) (rec_ : Word) : Reply :=
  if rec_.toNat % 64 != 0 then badFmt
  else match s.startSeason j.id [oneStage j rec_] with
    | some ([sv, gv], [gid], s1) =>
      let s2 := s1.modGraph gid fun g => { g with stages := g.stages.map fun (st : Stage) => { st with started := 1 } }
      match s2.startInstance gid 0 (s.readLaunch j rec_.toNat) none none none id with
      | some (lv, s3) => .ok s3 [lv, gv, sv]
      | none => noRoom
    | _ => noRoom

/-- Checks a launch record and enqueues the launch. -/
def execLaunch (s : State) : Out :=
  match s.input with
  | .launch c => .next (command .launch { type := 0x13 } c (fun s => withBody (oneWord c.body) fun r => onLiveJob c (fun s j => s.launchCmd j r) s) s)
  | _ => .next s

def State.seasonCmd (s : State) (j : Job) (rec_ : Word) : Reply :=
  match s.seasonCheck j rec_.toNat with
  | .error c => refusedFor c
  | .ok gs => match s.startSeason j.id gs with
    | some (vs, _, s1) => .ok s1 vs
    | none => noRoom

/-- Checks a season and starts its graphs. -/
def execSeason (s : State) : Out :=
  match s.input with
  | .season c => .next (command .season { type := 0x1B } c (fun s => withBody (oneWord c.body) fun r => onLiveJob c (fun s j => s.seasonCmd j r) s) s)
  | _ => .next s

/-! ### CANCEL and PREEMPT -/

/-- As the instruction (R150); a record that names no unit of the job at that level is refused with its cause. -/
def execCancelCommand (s : State) : Out :=
  match s.input with
  | .cancelCommand c =>
    .next (command .cancelCommand { type := 0x14 } c (fun s => withBody (cancelBody c.body) fun b => onJob c (fun s j =>
      match s.cancelUnit j b.1 b.2 with
      | some t => .ok t []
      | none => refusedFor .illegal) s) s)
  | _ => .next s

/-- Requests pre-emption of each resident plot of a launch (R33). -/
def execPreempt (s : State) : Out :=
  match s.input with
  | .preempt c =>
    .next (command .preempt { type := 0x15, both := true } c (fun s => withBody (oneWord c.body) fun r => onJob c (fun s j =>
      match s.allLaunches.find? fun l => l.job == j.id && l.live && l.comp.va == r with
      | some l => .ok (s.preemptWhere fun p => p.launch == l.id) []
      | none => if j.pastRecs.contains (0, r) then .ok s [] else badFmt) s) s)
  | _ => .next s

/-! ### Windows (R319) -/

def State.winopen (s : State) (j : Job) (w : WinBody) : Reply :=
  let inside := (pageStarts w.base.toNat w.len).all fun a => (j.regionOf a).isSome || decide (w.base.toNat + w.len ≤ a)
  if w.base.toNat % 65536 != 0 || w.len % 65536 != 0 || w.len == 0 || !inside then badFmt
  else .ok (s.modJob j.id fun j => { j with
    windows := setAt j.windows w.index
      { isOpen := true, base := w.base, len := w.len, rd := w.rd, wr := w.wr, host := w.host, any := w.any, peer := w.peer } }) []

def execWinopen (s : State) : Out :=
  match s.input with
  | .winopen c => .next (command .winopen { type := 0x16 } c (fun s => withBody (winBody c.body) fun w => onJob c (fun s j => s.winopen j w) s) s)
  | _ => .next s

/-- Closes a window. -/
def execWinclose (s : State) : Out :=
  match s.input with
  | .winclose c =>
    .next (command .winclose { type := 0x17 } c (fun s => withBody (oneWord c.body) fun k =>
      if 63 < k.toNat then badFmt
      else onJob c (fun s j => .ok (s.modJob j.id fun j => { j with windows := setAt j.windows k.toNat {} }) []) s) s)
  | _ => .next s

/-! ### TRAPREPLY (R327) -/

/-- The furrow of a job that waits for the host's reply to a trap. -/
def State.hostTrap (s : State) (jid seq : Nat) : Option Furrow :=
  s.allFurs.find? fun f =>
    (match f.status with | .trapped n c _ _ => n == seq && disposition c == .host | _ => false)
      && ((s.plotOf f.plot).bind fun p => s.launchOf p.launch).any fun l => l.job == jid

def execTrapreply (s : State) : Out :=
  match s.input with
  | .trapreply c =>
    .next (command .trapreply { type := 0x18 } c (fun s => withBody (replyBody c.body) fun b => onJob c (fun s j =>
      match s.hostTrap j.id b.1 with
      | some f => .ok (if b.2 then s.endTrapped f else s.returnTrap f.id f.trapRecord b.1) []
      | none => badFmt) s) s)
  | _ => .next s

/-! ### QUERY and QUOTE (R316, R337, R347) -/

/-- The number of a unit (log entry 24). -/
def unitNo : UnitId → Nat
  | .core n => 256 * n
  | .homeSlice n => 256 * n + 1
  | .channel n => 256 * n + 2
  | .bridge n => 256 * n + 3
  | .port n => 256 * n + 4
  | .sensor z n => 256 * (256 * z + n) + 5

def Clock.code (c : Clock) : Nat := match c.state with | .free => 0 | .acquiring => 1 | .locked => 2 | .holdover => 3

/-- The clock block (R347). -/
def Clock.block (c : Clock) : List Word :=
  [BitVec.ofNat 64 (c.code + place c.domain.toNat 16), BitVec.ofNat 64 c.lockAt, BitVec.ofNat 64 c.leftLock, 0]

/-- What QUERY returns, in this order (log entry 32): running dies, clock block, retired units, jobs with STATUS, epoch,
keys. -/
def State.queryBody (s : State) (slot : BitVec 32) : List Word :=
  let js := s.allJobs.filter fun j => slot == mgmtSlot || j.slot == slot.toNat
  let dies := (List.range 4).foldl (fun acc d => if s.dieRuns d then acc + 2 ^ d else acc) 0
  [BitVec.ofNat 64 dies] ++ s.clock.block
    ++ BitVec.ofNat 64 s.fleet.retired.length :: s.fleet.retired.map (fun u => BitVec.ofNat 64 (unitNo u))
    ++ BitVec.ofNat 64 js.length :: js.map (fun j => BitVec.ofNat 64 (j.asid.toNat + place j.comp.status.toNat 16))
    ++ s.fleet.store.epoch.setWidth 64 :: Config.publicKeys

/-- Whether a TYPE names a command (R316, R339, R357, R359). -/
def knownType (t : BitVec 8) : Bool :=
  t == Config.fusedType || [0x01, 0x10, 0x11, 0x12, 0x13, 0x14, 0x15, 0x16, 0x17, 0x18, 0x19, 0x1A, 0x1B, 0x30, 0x31, 0x32, 0x33, 0x34,
    0x35, 0x36, 0x37, 0x38].contains t.toNat

/-- QUERY: on the management slot, one whose SEQ has zeros above bit 31 is always accepted and changes no state (R315). A command
whose TYPE names none is BADFMT (R317). -/
def execQuery (s : State) : Out :=
  match s.input with
  | .query c =>
    let k : CmdKind := { type := 0x19, both := true, epoch := false }
    if s.fleet.booted && c.slot == mgmtSlot && s.fleet.store.key.any c.signed && c.seq.extractLsb' 32 32 == 0#32 && c.formOk 0x19 && c.body.isEmpty then
      .next (s.respond k.type 0 c.slot.toNat c.asid (s.queryBody c.slot))
    else .next (command .query k c (fun s => withBody (emptyBody c.body) fun _ => .ok s (s.queryBody c.slot)) s)
  | .otherCommand c =>
    .next (if knownType c.type then s else command .query { type := c.type, both := true, epoch := false } c (fun _ => badFmt) s)
  | _ => .next s

/-- The signed body of a quote (R337). -/
def State.quoteBody (s : State) (j : Job) (nonce : BitVec 256) : List Word :=
  let die := fun (d : Nat) => s.fleet.dies.getD d {}
  let meas := fun (d : Nat) => if (die d).kernel.isSome then (die d).measured.toNat else 0
  let svc := fun (d : Nat) => if (die d).kernel.isSome then (die d).services.toNat else 0
  itemWords 74 ([(0, 8, Config.serial.toNat)] ++ (List.range 4).map (fun d => (8 + 64 * d, 64, meas d))
    ++ (List.range 4).map (fun d => (264 + 64 * d, 64, svc d)) ++ (List.range 4).map (fun d => (520 + 4 * d, 4, (die d).updates.toNat))
    ++ [(536, 4, s.fleet.security.toNat), (540, 2, j.asid.toNat), (542, 8, legacyWord j.legtr), (550, 32, nonce.toNat), (582, 8, s.timeNs)])

/-- The signature of a quote's 590 bytes, as words (R337). -/
def quoteSignature (b : List Word) : List Word :=
  let m := (bodyBytes b).take 590
  wordsOf 29792 (wordOfBytes (slhSign Config.identityKey (Config.quoteRandom m) m))

/-- Returns a quote with its signature of 29,792 bytes (R337). -/
def execQuote (s : State) : Out :=
  match s.input with
  | .quote c =>
    .next (command .quote { type := 0x1A } c (fun s => withBody (nonceBody c.body) fun n => onJob c (fun s j =>
      let b := s.quoteBody j n
      .ok s (b ++ quoteSignature b)) s) s)
  | _ => .next s

/-! ### PROVISION (R315) -/

/-- Whether some die's kernel runs: only a kernel writes the store (R315, R336). -/
def State.kernelRuns (s : State) : Bool := s.fleet.dies.any (·.kernel.isSome)

/-- Installs or replaces the management key and the module number: the number in the body's first word, then a ciphertext of
1,568 bytes. -/
def execProvision (s : State) : Out :=
  match s.input with
  | .provision c =>
    let number := (c.body.getD 0 0).setWidth 16
    let new := provisionKey (decapsulate s.fleet.store.dk (bodyBytes (c.body.drop 1)))
    let bodyOk := c.body.length == 197
    let put := fun (t : State) => { t with fleet := { t.fleet with store := { t.fleet.store with key := some new, number := number } } }
    let k : CmdKind := { type := 0x38, mgmt := true, epoch := false }
    if s.fleet.booted && s.fleet.store.key.isNone then
      .next (if c.slot == mgmtSlot && bodyOk && c.signed new && c.formOk 0x38 && s.kernelRuns then
        (put s).respond k.type 0 c.slot.toNat c.asid [] else s)
    else .next (command .provision k c (fun t => if !bodyOk then badFmt else if !t.kernelRuns then refusedOnly else .ok (put t) []) s)
  | _ => .next s

/-! ### RETIRE, THRESH, CLOCKCFG (R334, R335, R340) -/

/-- Whether a unit exists. -/
def unitExists : UnitId → Bool
  | .core n => decide (n < 384)
  | .homeSlice n => decide (n < 192)
  | .channel n => decide (n < 128)
  | .bridge _ => true
  | .port n => decide (n < 32)
  | .sensor z n => decide (z < 96 ∧ n < 8)

/-- RETIRE: a unit by its number (log entry 24). -/
def retireBody (l : List Word) : Option UnitId := (oneWord l).bind fun w => (unitOf w.toNat).bind fun u => if unitExists u then some u else none

/-- Retires a unit. -/
def execRetire (s : State) : Out :=
  match s.input with
  | .retire c => .next (command .retire { type := 0x32, mgmt := true } c (fun s => withBody (retireBody c.body) fun u => .ok (s.retire u) []) s)
  | _ => .next s

/-- The event class of a number: its row of R334's table, counted from 0. -/
def classOf (n : Nat) : Option EventClass :=
  [EventClass.coreFault, .coreCorrected, .sliceUncorrectable, .channelUncorrectable, .channelCorrected, .bridgeRetry, .portFcs,
   .sensorImplausible][n]?

/-- THRESH: class, T, W in nanoseconds. -/
def threshBody : List Word → Option (EventClass × Nat × Nat)
  | [k, t, w] =>
    if t.toNat < 1 || 65535 < t.toNat || w.toNat < 1000000000 || 2592000000000000 < w.toNat then none
    else (classOf k.toNat).map fun c => (c, t.toNat, w.toNat)
  | _ => none

/-- Sets the window of a class: T from 1 to 65,535, W from 1 s to 30 days. -/
def execThresh (s : State) : Out :=
  match s.input with
  | .thresh c =>
    .next (command .thresh { type := 0x33, mgmt := true } c (fun s => withBody (threshBody c.body) fun b =>
      .ok { s with fleet := { s.fleet with
        windows := s.fleet.windows.map fun (x : Window334) => if x.cls = b.1 then { x with t := b.2.1, w := b.2.2 } else x } } []) s)
  | _ => .next s

/-- CLOCKCFG: the PTP domain, and the intervals of synchronisation, announce and delay-request messages in nanoseconds. -/
def clockBody : List Word → Option (BitVec 16 × Nat × Nat × Nat)
  | [d, i, a, r] => if d.toNat < 65536 then some (d.setWidth 16, i.toNat, a.toNat, r.toNat) else none
  | _ => none

/-- Sets the PTP domain and the message intervals. -/
def execClockcfg (s : State) : Out :=
  match s.input with
  | .clockcfg c =>
    .next (command .clockcfg { type := 0x34, mgmt := true } c (fun s => withBody (clockBody c.body) fun b =>
      .ok { s with clock := { s.clock with domain := b.1, interval := b.2.1, announce := b.2.2.1, delayReq := b.2.2.2 } } []) s)
  | _ => .next s

end Sys2Proof.Machine
end

