-- ==== Sys2Proof/Machine/Dispatchers.lean ====
section
/-! DEFINITION. The dispatchers and the core's own moves: batches and placement (R22), swaps between the files (R23, R24, R27),
pre-emption and restore (R25, R33), restarts, rollback and relaunch (R37, R38), cruise (R39), barriers held too long (R27,
R342), grants of queued furrows (R139, R140, R143, R294), translations (R322) and trap records that wait (R327, R328). -/

namespace Sys2Proof.Machine

/-! ### Batches and placement (R22, R31) -/

/-- The die of the next plot of a launch (R22): that of its held core for a determinate launch, else the one with the most
free slots among those that could take a plot. -/
def State.dieFor (s : State) (l : Launch) (need : Nat) : Option Nat :=
  if l.det then (s.heldCore l l.next).map coreDie
  else best s.dieSlots ((List.range 4).filter fun d => !(s.coresFor l d).isEmpty && decide (need ≤ s.dieSlots d))

/-- Furrows of all plots of a launch. -/
def Launch.total (l : Launch) : Nat := l.plots * l.furrows

/-- The furrows that a die must have room for before a launch's next batch goes there: all of a launch of at most 64, which goes
as one batch (R261), else those of one plot. -/
def Launch.batchNeed (l : Launch) : Nat := if l.total ≤ 64 then l.total else l.furrows

/-- How many of the next plots of a launch go into one batch (R22): whole plots of at most 64 furrows and of at most the
free slots of the die; those of a determinate launch whose held cores lie on that die. A launch of at most 64 furrows waits until
the die has room for all that go there (R261). -/
def State.batchSize (s : State) (l : Launch) (die : Nat) : Nat :=
  let here := fun (n : Nat) =>
    if l.det then ((List.range n).takeWhile fun i => (s.heldCore l (l.next + i)).any fun c => coreDie c == die).length else n
  let left := here (l.plots - l.next)
  if l.total ≤ 64 then (if left * l.furrows ≤ s.dieSlots die then left else 0)
  else Nat.min left (Nat.min (64 / max 1 l.furrows) (s.dieSlots die / max 1 l.furrows))

/-- Sends a batch of a launch's plots to a die. -/
def State.sendBatch (s : State) (lid : Nat) : State :=
  match s.launchOf lid with
  | none => s
  | some l =>
    if !l.live || l.cancel || l.plots ≤ l.next then s
    else match s.dieFor l l.batchNeed with
      | none => s
      | some die =>
        let n := s.batchSize l die
        let new := (List.range n).map fun i =>
          ({ id := s.nextId + i, launch := lid, status := .atDie, lplot := l.next + i, lcore := (l.next + i) % max 1 l.lcount, die := die } : Plot)
        { s with nextId := s.nextId + n, plots := s.plots ++ new }.modLaunch lid fun l => { l with next := l.next + n }

def execHeadDispatch (s : State) : Out :=
  match s.input with
  | .headDispatch lid => .next (s.sendBatch lid)
  | _ => .next s

/-- The cores that a plot's first run may use (R22, R29, R31): a held core may have passed to another die since the plot was
sent. -/
def State.firstCores (s : State) (l : Launch) (p : Plot) : List Nat :=
  if l.det then
    match s.heldCore l p.lplot with
    | some c => if (s.liveCores (coreDie c)).contains c && (!p.granted || coreDie c == p.die) then [c] else []
    | none => []
  else s.coresFor l p.die

/-- An earlier plot of the same logical core has not started yet (R31). -/
def State.heldBack (s : State) (l : Launch) (p : Plot) : Bool :=
  l.det && s.allPlots.any fun q => q.launch == p.launch && q.status == .atDie && q.lcore == p.lcore && decide (q.lplot < p.lplot)

/-- The core that a plot waiting at its die gets (R22), where one fits; with it the second core of a sampled plot (R39). -/
def State.coreFor (s : State) (p : Plot) : Option (Nat × Nat) :=
  let l := (s.launchOf p.launch).getD {}
  let need := l.room (((s.jobOf l.job).getD {}).objAt l.obj).silo
  if p.status != .atDie || l.cancel || s.heldBack l p then none
  else (s.pickCore l need (s.firstCores l p)).bind fun core => (s.pickTwin l need core (s.sampledNow p l)).map fun twin => (core, twin)

/-- Whether a plot at its die finds its core and its areas now. -/
def State.canPlace (s : State) (p : Plot) : Bool :=
  (s.coreFor p).any fun c => p.ctxPa != 0 || (s.reserve ((s.launchOf p.launch).getD {}) p.id (coreDie c.1)).isSome

/-- Places a plot at its die (R22): a core that fits, then its areas (R330), then its furrows. -/
def State.placePlot (s : State) (pid : Nat) : State :=
  match s.plotOf pid with
  | none => s
  | some p =>
    match s.coreFor p with
    | none => s
    | some (core, twin) =>
      if p.ctxPa != 0 then s.startPlot pid core twin
      else match s.reserve ((s.launchOf p.launch).getD {}) pid (coreDie core) with
        | some s1 => s1.startPlot pid core twin
        | none => s

def execDieDispatchPlace (s : State) : Out :=
  match s.input with
  | .dieDispatchPlace pid => .next (s.placePlot pid)
  | _ => .next s

/-! ### Swaps between the files (R23, R24, R27) -/

/-- A wait that makes an active furrow a candidate to move out (R23, R147, R322). -/
def FStatus.swapsOut : FStatus → Bool
  | .waitValue .. | .waitWatch .. | .waitTime .. | .barrier _ | .translate .. => true
  | _ => false

/-- A furrow has stalled for 256 clocks or more on a memory operand (R23). -/
def State.stalledLong (s : State) (f : Furrow) : Bool :=
  f.status == .ready && s.rets.any fun r => r.fur == f.id && s.retHere r && decide (r.at_ + 256 ≤ s.cycles)

/-- A candidate to move out (R23). One that waits in `YIELD.W` has left the active set, its team with it or after it (R24, R27). -/
def State.mayLeave (s : State) (f : Furrow) : Bool := f.status.swapsOut || s.stalledLong f || match f.status with | .waitStamp .. => true | _ => false

/-- The clock at which a candidate's wait began (R23): that of its oldest pending return where it stalls on one. -/
def State.waitBegan (s : State) (f : Furrow) : Nat :=
  if f.status.swapsOut then f.waitClk
  else (s.rets.filter fun r => r.fur == f.id && s.retHere r).foldl (fun m r => Nat.min m r.at_) s.cycles

/-- A furrow that wants an active slot. -/
def Furrow.wantsSlot (f : Furrow) : Bool :=
  !f.active && match f.status with
    | .ready | .reactivate | .returning => true
    | _ => false

/-- The listed furrows of a furrow's plot, where it is one of them (R24, R234). -/
def State.teamOf (s : State) (f : Furrow) : List Furrow :=
  match s.plotOf f.plot with
  | none => [f]
  | some p =>
    if p.team.getLsbD f.logical.toNat then (s.allFurs.filter fun (g : Furrow) => g.plot == f.plot && p.team.getLsbD g.logical.toNat && g.onCore)
    else [f]

/-- A listed furrow in the pending set while others of its team are active: the core keeps all of them active (R24). -/
def State.teamSplit (s : State) (f : Furrow) : Bool :=
  !f.active && f.onCore && !(match f.status with | .waitStamp .. => true | _ => false) && (s.teamOf f).any (·.active)

/-- The furrows of a core that want an active slot, the longest wait first. -/
def State.wanting (s : State) (core : Nat) : List Furrow :=
  let ps := (s.allPlots.filter fun p => p.core == core && p.status == .resident).map (·.id)
  sortOrd (fun (a b : Furrow) => decide (a.waitFrom < b.waitFrom))
    (s.allFurs.filter fun f => ps.contains f.plot && ((f.wantsSlot && !s.stalledLong f) || s.teamSplit f))

/-- The groups that may leave the active set, the longest wait first: candidates, and teams that are all candidates. A team counts
by its latest arrival, on which R23 and R24 are silent (the model's choice, log entry 75). -/
def State.leaving (s : State) (core : Nat) : List (List Furrow) :=
  let act := (s.coreFurs core).filter fun f => f.active && s.mayLeave f
  let gs := (act.map s.teamOf).eraseDups
  let key := fun (g : List Furrow) => (g.map s.waitBegan).foldl Nat.max 0
  sortOrd (fun (a b : List Furrow) => decide (key a < key b)) (gs.filter fun g => g.all s.mayLeave)

/-- The slot that a furrow enters: in its quadrant, or any for one that comes back from `YIELD.W` (R23, R27). -/
def Furrow.slotIn (f : Furrow) (used : List Nat) : Option Nat := if f.status == .reactivate then freeActive used else freeInQuad f.quad used

/-- Whether a group finds slots beside those in use. -/
def seatsAll : List Nat → List Furrow → Bool
  | _, [] => true
  | used, f :: rest => match f.slotIn used with | some k => seatsAll (k :: used) rest | none => false

/-- The context number and generation of a furrow that comes to a core (R51). -/
def State.newContext (s : State) (core fid : Nat) : State :=
  let ctx := (s.freeCtx core).headD 0
  let gen := nextGen s.rets core ctx s.rets.length ((((s.coreOf core).gens.find? fun p => p.1 == ctx).map (·.2)).getD 0 + 1)
  (s.modCore core fun c => { c with gens := (ctx, gen) :: c.gens.filter fun p => p.1 != ctx }).modFur fid fun f =>
    { f with ctx := BitVec.ofNat 7 ctx, gen := gen }

/-- A furrow enters the active set. One that returns from a trap has kept its context number (R62). -/
def State.enterActive (s : State) (core fid : Nat) : State :=
  match s.furOf fid with
  | none => s
  | some f =>
    match f.slotIn (((s.coreFurs core).filter (·.active)).map (·.slot)) with
    | none => s
    | some slot =>
      s.modFur fid fun f =>
        { f with
          status := match f.status with | .reactivate | .returning => .ready | st => st
          active := true, slot := slot, entered := s.steps }

/-- Room for the units of a group that enters while another leaves: what leaves goes to the slow file (R23), and a furrow that
returns to its core needs a slot (R224). -/
def State.mayEnter (s : State) (core : Nat) (g out : List Furrow) : Bool :=
  let u := fun (l : List Furrow) => l.foldl (fun n (f : Furrow) => n + f.budget / 64) 0
  let r := s.usedRoom core
  let back := g.filter fun f => f.status == .returning
  decide (r.slow + u (out.filter (·.active)) ≤ coreRoom.slow + u (g.filter fun f => f.status != .returning))
    && decide (r.fast + u g ≤ coreRoom.fast + u (out.filter (·.active)))
    && decide (r.slots + back.length ≤ coreRoom.slots)

/-- One swap (R23): the first furrow that can be given a slot, with its team; the candidates of the quadrants that it needs leave, as
few as will do. -/
def State.swap (s : State) (core : Nat) : State :=
  let used := ((s.coreFurs core).filter (·.active)).map (·.slot)
  let move := (s.wanting core).findSome? fun f =>
    let g := (s.teamOf f).filter (!·.active)
    let g := if g.any (fun x => x.id == f.id) then g else f :: g
    let near := (s.leaving core).filter fun o => o.any fun x => x.active && g.any fun y => y.status == .reactivate || y.quad == x.slot / 8
    (List.range (near.length + 1)).findSome? fun k =>
      let out := (near.take k).flatten
      let gone := (out.filter (·.active)).map (·.slot)
      if seatsAll (used.filter (!gone.contains ·)) g && s.mayEnter core g out then some (g, out) else none
  match move with
  | none => s
  | some (g, out) =>
    let s1 := out.foldl (fun (t : State) f => t.modFur f.id fun x => { x with active := false }) s
    g.foldl (fun (t : State) f => t.enterActive core f.id) s1

def execFurrowSwap (s : State) : Out :=
  match s.input with
  | .furrowSwap core => .next (s.swap core)
  | _ => .next s

/-! ### Pre-emption (R33, R260) -/

/-- A furrow that has left its core for a pre-emption, or that a pre-emption proceeds without (R327). -/
def FStatus.left : FStatus → Bool
  | .saved | .waitStamp .. | .reactivate | .trapped .. | .returning => true
  | _ => false

/-- Whether every furrow of a plot has left. -/
def State.plotLeft (s : State) (p : Plot) : Bool :=
  (s.allFurs.filter (·.plot = p.id)).all (·.status.left) && !((s.coreOf p.core).callq.any (·.plot = p.id))

/-- Copies that target a tile of a plot are under way. -/
def State.tileCopies (s : State) (pid : Nat) : Bool := s.ejobs.any fun e => e.plot == pid && !(s.jobTiles e).isEmpty

/-- The last steps of a pre-emption: operations parked, bins and tiles saved, the silo moved, nothing committed. The plot's buffered
reductions go to staging as far as they fit there, and else with the plot: R33 and R100 do not say what becomes of them (the model's
choice, log entry 75). -/
def State.plotLeave (s : State) (p : Plot) : State :=
  let c := s.coreOf p.core
  let ops := c.seq.filter (·.plot = p.id)
  let stopped := (ops.filter fun o => o.started && o.kind.isProduct).flatMap (·.bins)
  let s1 := (s.orFlags p).stageSome p.core p.id
  let s2 := s1.modCore p.core fun c => { c with seq := c.seq.filter (·.plot ≠ p.id), red := c.red.filter (·.plot ≠ p.id) }
  let q : Plot :=
    { p with
      status := .saved, twin := 0, savedOps := ops, held := p.held ++ p.silo, silo := []
      savedRed := (s1.coreOf p.core).red.filter (·.plot = p.id)
      bins := mapIdxFrom (fun k (b : Bin) => if stopped.contains k then { b with parked := true } else b) 0 p.bins }
  (s2.modPlot p.id fun _ => q).savePlot q

/-- A pre-emption's next part: the last furrow has left, or nothing runs any more (R33). -/
def State.preemptSave (s : State) (pid : Nat) : State :=
  match s.plotOf pid with
  | none => s
  | some p =>
    if !(p.status == .leaving || (p.status == .resident && p.preempt && s.plotLeft p)) then s
    else
      let busy := (s.coreOf p.core).seq.any (fun o => o.plot == pid && o.running) || s.tileCopies pid
      if busy then s.modPlot pid fun p => { p with status := .leaving }
      else if (p.held ++ p.silo).length ≤ p.heldRoom then s.plotLeave p
      else
        -- the silo goes to the held-store area as a store's overflow does (R33, R92)
        let t := s.focusPlot pid
        let full := t.setPlot { t.plot with held := t.plot.held ++ t.plot.silo }
        if t.roomBlocked full then s.modPlot pid fun p => { p with status := .leaving }
        else let u := t.makeRoom full; u.plotLeave u.plot

def execPreemptionSave (s : State) : Out :=
  match s.input with
  | .preemptionSave pid => .next (s.preemptSave pid)
  | _ => .next s

/-- What a plot needs to come back: its furrows that hold a slot, context numbers for those in a trap, its bins and tiles. -/
def Plot.roomBack (p : Plot) (fs : List Furrow) : Need :=
  let on := fs.filter fun f => match f.status with | .trapped .. | .returning => false | _ => true
  { units := on.map fun f => f.budget / 64, ctxs := fs.length - on.length, bins := p.bins.length, tiles := p.tiles.length, silo := p.siloUnits }

/-- Seats a furrow of a plot that comes back to a core (R62), at a boundary (R20): a new context number. -/
def State.seatBack (s : State) (core : Nat) (f : Furrow) : State :=
  match f.status with
  | .saved | .ready => s.seat core f.merge .ready
  | .trapped .. | .returning => ({ s with furs := f :: s.furs.filter (·.id ≠ f.id) }).newContext core f.id
  | st => s.seat core { f with active := false } st

/-- The listed furrows of a plot's team register enter the active set together, or wait together (R24). -/
def State.joinTeam (s : State) (pid : Nat) : State :=
  match s.plotOf pid with
  | none => s
  | some p =>
    let mine := fun (f : Furrow) => f.plot == pid && p.team.getLsbD f.logical.toNat
    if (s.allFurs.filter fun f => mine f && f.onCore).all (·.active) then s
    else s.mapFurs fun f => if mine f then { f with active := false } else f

/-- Seats all furrows of a plot that comes back. -/
def State.seatPlot (s : State) (core pid : Nat) (fs : List Furrow) : State :=
  (fs.foldl (fun (t : State) f => t.seatBack core f) s).joinTeam pid

/-- A core of the plot's die of residence that fits it (R25), and the second core of a sampled plot. -/
def State.coreBack (s : State) (p : Plot) (need : Need) (ops queue : Nat) (avoid : Nat) : Option (Nat × Nat) :=
  let l := (s.launchOf p.launch).getD {}
  (s.pickCore l need
    ((s.liveCores p.die).filter fun c => c != avoid && decide ((s.coreOf c).seq.length + ops ≤ 16) && decide ((s.coreOf c).callq.length + queue ≤ 64))).bind
    fun core => (s.pickTwin l need core p.sampled).map fun twin => (core, twin)

/-- A saved plot comes back (R25, R33): other slices read zero, watch slots are disarmed; an operation that waits for a page still
waits for it (R260). -/
def State.restorePlot (s : State) (pid : Nat) : State :=
  match s.plotOf pid with
  | none => s
  | some p =>
    let fs := s.allFurs.filter (·.plot = pid)
    if p.status != .saved then s
    else match s.coreBack p (p.roomBack fs) p.savedOps.length 0 0 with
      | none => s
      | some (core, twin) =>
        let ops := p.savedOps.map fun (o : SeqOp) => { o with running := false, readA := [], readB := [] }
        let s1 := s.unload.modPlot pid fun p =>
          { p with status := .resident, core := core, twin := twin, preempt := false, savedOps := [], savedRed := [], acqAt := s.steps }
        let s2 := s1.modCore core fun c => { c with l1 := [], seq := c.seq ++ ops, red := c.red ++ p.savedRed }
        s2.seatPlot core pid fs

def execPlotRestore (s : State) : Out :=
  match s.input with
  | .plotRestore pid => .next (s.restorePlot pid)
  | _ => .next s

/-! ### Rollback and relaunch (R37, R38) -/

/-- A region's aborted attempt leaves no store in the silo (R37, R108): of the furrow's entries that are not plot-visible, those
that stood at its `REGION` become what they were, and the others go. What a commit of the plot has drained since stays written,
once (log entry 84). -/
def dropStores (tag : BitVec 7) (own l : List SiloEntry) : List SiloEntry :=
  l.filterMap fun e => if e.tag == tag && !e.vis then own.find? (·.num == e.num) else some e

/-- Takes the stores of an aborted attempt away. -/
def State.regionStores (s : State) (r : RegionRec) : State :=
  s.setPlot { s.plot with held := dropStores s.fur.tag r.own s.plot.held, silo := dropStores s.fur.tag r.own s.plot.silo }

/-- A check has failed in a furrow (R37): its region starts again, or its plot rolls back; at the third failure in a row
its core is charged. A slice-file error is its own event (R43). -/
def execRegionRestart (s : State) : Out :=
  match s.input with
  | .sliceError fid lane group corrected => .next (s.sliceError fid lane group corrected)
  | .regionRestart fid =>
    let t := s.focusFur fid
    if t.fur.id != fid || fid == 0 || t.fur.status != .ready then .next s
    else match t.fur.region with
      | none => .next t.rollback
      | some r =>
        if 3 ≤ r.restarts + 1 then .next (t.charge .coreFault (.core (t.plot.core - 1))).rollback
        else
          let u := (t.deliverWhere (· = fid)).regionStores r
          .next (u.setFur { u.fur with
            splits := r.splits, masks := r.masks, yields := r.yields, latches := [], watch := List.replicate 4 {}
            region := some { r with restarts := r.restarts + 1 } })
  | _ => .next s

/-- Poison reaches a control point of a plot, or a check fails outside a region (R37, R38); the checks of memory and of a plot's
tiles, bins and stores find an error (R331, R333). -/
def execPlotRollback (s : State) : Out :=
  match s.input with
  | .plotError pid => .next (s.plotError pid)
  | .l1Error core line => .next (s.l1Error core line)
  | .memError sec => .next (s.memError sec)
  | .farRead sec ecc cipher tag fid => .next (s.farRead sec ecc cipher tag fid)
  | .secondRollback pid => .next (s.modPlot pid fun p => if p.compared then { p with second := .behind } else p)
  | .plotRollback pid => .next (match s.plotOf pid with
      | some p => if p.status == .resident then s.rollPlot pid else s
      | none => s)
  | _ => .next s

/-- Whether a trap record still waits for its return (R328). -/
def State.trapOpen (s : State) (e seq : Nat) : Bool :=
  Memory.readN s.mem (e + 88) 8 == seq && !bitOf (Memory.readN s.mem (e + 2) 1) 2

/-- A furrow of a checkpoint as the relaunch finds it: a trap that has been returned since is over. -/
def State.fromCheck (s : State) (f : Furrow) : Furrow :=
  match f.status with
  | .trapped seq _ _ e => if s.trapOpen e seq then f else { f with status := .returning }
  | _ => f

/-- A rolled-back plot starts again on another core of its die, from its checkpoint or from its start (R38). -/
def State.relaunchPlot (s : State) (pid : Nat) : State :=
  match s.plotOf pid with
  | none => s
  | some p =>
    let l := (s.launchOf p.launch).getD {}
    let j := (s.jobOf l.job).getD {}
    if p.status != .rolledBack || l.cancel || s.ejobs.any (·.plot = pid) then s
    else match p.check with
      | none =>
        match s.coreBack p (l.room (j.objAt l.obj).silo) 0 0 p.core with
        | some (core, twin) => s.startPlot pid core twin
        | none => s
      | some c =>
        let fs := c.furs.map s.fromCheck
        match s.coreBack p (({ p with tiles := c.tiles, bins := c.bins } : Plot).roomBack fs) c.ops.length c.queue.length p.core with
        | none => s
        | some (core, twin) =>
          let s1 := s.unload.modPlot pid fun p =>
            { p with
              status := .resident, core := core, twin := twin, tiles := c.tiles, bins := c.bins, team := c.team, preempt := false
              chans := c.chans, acqAt := s.steps }
          let s2 := s1.modCore core fun k => { k with l1 := [], seq := k.seq ++ c.ops, callq := k.callq ++ c.queue }
          s2.seatPlot core pid fs

def execPlotRelaunch (s : State) : Out :=
  match s.input with
  | .plotRelaunch pid => .next (s.relaunchPlot pid)
  | .secondBack pid =>
    .next ((s.modPlot pid fun p => if p.second == .behind then { p with second := .alike, runFault := none } else p).settlePlot pid)
  | _ => .next s

/-! ### A launch leaves a die (R25) -/

/-- Whether a die can never take plots again: isolated, or without a core. -/
def State.dieLost (s : State) (die : Nat) : Bool :=
  (s.fleet.dies.getD die {}).isolated || ((List.range 96).map fun i => 96 * die + i + 1).all fun c => !s.coreUsable c

/-- A context's place in the areas of its plot, or a new one of its own (R330). -/
def State.placeContext (s : State) (jid : Nat) (p : Plot) (l : Launch) (f : Furrow) : State × Furrow :=
  if (f.kind == .granted || f.kind == .spawned) && decide (f.logical.toNat < l.furrows) then
    (s, { f with ctxVa := BitVec.ofNat 64 (p.fursVa + furBytes * f.logical.toNat), ctxPa := p.fursPa + furBytes * f.logical.toNat })
  else match s.poolAlloc jid p.id p.die furBytes with
    | some (va, pa, s1) => (s1, { f with ctxVa := BitVec.ofNat 64 va, ctxPa := pa })
    | none => (s, f)

/-- A plot's areas on its new die (R330), with what they held. -/
def State.rehome (s : State) (l : Launch) (pid die : Nat) : State :=
  let s0 := (s.freeAreas l.job pid).modPlot pid fun p => { p with die := die, ctxPa := 0, fursPa := 0, copyPa := 0, fursCopy := 0, heldPages := 1 }
  let s1 := (s0.reserve l pid die).getD s0
  match s1.plotOf pid with
  | none => s1
  | some p =>
    let put := fun (acc : State × List Furrow) (f : Furrow) => let r := acc.1.placeContext l.job p l f; (r.1, acc.2 ++ [r.2])
    let (s2, fs) := (s1.allFurs.filter (·.plot = pid)).foldl put (s1, [])
    let (s3, cs) := ((p.check.map (·.furs)).getD []).foldl put (s2, [])
    let s4 := s3.modPlot pid fun p => { p with check := p.check.map fun (c : Checkpoint) => { c with furs := cs } }
    let s5 := fs.foldl (fun (t : State) f => (t.modFur f.id fun _ => f).saveContext f none) s4
    match s5.plotOf pid with
    | some p =>
      let s6 := match p.check with | some c => s5.writeCheck p c | none => s5
      if p.status == .saved then s6.savePlot p else s6
    | none => s5

/-- The plots of a launch that reside on a lost die move together to the die with the most free slots, which must hold all of them
where they are one batch (R25, R261). -/
def State.moveDie (s : State) (lid die : Nat) : State :=
  match s.launchOf lid with
  | none => s
  | some l =>
    if !s.dieLost die then s
    else
      let mine := s.allPlots.filter fun p => p.launch == lid && p.die == die && (p.status != .ending)
      let need := mine.length * l.furrows
      match best s.dieSlots ((List.range 4).filter fun d => d != die && !(s.liveCores d).isEmpty && (decide (64 < need) || decide (need ≤ s.dieSlots d))) with
      | none => s
      | some dest =>
        let tags := (mine.filter (·.granted)).map (·.tag)
        let s1 := mine.foldl (fun (t : State) p => if p.status == .resident || p.status == .leaving then t.rollPlot p.id else t) s
        let s2 := { s1 with checker := s1.checker.filter fun r => !tags.contains r.ptag }
        mine.foldl (fun (t : State) p =>
          if p.granted then t.rehome l p.id dest else t.modPlot p.id fun p => { p with die := dest }) s2

def execPlotMoveDie (s : State) : Out :=
  match s.input with
  | .plotMoveDie lid die => .next (s.moveDie lid die)
  | _ => .next s

/-! ### Cruise (R39) -/

/-- The runs stand alike again. -/
def State.runsAlike (s : State) (pid : Nat) : State := s.modPlot pid fun p => { p with second := .alike, runFault := none }

/-- A third run of a sampled plot decides (R39, R325): what two of the three come to stands, and the core of the third is charged.
Where the first is outvoted, it starts again from the last agreed checkpoint, or the fault that two have taken ends the job; with
three different ends the plot ends with `DIVERGE`. -/
def State.thirdRun (s : State) (p : Plot) (second third : RunEnd) : State :=
  let alike := fun (k : Nat) => (s.charge .coreFault (.core (k - 1))).runsAlike p.id
  if third = p.firstEnd then (alike p.twin).settlePlot p.id
  else if third = second then
    match second with
    | .stores _ => (alike p.core).rollPlot p.id
    | .fault c => (alike p.core).plotFault p none 0 c
  else s.plotFault p none 0 .diverge

/-- The two runs of a sampled plot come to different ends, and the third one decides (R39). -/
def execCruiseThirdRun (s : State) : Out :=
  match s.input with
  | .secondApart pid e =>
    .next (s.modPlot pid fun p => if p.compared && p.second == .alike && e != p.firstEnd then { p with second := .apart e } else p)
  | .cruiseThirdRun pid third k3 =>
    match s.plotOf pid with
    | none => .next s
    | some p =>
      if !p.compared || k3 == p.core || k3 == p.twin || !(decide (1 ≤ k3) && coreDie k3 == p.die) then .next s
      else match p.second with
        | .apart e => .next (s.thirdRun p e third)
        | _ => .next s
  | _ => .next s

/-! ### Barriers and yokes held too long (R27, R342) -/

/-- `BARTIMEOUT` of the first arrival, a precise fault of the instruction that it waits in. -/
def State.barFault (s : State) (fid : Nat) (arrived : Mask) (bar : BitVec 3) (j : Nat) : Out :=
  let t := s.focusFur fid
  t.stopWait (.fault { cause := .bartimeout, lanes := t.m0, arrived := arrived, barId := bar, yokeJ := BitVec.ofNat 16 j })

/-- The first barrier or yoke of a plot whose first arrival has waited `BARTO` clocks. -/
def execBarTimeout (s : State) : Out :=
  match s.input with
  | .barTimeout pid =>
    match s.plotOf pid with
    | none => .next s
    | some p =>
      let holds := fun (fid : Nat) (st : FStatus) => (s.furOf fid).any fun f => f.status == st
      match p.bars.find? fun b => decide (b.since + p.barto ≤ s.cycles) && holds b.fur (.barrier b.n) with
      | some b => s.barFault b.fur b.arrived b.n 0
      | none =>
        match p.yokes.find? fun y => decide (y.since + p.barto ≤ s.cycles) && holds y.fur (.yoke y.j) with
        | some y => s.barFault y.fur y.arrived 0 y.j
        | none => .next s
  | _ => .next s

/-! ### Grants of queued furrows (R139, R140, R143, R294) -/

/-- Keeps a translation that a walk found (R322): 256 entries per core, 16,384 per die. -/
def State.keepTlb (s : State) (core : Nat) (e : TlbEntry) : State :=
  let s1 := s.modCore core fun c => { c with tlb := (e :: c.tlb.filter (· ≠ e)).take 256 }
  let die := coreDie core
  let mine := (die, e) :: (s1.tcache.filter fun p => p.1 == die && p.2 ≠ e)
  { s1 with tcache := mine.take 16384 ++ s1.tcache.filter fun p => p.1 != die }

/-- Translates the pages of a frame for a core; nothing where one is not mapped. -/
def State.framePages (s : State) (j : Job) (core va : Nat) : Option State :=
  (pageStarts va frameBytes).foldl (fun (acc : Option State) a =>
    acc.bind fun t => match t.walk j a with | .leaf e => some (t.keepTlb core e) | _ => none) (some s)

/-- Units of a map below a number. -/
def liveUnits (live n : Nat) : List Nat := (List.range n).filter fun u => live.testBit u

/-- A callee as it is granted (R294): argument units from the frame, its own frame. -/
def State.calleeFur (s : State) (q : Queued) (f : Furrow) : Furrow :=
  let va := (q.frame.getD 0).toNat
  let t := s.setFur f
  let live := (t.view false (va + 16) 16).v
  { f with
    xregs := q.xregs, xpoison := q.xpoison, ownFrame := q.frame
    lanes := t.fillUnits va q.mask (liveUnits live (min 8 (q.budget / 8))) f.lanes }

/-- A continuation as it is granted (R140, R293): what the frame restores. -/
def State.contFur (s : State) (q : Queued) (f : Furrow) : Furrow :=
  let va := (q.frame.getD 0).toNat
  let t := s.setFur f
  let rd := fun (off n : Nat) => (t.view false (va + off) n)
  let m := BitVec.ofNat 32 (rd 8 4).v
  { f with
    granted := m, masks := (List.range 15).map fun k => BitVec.ofNat 32 (rd (64 + 4 * k) 4).v
    xregs := (List.range 64).map fun k => BitVec.ofNat 64 (rd (128 + 8 * k) 8).v
    xpoison := (List.range 64).foldl (fun (w : BitVec 64) k => if (rd (128 + 8 * k) 8).p then w ||| BitVec.ofNat 64 (2 ^ k) else w)
      (BitVec.ofNat 64 (rd 640 8).v)
    splits := [{ valid := true, pc := BitVec.ofNat 64 (rd 0 8).v, mask := m }, {}, {}, {}]
    ownFrame := q.parent
    lanes := t.fillUnits va m (liveUnits (rd 16 16).v (q.budget / 8)) f.lanes }

/-- The reads of a continuation's grant and of a callee's, as the furrow `f` makes them: addresses and sizes (R294, R295). -/
def State.grantReads (s : State) (q : Queued) (f : Furrow) : List (Nat × Nat) :=
  let va := (q.frame.getD 0).toNat
  let t := s.setFur f
  let live := (t.view false (va + 16) 16).v
  if q.kind == .callee then (va + 16, 16) :: unitReads va q.mask (liveUnits live (min 8 (q.budget / 8)))
  else [(va, 12), (va + 16, 16), (va + 64, 60), (va + 128, 512), (va + 640, 8)]
    ++ unitReads va (BitVec.ofNat 32 (t.view false (va + 8) 4).v) (liveUnits live (q.budget / 8))

/-- Reads as a furrow that is being granted makes them: the caches are filled (R90), poisoned sectors are noted. -/
def State.readAs (s : State) (f : Furrow) (l : List (Nat × Nat)) : State :=
  let t := s.setFur f
  let u := t.afterRead false 0 (l.foldl (fun acc p => (t.readSectors p.1 p.2).foldl (fun acc sec => insertNat sec acc) acc) [])
  { s with plot := u.plot, core := u.core, rdc := u.rdc }

/-- Poison in what a continuation starts from: CONT, MASK, LIVE, or a mask register (R38). -/
def State.contSick (s : State) (q : Queued) (f : Furrow) : Bool :=
  let va := (q.frame.getD 0).toNat
  let t := s.setFur f
  (t.view false va 12).p || (t.view false (va + 16) 16).p || (t.view false (va + 64) 60).p

/-- Grants the first furrow of a kind in a core's queue, once the core has the slot, the units and a context number and its context
is reserved (R22, R51, R330). -/
def State.grantQueued (s : State) (core : Nat) (kind : FurKind) : State :=
  match (s.coreOf core).callq.find? fun q => q.kind == kind && (s.plotOf q.plot).any (·.status == .resident) with
  | none => s
  | some q =>
    let t := s.focusPlot q.plot
    let p := t.plot
    let j := t.job
    let f0 := t.newFurrow p j q.obj q.budget q.logical kind q.pc q.entryVa q.mask
    if !(t.coreTakes core { units := [q.budget / 64] }) then s
    else
      let own := kind == .spawned && decide (q.logical.toNat < t.launch.furrows)
      let area := if own then some (f0.ctxVa.toNat, f0.ctxPa, t)
        else if t.nearLeft j.slot < pagesOf furBytes then none else t.poolAlloc j.id p.id p.die furBytes
      match area with
      | none => s
      | some (va, pa, t1) =>
        let f1 : Furrow := { f0 with ctxVa := BitVec.ofNat 64 va, ctxPa := pa }
        let taken := fun (u : State) => u.setCore { u.core with callq := u.core.callq.erase q }
        match kind with
        | .callee =>
          match t1.framePages j core (q.frame.getD 0).toNat with
          | none => s
          | some u => (taken (u.readAs f1 (u.grantReads q f1))).seat core (u.calleeFur q f1) .ready
        | .continuation =>
          match t1.framePages j core (q.frame.getD 0).toNat with
          | none => s
          | some u =>
            if u.contSick q f1 then u.rollPlot p.id
            else
              let v := taken ((u.readAs f1 (u.grantReads q f1)).setJob (u.job.dropFrame (q.frame.getD 0).toNat))
              v.seat core (u.contFur q f1) .ready
        | _ => (taken t1).seat core { f1 with xregs := q.xregs, xpoison := q.xpoison } .ready

def execCalleeGrant (s : State) : Out :=
  match s.input with
  | .calleeGrant core => .next (s.grantQueued core .callee)
  | _ => .next s

def execContinuationGrant (s : State) : Out :=
  match s.input with
  | .continuationGrant core => .next (s.grantQueued core .continuation)
  | _ => .next s

def execSpawnedFurrowGrant (s : State) : Out :=
  match s.input with
  | .spawnedFurrowGrant core => .next (s.grantQueued core .spawned)
  | _ => .next s

/-! ### Translations (R322) -/

/-- The request of a waiting furrow. -/
def State.walkRec (s : State) (va : Word) : FaultRec :=
  { queue := some s.plot.faultq.toNat, code := causeCode .transl, kind := 1, asid := s.job.asid, die := s.plot.die, core := (s.plot.core - 1) % 96, addr := va.toNat
    lplot := s.plot.lplot }

/-- One part of the wait for a translation: a walk, the services' answer, or the end of the wait. -/
def State.walkStep (s : State) (va : Word) (acc : Access) (req : Option Nat) : State :=
  match s.pageStep s.job.id va.toNat acc s.fur.priv (s.walkRec va) req with
  | .ready t =>
    let u := match t.walk t.job va.toNat with | .leaf e => t.keepTlb t.plot.core e | _ => t
    u.setFur { u.fur with status := .ready }
  | .waiting t r => t.setFur { t.fur with status := .translate va acc r }
  | .refused t => t.setFur { t.fur with status := .ready, refused := some (va, acc) }
  | .poisoned t =>
    t.jobFault t.job.id t.launch.id (t.sourceOf t.plot t.fur.logical.toNat t.split.pc va.toNat) .memecc

/-- A furrow that waits for a translation, before its request or after it. -/
def State.walkTurn (s : State) (fid : Nat) (asked : Bool) : State :=
  let t := s.focusFur fid
  match t.fur.status with
  | .translate va acc req => if t.fur.id == fid && req.isSome == asked then t.walkStep va acc req else s
  | _ => s

def execTranslationWalk (s : State) : Out :=
  match s.input with
  | .translationWalk fid => .next (s.walkTurn fid false)
  | _ => .next s

def execWalkRetry (s : State) : Out :=
  match s.input with
  | .walkRetry fid => .next (s.walkTurn fid true)
  | _ => .next s

/-! ### Trap records (R327, R328) -/

/-- A record that waited for room is written. -/
def execTrapRecordWrite (s : State) : Out :=
  match s.input with
  | .trapRecordWrite fid =>
    let t := s.focusFur fid
    match t.fur.status with
    | .trapFull r => if t.trapsFull then .next t.serveTraps else t.writeTrap r
    | _ => .next s
  | _ => .next s

/-- 5 s. -/
def replyNs : Nat := 5000000000

/-- No reply has come in time: the job ends with the trap's cause. -/
def execTrapreplyTimeout (s : State) : Out :=
  match s.input with
  | .trapreplyTimeout fid =>
    match s.furOf fid with
    | none => .next s
    | some f =>
      match f.status with
      | .trapped _ c at_ _ => .next (if disposition c == .host && decide (at_ + replyNs ≤ s.timeNs) then s.endTrapped f else s)
      | _ => .next s
  | _ => .next s

end Sys2Proof.Machine
end

