-- ==== Sys2Proof/Machine/Fleet.lean ====
section
/-! DEFINITION. The module around its dies: power and boot (R315, R336), updates (R338, R339), ports (R311), the clock (R340),
the zones (R351 to R359). -/

namespace Sys2Proof.Machine

/-! ### Boot (R336) -/

/-- Whether a die may boot from a slot: a valid signature, and a version that is not below the fused minimum. -/
def bootable (img : Option KernelImage) (min : Nat) : Bool := img.any fun i => i.signed && decide (min ≤ i.version)

/-- The slot that the mask ROM takes: the higher version of those that qualify, A where they are equal. -/
def Store.pick (t : Store) : Option (Nat × KernelImage) :=
  let a := if bootable t.slotA t.minA then t.slotA else none
  let b := if bootable t.slotB t.minB then t.slotB else none
  match a, b with
  | some x, some y => if x.version < y.version then some (1, y) else some (0, x)
  | some x, none => some (0, x)
  | none, some y => some (1, y)
  | none, none => none

/-- The services image that a die starts. -/
def Fleet.image (f : Fleet) : List Byte := f.servicesImage.getD Config.servicesImage

/-- Boots one die: it stays halted where no slot qualifies. -/
def Fleet.bootDie (f : Fleet) (d : DieState) : DieState :=
  match f.store.pick with
  | none => { d with kernel := none, measured := 0, services := 0, updates := 0 }
  | some p =>
    { d with kernel := some p.1, measured := shake256 p.2.bytes, services := shake256 f.image, updates := 0 }

/-- Where the kernel keeps the queues' headers and arrays: in die 0's near memory (log entry 7). -/
def trapqAt : Nat := 2 ^ 39
def faultqAt : Nat := 2 ^ 39 + 64
def trapqBase : Nat := 2 ^ 39 + 0x1000
def faultqBase : Nat := 2 ^ 39 + 0x8000

/-- The queues as the kernel sets them up (R328). -/
def State.makeQueues (s : State) : State :=
  let m := Memory.writeN (Memory.writeN s.mem trapqAt 8 trapqBase) (trapqAt + 8) 1 6
  { s with
    mem := Memory.writeN (Memory.writeN m faultqAt 8 faultqBase) (faultqAt + 8) 1 6
    trapq := BitVec.ofNat 64 trapqAt, faultq := BitVec.ofNat 64 faultqAt }

/-- Power comes on: every die boots; a kernel that runs adds one to the boot epoch (R315, R336). -/
def execPowerOn (s : State) : Out :=
  if s.fleet.booted then .next s
  else
    let f := { s.fleet with booted := true, dies := s.fleet.dies.map s.fleet.bootDie }
    match f.store.pick with
    | none => .next { s with fleet := f }
    | some _ => .next ({ s with fleet := { f with store := { f.store with epoch := f.store.epoch + 1 } } } : State).makeQueues

/-- Power goes: everything is as at reset but for the configuration store (R315). -/
def execPowerOff (s : State) : Out :=
  .next { State.reset with
    fleet := { State.reset.fleet with store := s.fleet.store }
    input := s.input, agenda := s.agenda, turn := s.turn, steps := s.steps }

/-! ### A die's reset (R4; log entry 35) -/

/-- A die's registers return to their reset values, and the die boots again; what ran there rolls back. -/
def State.resetDie (s : State) (d : Nat) : State :=
  let here := (s.allPlots.filter fun p => p.die == d && (p.status == .resident || p.status == .leaving)).map (·.id)
  let s1 := here.foldl State.rollPlot s
  let s2 := s1.mapCores fun c => if coreDie c.id == d then { id := c.id, off := c.off } else c
  { s2 with
    tcache := s2.tcache.filter (·.1 ≠ d), rdc := s2.rdc.filter (·.1 ≠ d)
    checker := s2.checker.filter fun r => homeDie (128 * r.line) != d
    zones := mapIdxFrom (fun z (x : Zone) => if z / 24 == d then { x with entry := ({} : Zone).entry, timer := none, effHeld := 10 } else x) 0 s2.zones
    cruise := 10, barto := 1048576
    fleet := { s2.fleet with dies := modAt (fun x => { s2.fleet.bootDie x with updates := x.updates }) s2.fleet.dies d } }

def execDieReset (s : State) : Out :=
  match s.input with
  | .dieReset d => .next (if d < 4 && s.fleet.booted then s.resetDie d else s)
  | _ => .next s

/-! ### Ports (R311) -/

def State.modPort (s : State) (n : Nat) (g : PortState → PortState) : State :=
  { s with fleet := { s.fleet with ports := modAt g s.fleet.ports n } }

/-- A port trains, or stays down and counts; a retired one stays down (R359). A channel whose device does not train is retired
(R311); the peer table takes an entry (R312). -/
def execPortLinkTrain (s : State) : Out :=
  match s.input with
  | .peerEntry n fabric =>
    .next { s with fleet := { s.fleet with peers := (n, fabric) :: s.fleet.peers.filter (·.1 ≠ n) } }
  | .channelTrain n ok => .next (if ok || 127 < n then s else s.retire (.channel n))
  | .portLinkTrain n offers =>
    if s.fleet.retired.contains (.port n) then .next s
    else .next (s.modPort n fun p => if offers then { p with up := true } else { p with up := false, linkdown := p.linkdown + 1 })
  | _ => .next s

/-- The first packet of an unsupported flow: it is counted and answered by a negative acknowledgement (R311). -/
def execUnsupportedFlowRefuse (s : State) : Out :=
  match s.input with
  | .unsupportedFlowRefuse n => .next (s.modPort n fun p => { p with refused := p.refused + 1, nacks := p.nacks + 1 })
  | _ => .next s

/-! ### Updates (R338, R339) -/

def State.modFleet (s : State) (g : Fleet → Fleet) : State := { s with fleet := g s.fleet }

/-- The page requests of a fault queue that the services have read and not answered yet: addresses of their entries (R328). -/
def State.readRequests (s : State) (at_ : Nat) : List Nat :=
  let q := qHead s.mem at_
  (((List.range (min q.prod q.size)).filter fun i => decide (q.prod - 1 - i < q.cons)).map fun i => q.base + 64 * ((q.prod - 1 - i) % q.size)).filter fun e =>
    bitsOf (Memory.readN s.mem e 8) 0 8 == (causeCode .transl).toNat && Memory.readN s.mem (dispAt e) 1 == 0

/-- The old services image after an update, where it has entries to finish: those above the highest SEQ that it has read are the
new one's (R338). -/
def State.oldImage (s : State) : Option OldImage :=
  let left := s.faultQueues.flatMap s.readRequests
  if left.isEmpty then none
  else some { since := s.timeNs, faults := (qHead s.mem s.faultq.toNat).cons, traps := (qHead s.mem s.trapq.toNat).cons, unfinished := left }

/-- An image at an address of the job that a management command names (R316; log entry 58). -/
def onImage (c : CmdHdr) (run : State → List Byte → Reply) (s : State) : Reply :=
  withBody (oneWord c.body) fun va => onJob c (fun s j => run s (s.jobBytes j va.toNat Config.imageBytes)) s

/-- A new services image on every running die (R338). -/
def execUpdsvc (s : State) : Out :=
  match s.input with
  | .updsvc c starts =>
    .next (command .updsvc { type := 0x30, mgmt := true } c (onImage c fun s image =>
      if !starts then refusedOnly
      else .ok (s.modFleet fun f => { f with
        servicesImage := some image, oldServices := s.oldImage
        dies := f.dies.map fun (d : DieState) =>
          if d.kernel.isSome then { d with services := shake256 image, updates := d.updates + 1 } else d }) []) s)
  | _ => .next s

/-- 100 ms. -/
def oldServicesNs : Nat := 100000000

/-- The old image ends; the new one has what it left. -/
def execUpdsvcOldTimeout (s : State) : Out :=
  match s.fleet.oldServices with
  | some o => .next (if o.since + oldServicesNs ≤ s.timeNs then s.modFleet fun f => { f with oldServices := none } else s)
  | none => .next s

/-- The slot that the running kernel was not started from; A where none runs. -/
def Fleet.inactive (f : Fleet) : Nat := match f.dies.findSome? (·.kernel) with | some 0 => 1 | _ => 0

/-- A new kernel image in the inactive slot, if it verifies. -/
def execUpdkern (s : State) : Out :=
  match s.input with
  | .updkern c signed =>
    .next (command .updkern { type := 0x31, mgmt := true } c (onImage c fun s bytes =>
      let img : KernelImage := { version := Config.imageVersion bytes, bytes := bytes, signed := signed }
      let k := s.fleet.inactive
      let min := if k = 0 then s.fleet.store.minA else s.fleet.store.minB
      if !bootable (some img) min then refusedOnly
      else .ok (s.modFleet fun f => { f with
        store := if k = 0 then { f.store with slotA := some img } else { f.store with slotB := some img }
        pendingKernel := some (k, img) }) []) s)
  | _ => .next s

/-- The handover at a quiescent point: no command is in progress. -/
def execKernelSwap (s : State) : Out :=
  match s.input with
  | .kernelSwap accepts =>
    match s.fleet.pendingKernel with
    | none => .next s
    | some (k, _) =>
      if s.allJobs.any (·.deleting.isSome) || !(s.fleet.dies.any (·.kernel.isSome)) then .next s
      else if !accepts then .next (s.modFleet fun f => { f with pendingKernel := none })
      else .next (s.modFleet fun f => { f with
        pendingKernel := none, swapped := true
        dies := f.dies.map fun (d : DieState) => if d.kernel.isSome then { d with kernel := some k } else d })
  | _ => .next s

/-- The command's body: the slot (0 for A, 1 for B) and the minimum. -/
def minimumBody (l : List Word) : Option (Nat × Nat) := (twoWords l).bind fun p => if p.1.toNat ≤ 1 then some (p.1.toNat, p.2.toNat) else none

/-- Raises a slot's fused minimum, after a swap that succeeded (log entry 34). -/
def execFusedMinimumRaise (s : State) : Out :=
  match s.input with
  | .fusedMinimumRaise c =>
    .next (command .fusedMinimumRaise { type := Config.fusedType, mgmt := true } c (fun s => withBody (minimumBody c.body) fun b =>
      let old := if b.1 = 0 then s.fleet.store.minA else s.fleet.store.minB
      if !s.fleet.swapped || b.2 < old then refusedOnly
      else .ok (s.modFleet fun f => { f with
        store := if b.1 = 0 then { f.store with minA := b.2 } else { f.store with minB := b.2 } }) []) s)
  | _ => .next s

/-! ### The clock (R340) -/

/-- 1 ms, 1 s and 10 s. -/
def stepNs : Int := 1000000
def secondNs : Nat := 1000000000

def State.setClock (s : State) (c : Clock) : State := { s with clock := c }

/-- Leaves LOCKED. -/
def Clock.leave (c : Clock) (now : Nat) : Clock := if c.state = .locked then { c with leftLock := now } else c

/-- A synchronisation: the first one enters ACQUIRING, 16 within 20 ns in a row enter LOCKED; in ACQUIRING the counter steps
forward once, if it is behind by more than 1 ms. How it slews is the passing of time (log entry 2). -/
def execPtpSyncReceive (s : State) : Out :=
  match s.input with
  | .ptpSyncReceive offset within =>
    let c := s.clock
    let c1 := { c with lastSync := s.timeNs, inARow := if within then c.inARow + 1 else 0 }
    let acquire := fun (c : Clock) =>
      let steps := !c.stepped && decide (stepNs < offset)
      let t := if steps then s.timeNs + offset.toNat else s.timeNs
      let c2 : Clock := { c with stepped := c.stepped || steps, lastSync := t }
      let c3 : Clock := if 16 ≤ c2.inARow then { c2 with state := .locked, lockAt := t } else c2
      ({ s with timeNs := t } : State).setClock c3
    .next (match c.state with
      | .free => acquire { c1 with state := .acquiring, stepped := false, inARow := if within then 1 else 0 }
      | .acquiring => acquire c1
      | .locked | .holdover => s.setClock c1)
  | _ => .next s

/-- No time transmitter has been heard for 10 s. -/
def execClockFreeTimeout (s : State) : Out :=
  .next (if s.clock.state != .free && decide (s.clock.lastSync + 10 * secondNs ≤ s.timeNs) then
    s.setClock { s.clock.leave s.timeNs with state := .free, inARow := 0 } else s)

/-- Three intervals without a synchronisation while LOCKED. -/
def execClockHoldover (s : State) : Out :=
  .next (if s.clock.state == .locked && decide (0 < s.clock.interval ∧ s.clock.lastSync + 3 * s.clock.interval ≤ s.timeNs) then
    s.setClock { s.clock.leave s.timeNs with state := .holdover, holdFrom := s.timeNs, inARow := 0 } else s)

/-- HOLDOVER becomes ACQUIRING after 1 s. -/
def execClockReacquire (s : State) : Out :=
  .next (if s.clock.state == .holdover && decide (s.clock.holdFrom + secondNs ≤ s.timeNs) then
    s.setClock { s.clock with state := .acquiring, stepped := false, inARow := 0 } else s)

/-! ### Zones: settling, samples and the services' response (R351 to R355) -/

/-- A valve's timer has ended; a zone that was being filled is no longer DRY (R357). -/
def Zone.settle (z : Zone) : Zone := { (z.setBit 61 true).setBit 62 false with timer := none }

def State.powerCores (s : State) (z : Nat) (off : Bool) : State :=
  (zoneCores z).foldl (fun (t : State) c => t.modCore c fun k => { k with off := off }) s

def execSluiceSettle (s : State) : Out :=
  match s.input with
  | .sluiceSettle z =>
    match (s.zone z).timer with
    | none => .next s
    | some t =>
      if s.timeNs < t then .next s
      else
        let s1 := s.modZone z Zone.settle
        .next (if (s.zone z).dry then s1.powerCores z false else s1)
  | _ => .next s

/-- A KIND 3 entry of a zone (R353, R358). -/
def sensorEntry (z : Nat) : FaultRec := { code := causeCode .sensor, kind := 3, die := z / 24, unit := z }

/-- Numbers of a zone's sensors (log entry 36): inlet and outlet temperature, flow, pressure, the cores' diodes. -/
def sTin : Nat := 0
def sTout : Nat := 1
def sFlow : Nat := 2
def sPressure : Nat := 3
def sDiode (i : Nat) : Nat := 4 + i

/-- The temperatures of a reading, by sensor. -/
def readingTemps (x : ZoneReading) : List (Nat × Nat) :=
  (sTin, x.tin) :: (sTout, x.tout) :: mapIdxFrom (fun i (v : Nat) => (sDiode i, v)) 0 (x.diodes.take 4)

/-- Whether a sensor's samples are judged now (R359). -/
def Zone.judged (z : Zone) (n : Nat) : Bool := !(z.suspended.any fun p => p.1 == n)
/-- A reading with its sensor's offset. -/
def Zone.read (z : Zone) (n v : Nat) : Int := v + ((z.offsets.find? fun p => p.1 == n).map (·.2)).getD 0

/-- The nominal flow at a zone's step, in tenths of a mL/min (R348). -/
def Zone.nominalFlow (z : Zone) : Nat := 25 * z.step

/-- Whether a sample is an excursion (R353). -/
def Zone.excursionIn (z : Zone) (x : ZoneReading) : Bool :=
  (z.judged sTout && decide ((z.tout : Int) < z.read sTout x.tout))
    || (List.range 4).any (fun i => z.judged (sDiode i) && decide ((z.tj : Int) < z.read (sDiode i) (x.diodes.getD i 0)))
    || (z.judged sPressure && decide ((z.dpmax : Int) < z.read sPressure x.dp))
    || (z.judged sFlow && z.settled && decide (z.read sFlow x.flow * 100 < z.nominalFlow * (100 - (z.flowtol : Int))))

/-- The last samples of a temperature sensor's counterparts in the neighbouring zones of its die: two, or one at an end of the die's
row of zones (log entry 36). -/
def State.neighbours (s : State) (z n : Nat) : List Int :=
  (((if z % 24 = 0 then [] else [z - 1]) ++ if z % 24 = 23 then [] else [z + 1]).filterMap fun y => ((s.zone y).temps.find? (·.1 = n)).map (·.2))

/-- Whether a temperature differs by more than 15 °C from the mean of its counterparts (R355). -/
def State.farOff (s : State) (z n : Nat) (v : Int) : Bool :=
  match s.neighbours z n with
  | [a] => decide (15 < (v - a).natAbs)
  | [a, b] => decide (30 < (2 * v - a - b).natAbs)
  | _ => false

/-- The sensors whose sample is implausible (R355), among those that are judged. -/
def State.implausible (s : State) (z : Nat) (x : ZoneReading) : List Nat :=
  let o := s.zone z
  ((x.outOfRange ++ ((readingTemps x).filter fun p => s.farOff z p.1 (o.read p.1 p.2)).map (·.1)).eraseDups).filter o.judged

/-- A zone begins to drain (R358): for service its cores are retired. -/
def State.startDrain (s : State) (z : Nat) (leak : Bool) : State :=
  let s1 := s.modZone z fun x => { x with drain := some { step := if leak then 1 else 0, leak := leak, repeated := false, since := s.timeNs } }
  if leak then s1 else (zoneCores z).foldl (fun (t : State) c => t.retire (.core (c - 1))) s1

/-- Whether a core is throttled after a sample of its diode (R353): from TJ + 10 on, until the diode reads below TJ; a sample that is
not judged changes nothing (R359). -/
def Zone.throttles (z : Zone) (i : Nat) (was : Bool) (v : Nat) : Bool :=
  if z.judged (sDiode i) then (was && decide ((z.tj : Int) ≤ z.read (sDiode i) v)) || decide ((z.tj : Int) + 10 ≤ z.read (sDiode i) v) else was

/-- A sample of a zone: excursions, throttling at TJ + 10, implausible readings, leaks. -/
def State.sample (s : State) (z : Nat) (x : ZoneReading) : State :=
  let o := s.zone z
  let bad := o.excursionIn x
  let writes := bad && o.trapen && !o.excursion
  let since := if o.passSince = 0 then s.timeNs else o.passSince
  let low := o.judged sPressure && !o.dry && o.drain.isNone && o.step != 0 && decide (o.read sPressure x.pressurePct < 70)
  let n : Zone :=
    { o with
      lastTout := (o.read sTout x.tout).toNat
      temps := (readingTemps x).map fun p => (p.1, o.read p.1 p.2)
      excursion := bad && (o.excursion || o.trapen)
      respStep := if bad then o.respStep else 0
      limited := bad && o.limited
      passSince := if bad then 0 else since
      onlyClass0 := o.onlyClass0 && (bad || decide (s.timeNs < since + secondNs))
      lowPressure := if low then o.lowPressure + 1 else 0 }
  let s1 := s.setZone z n
  let s2 := if writes then s1.pushFault (sensorEntry z) else s1
  let s3 := (mapIdxFrom (fun i c => (i, c)) 0 (zoneCores z)).foldl (fun (t : State) p =>
    if x.diodes.length ≤ p.1 then t
    else t.modCore p.2 fun k => { k with throttled := o.throttles p.1 k.throttled (x.diodes.getD p.1 0) }) s2
  let s4 := (s.implausible z x).foldl (fun (t : State) k => t.charge .sensorImplausible (.sensor z k)) s3
  if 3 ≤ n.lowPressure then s4.startDrain z true else s4

def execZoneSample (s : State) : Out :=
  match s.input with
  | .zoneSample z x => .next (if z < 96 then s.sample z x else s)
  | _ => .next s

/-- Takes up to `n` steps from zones in order, none below its MIN: what is left to take, and the state. -/
def takeSteps : Nat → List Nat → State → State
  | _, [], s => s
  | n, z :: rest, s =>
    let o := s.zone z
    let k := Nat.min n (o.step - o.min)
    takeSteps (n - k) rest (if k = 0 then s else s.sluiceWrite z (o.withStep (o.step - k)))

/-- Zones of the same die that may give steps: base-owned ones, or those of the zone's own season; the coolest first. -/
def State.donors (s : State) (z : Nat) : List Nat :=
  let o := s.zone z
  let cand := ((List.range 24).map fun k => z / 24 * 24 + k).filter fun y =>
    let x := s.zone y
    y != z && !x.dry && x.drain.isNone && x.sensorsRetired.isEmpty && (x.owner == 0 || x.owner == o.owner)
  sortOrd (fun a b => decide ((s.zone a).lastTout < (s.zone b).lastTout)) cand

/-- The services' next step for a zone whose excursion persists (R354). -/
def State.respond353 (s : State) (z : Nat) : State :=
  let o := s.zone z
  let limit := fun (t : State) => t.modZone z fun x => { x with respStep := 2, respAt := s.timeNs + 100000000, limited := true }
  match o.respStep with
  | 0 =>
    let n := Nat.min 15 (o.step + 2) - o.step
    let t := takeSteps n (s.donors z) s
    let v := o.withStep (o.step + n)
    if t.sluiceOk z v then (t.sluiceWrite z v).modZone z fun x => { x with respStep := 1, respAt := s.timeNs + 50000000 }
    else limit s
  | 1 => limit s
  | 2 =>
    (s.modZone z fun x => { x with respStep := 3, onlyClass0 := true, passSince := 0 }).preemptWhere fun p =>
      p.inZone z && decide (1 ≤ s.heatOf p)
  | _ => s

def execSensorResponseStep (s : State) : Out :=
  match s.input with
  | .sensorResponseStep z =>
    let o := s.zone z
    .next (if o.excursion && decide (o.respAt ≤ s.timeNs) then s.respond353 z else s)
  | _ => .next s

/-! ### ZDRAIN, ZFILL, RECAL (R357, R359) -/

/-- The body of ZDRAIN and ZFILL: an entry of the sluice table. -/
def zoneBody (l : List Word) : Option Nat := (oneWord l).bind fun w => if w.toNat ≤ 95 then some w.toNat else none

def execZdrain (s : State) : Out :=
  match s.input with
  | .zdrain c =>
    .next (command .zdrain { type := 0x35, mgmt := true } c (fun s => withBody (zoneBody c.body) fun z =>
      if (s.zone z).drain.isSome then refusedOnly
      else if (s.zone z).dry then .ok s []
      else .ok (s.startDrain z false) []) s)
  | _ => .next s

/-- Refills a zone: the inlet opens at MIN, and the entry settles. -/
def execZfill (s : State) : Out :=
  match s.input with
  | .zfill c =>
    .next (command .zfill { type := 0x36, mgmt := true } c (fun s => withBody (zoneBody c.body) fun z =>
      let o := s.zone z
      if o.drain.isSome || !o.dry || o.wet then refusedOnly
      else
        let n : Zone := { o with entry := o.withStep o.min }
        .ok (s.setZone z { n.setBit 61 false with timer := some (s.timeNs + settleNs), effHeld := Nat.min o.effStep o.min }) []) s)
  | _ => .next s

/-- RECAL: the entry, the sensor 0 to 7, the reference value. -/
def recalBody : List Word → Option (Nat × Nat × Int)
  | [z, n, r] => if decide (z.toNat ≤ 95) && decide (n.toNat ≤ 7) then some (z.toNat, n.toNat, r.toInt) else none
  | _ => none

/-- Recalibrates a sensor, whose retirement ends. -/
def execRecal (s : State) : Out :=
  match s.input with
  | .recal c reading =>
    .next (command .recal { type := 0x37, mgmt := true } c (fun s => withBody (recalBody c.body) fun b =>
      let z := b.1
      let n := b.2.1
      .ok ((s.modZone z fun x => { x with
          offsets := (n, b.2.2 - reading) :: x.offsets.filter fun p => p.1 != n
          suspended := (n, s.timeNs + 10 * secondNs) :: x.suspended.filter fun p => p.1 != n
          sensorsRetired := x.sensorsRetired.filter (· ≠ n) }).modFleet fun f =>
            { f with retired := f.retired.filter (· ≠ .sensor z n) }) []) s)
  | _ => .next s

/-- Ten seconds after RECAL. -/
def execRecalSuspendEnd (s : State) : Out :=
  match s.input with
  | .recalSuspendEnd z n =>
    .next (s.modZone z fun x => { x with suspended := x.suspended.filter fun p => !(p.1 == n && decide (p.2 ≤ s.timeNs)) })
  | _ => .next s

/-! ### Drain-down (R358) -/

/-- Every step writes an entry; step 5 and every fate also send EVUNIT. -/
def State.drainNote (s : State) (z : Nat) (event : Bool) : State :=
  let s1 := if event then s.sendUnit (sensorEntry z) else s
  s1.pushFault (sensorEntry z)

def State.setDrain (s : State) (z : Nat) (d : Option DrainState) : State := s.modZone z fun x => { x with drain := d }

/-- The fate of steps 1 and 5: the die's manifold closes, and its zones drain together from step 2. -/
def State.isolate (s : State) (z : Nat) (leak : Bool) : State :=
  let die := z / 24
  let s1 := s.modFleet fun f => { f with dies := modAt (fun d => { d with isolated := true }) f.dies die }
  (List.range 24).foldl (fun (t : State) k =>
    t.modZone (24 * die + k) fun x => if x.dry then x else { x with drain := some { step := 2, leak := leak, repeated := false, since := s.timeNs } }) s1

/-- Plots that stand on the cores of a zone. -/
def State.zonePlots (s : State) (z : Nat) : List Plot := s.allPlots.filter fun p => p.onCore && p.inZone z

/-- The timeout of a step in ns; step 0 has none (R358). -/
def drainLimit (step : Nat) : Nat := match step with | 3 => 2000000000 | 4 => 5000000000 | _ => 50000000

/-- Whether a step has not finished within its timeout. -/
def State.drainLate (s : State) (d : DrainState) : Bool := d.step != 0 && decide (d.since + drainLimit d.step ≤ s.timeNs)

/-- A step of a drain-down that finishes, or takes its fate; the next one begins now. -/
def State.drainDone (s : State) (z : Nat) (d : DrainState) (ok : Bool) : State :=
  let next := fun (t : State) (n : Nat) => t.setDrain z (some { d with step := n, since := s.timeNs })
  let wet := fun (t : State) => ((t.modZone z fun x => x.setBit 63 true).setDrain z (some { d with step := 5, since := s.timeNs })).drainNote z true
  match d.step, ok with
  | 0, _ => if (s.zonePlots z).isEmpty then next (s.drainNote z false) 1 else s
  | 1, true => next (s.drainNote z false) 2
  | 1, false => (s.isolate z d.leak).drainNote z true
  | 2, true => next (s.drainNote z false) 3
  | 2, false => wet s
  | 3, true => next (s.drainNote z false) 4
  | 3, false => wet s
  | 4, true => next (s.drainNote z false) 5
  | 4, false => if d.repeated then wet s else ((s.setDrain z (some { d with step := 3, repeated := true, since := s.timeNs })).drainNote z true)
  | _, true =>
    let s1 := ((s.zonePlots z).map (·.id)).foldl State.rollPlot s
    let s2 := (s1.powerCores z true).modZone z fun x => { x.settle.setBit 62 true with drain := none }
    s2.drainNote z true
  | _, false => (s.isolate z d.leak).drainNote z true

/-- A step's report: `ok` finishes it, unless its timeout has passed; then it takes its fate. -/
def State.drainStep (s : State) (z : Nat) (d : DrainState) (ok : Bool) : State :=
  if s.drainLate d then s.drainDone z d false else if ok || d.step = 0 then s.drainDone z d true else s

def execDrainDownStep (s : State) : Out :=
  match s.input with
  | .drainDownStep z ok =>
    match (s.zone z).drain with
    | some d => .next (s.drainStep z d ok)
    | none => .next s
  | _ => .next s

/-! ### Power (R356) -/

/-- A measurement of each millisecond: the issue cap moves by one level, by the average of the last ten, or of all where there are
fewer (R356). -/
def execPowerSample (s : State) : Out :=
  match s.input with
  | .powerSample mw =>
    .next (s.modFleet fun f =>
      let l := (mw :: f.powers).take 10
      { f with
        powers := l
        capLevel := if 3600000 * l.length < l.foldl (· + ·) 0 then Nat.min 3 (f.capLevel + 1)
          else if l.foldl (· + ·) 0 < 3400000 * l.length then f.capLevel - 1 else f.capLevel })
  | _ => .next s

end Sys2Proof.Machine
end

