-- ==== Sys2Proof/Machine/Dispatch.lean ====
section
/-! DEFINITION. One arm per instruction, event or command: a direct call of its meaning. -/

namespace Sys2Proof.Machine

def exec (i : Instr) (s : State) : Host.Outcome State Fault Refusal :=
  match i with
  | .br f => Sys2Proof.Machine.execBr f s
  | .brall f => Sys2Proof.Machine.execBrall f s
  | .brany f => Sys2Proof.Machine.execBrany f s
  | .brnone f => Sys2Proof.Machine.execBrnone f s
  | .brd f => Sys2Proof.Machine.execBrd f s
  | .brdec f => Sys2Proof.Machine.execBrdec f s
  | .jmp f => Sys2Proof.Machine.execJmp f s
  | .jmpd f => Sys2Proof.Machine.execJmpd f s
  | .call f => Sys2Proof.Machine.execCall f s
  | .calli f => Sys2Proof.Machine.execCalli f s
  | .calliBudget f => Sys2Proof.Machine.execCalliBudget f s
  | .spawn f => Sys2Proof.Machine.execSpawn f s
  | .yieldW f => Sys2Proof.Machine.execYieldW f s
  | .yieldWWide f => Sys2Proof.Machine.execYieldWWide f s
  | .waitt f => Sys2Proof.Machine.execWaitt f s
  | .waittD f => Sys2Proof.Machine.execWaittD f s
  | .bar f => Sys2Proof.Machine.execBar f s
  | .cancel f => Sys2Proof.Machine.execCancel f s
  | .addInt f => Sys2Proof.Machine.execAddInt f s
  | .subInt f => Sys2Proof.Machine.execSubInt f s
  | .mulInt f => Sys2Proof.Machine.execMulInt f s
  | .mulh f => Sys2Proof.Machine.execMulh f s
  | .minInt f => Sys2Proof.Machine.execMinInt f s
  | .maxInt f => Sys2Proof.Machine.execMaxInt f s
  | .absInt f => Sys2Proof.Machine.execAbsInt f s
  | .negInt f => Sys2Proof.Machine.execNegInt f s
  | .adds f => Sys2Proof.Machine.execAdds f s
  | .subs f => Sys2Proof.Machine.execSubs f s
  | .muls f => Sys2Proof.Machine.execMuls f s
  | .and f => Sys2Proof.Machine.execAnd f s
  | .or f => Sys2Proof.Machine.execOr f s
  | .xor f => Sys2Proof.Machine.execXor f s
  | .andn f => Sys2Proof.Machine.execAndn f s
  | .not f => Sys2Proof.Machine.execNot f s
  | .shl f => Sys2Proof.Machine.execShl f s
  | .shr f => Sys2Proof.Machine.execShr f s
  | .sar f => Sys2Proof.Machine.execSar f s
  | .rotl f => Sys2Proof.Machine.execRotl f s
  | .rotr f => Sys2Proof.Machine.execRotr f s
  | .popc f => Sys2Proof.Machine.execPopc f s
  | .clz f => Sys2Proof.Machine.execClz f s
  | .ctz f => Sys2Proof.Machine.execCtz f s
  | .mov f => Sys2Proof.Machine.execMov f s
  | .ext f => Sys2Proof.Machine.execExt f s
  | .ins f => Sys2Proof.Machine.execIns f s
  | .mad f => Sys2Proof.Machine.execMad f s
  | .bfx f => Sys2Proof.Machine.execBfx f s
  | .sel f => Sys2Proof.Machine.execSel f s
  | .bfi f => Sys2Proof.Machine.execBfi f s
  | .cmpEqInt f => Sys2Proof.Machine.execCmpEqInt f s
  | .cmpNeInt f => Sys2Proof.Machine.execCmpNeInt f s
  | .cmpLtInt f => Sys2Proof.Machine.execCmpLtInt f s
  | .cmpLeInt f => Sys2Proof.Machine.execCmpLeInt f s
  | .cmpGtInt f => Sys2Proof.Machine.execCmpGtInt f s
  | .cmpGeInt f => Sys2Proof.Machine.execCmpGeInt f s
  | .ixa k f => Sys2Proof.Machine.execIxa k f s
  | .xadd f => Sys2Proof.Machine.execXadd f s
  | .xsub f => Sys2Proof.Machine.execXsub f s
  | .xmul f => Sys2Proof.Machine.execXmul f s
  | .xand f => Sys2Proof.Machine.execXand f s
  | .xior f => Sys2Proof.Machine.execXior f s
  | .xshl f => Sys2Proof.Machine.execXshl f s
  | .xshr f => Sys2Proof.Machine.execXshr f s
  | .xmov f => Sys2Proof.Machine.execXmov f s
  | .lea f => Sys2Proof.Machine.execLea f s
  | .mulhi f => Sys2Proof.Machine.execMulhi f s
  | .brev f => Sys2Proof.Machine.execBrev f s
  | .divInt f => Sys2Proof.Machine.execDivInt f s
  | .mand f => Sys2Proof.Machine.execMand f s
  | .mor f => Sys2Proof.Machine.execMor f s
  | .mxor f => Sys2Proof.Machine.execMxor f s
  | .mandn f => Sys2Proof.Machine.execMandn f s
  | .mnot f => Sys2Proof.Machine.execMnot f s
  | .mmov f => Sys2Proof.Machine.execMmov f s
  | .mset f => Sys2Proof.Machine.execMset f s
  | .mget f => Sys2Proof.Machine.execMget f s
  | .mpopc f => Sys2Proof.Machine.execMpopc f s
  | .mffs f => Sys2Proof.Machine.execMffs f s
  | .shflIdx f => Sys2Proof.Machine.execShflIdx f s
  | .shflUp f => Sys2Proof.Machine.execShflUp f s
  | .shflDown f => Sys2Proof.Machine.execShflDown f s
  | .shflXor f => Sys2Proof.Machine.execShflXor f s
  | .shfe f => Sys2Proof.Machine.execShfe f s
  | .permB f => Sys2Proof.Machine.execPermB f s
  | .permN f => Sys2Proof.Machine.execPermN f s
  | .lut f => Sys2Proof.Machine.execLut f s
  | .reduceAdd f => Sys2Proof.Machine.execReduceAdd f s
  | .reduceMin f => Sys2Proof.Machine.execReduceMin f s
  | .reduceMax f => Sys2Proof.Machine.execReduceMax f s
  | .reduceAnd f => Sys2Proof.Machine.execReduceAnd f s
  | .reduceOr f => Sys2Proof.Machine.execReduceOr f s
  | .reduceXor f => Sys2Proof.Machine.execReduceXor f s
  | .scanAdd f => Sys2Proof.Machine.execScanAdd f s
  | .scanMin f => Sys2Proof.Machine.execScanMin f s
  | .scanMax f => Sys2Proof.Machine.execScanMax f s
  | .scanAnd f => Sys2Proof.Machine.execScanAnd f s
  | .scanOr f => Sys2Proof.Machine.execScanOr f s
  | .scanXor f => Sys2Proof.Machine.execScanXor f s
  | .compact f => Sys2Proof.Machine.execCompact f s
  | .addFloat f => Sys2Proof.Machine.execAddFloat f s
  | .subFloat f => Sys2Proof.Machine.execSubFloat f s
  | .mulFloat f => Sys2Proof.Machine.execMulFloat f s
  | .minFloat f => Sys2Proof.Machine.execMinFloat f s
  | .maxFloat f => Sys2Proof.Machine.execMaxFloat f s
  | .minp f => Sys2Proof.Machine.execMinp f s
  | .maxp f => Sys2Proof.Machine.execMaxp f s
  | .absFloat f => Sys2Proof.Machine.execAbsFloat f s
  | .negFloat f => Sys2Proof.Machine.execNegFloat f s
  | .sgn f => Sys2Proof.Machine.execSgn f s
  | .rint f => Sys2Proof.Machine.execRint f s
  | .fma f => Sys2Proof.Machine.execFma f s
  | .fms f => Sys2Proof.Machine.execFms f s
  | .fnma f => Sys2Proof.Machine.execFnma f s
  | .fnms f => Sys2Proof.Machine.execFnms f s
  | .cmpEqFloat f => Sys2Proof.Machine.execCmpEqFloat f s
  | .cmpNeFloat f => Sys2Proof.Machine.execCmpNeFloat f s
  | .cmpLtFloat f => Sys2Proof.Machine.execCmpLtFloat f s
  | .cmpLeFloat f => Sys2Proof.Machine.execCmpLeFloat f s
  | .cmpGtFloat f => Sys2Proof.Machine.execCmpGtFloat f s
  | .cmpGeFloat f => Sys2Proof.Machine.execCmpGeFloat f s
  | .cmpUn f => Sys2Proof.Machine.execCmpUn f s
  | .cmpOrd f => Sys2Proof.Machine.execCmpOrd f s
  | .fclass f => Sys2Proof.Machine.execFclass f s
  | .ftest f => Sys2Proof.Machine.execFtest f s
  | .dot f => Sys2Proof.Machine.execDot f s
  | .dota f => Sys2Proof.Machine.execDota f s
  | .exp2 f => Sys2Proof.Machine.execExp2 f s
  | .log2 f => Sys2Proof.Machine.execLog2 f s
  | .rcp f => Sys2Proof.Machine.execRcp f s
  | .rsqrt f => Sys2Proof.Machine.execRsqrt f s
  | .sinpi f => Sys2Proof.Machine.execSinpi f s
  | .cospi f => Sys2Proof.Machine.execCospi f s
  | .tanh f => Sys2Proof.Machine.execTanh f s
  | .divFloat f => Sys2Proof.Machine.execDivFloat f s
  | .sqrt f => Sys2Proof.Machine.execSqrt f s
  | .cvt src f => Sys2Proof.Machine.execCvt src f s
  | .cvtx f => Sys2Proof.Machine.execCvtx f s
  | .esel f => Sys2Proof.Machine.execEsel f s
  | .zipLo f => Sys2Proof.Machine.execZipLo f s
  | .zipHi f => Sys2Proof.Machine.execZipHi f s
  | .unzipEv f => Sys2Proof.Machine.execUnzipEv f s
  | .unzipOd f => Sys2Proof.Machine.execUnzipOd f s
  | .pk6 f => Sys2Proof.Machine.execPk6 f s
  | .upk6 f => Sys2Proof.Machine.execUpk6 f s
  | .rngLo f => Sys2Proof.Machine.execRngLo f s
  | .rngHi f => Sys2Proof.Machine.execRngHi f s
  | .rngu f => Sys2Proof.Machine.execRngu f s
  | .rnguOc f => Sys2Proof.Machine.execRnguOc f s
  | .rngkLo f => Sys2Proof.Machine.execRngkLo f s
  | .rngkHi f => Sys2Proof.Machine.execRngkHi f s
  | .rngku f => Sys2Proof.Machine.execRngku f s
  | .rngkuOc f => Sys2Proof.Machine.execRngkuOc f s
  | .rcpa f => Sys2Proof.Machine.execRcpa f s
  | .ld f => Sys2Proof.Machine.execLd f s
  | .st f => Sys2Proof.Machine.execSt f s
  | .gath f => Sys2Proof.Machine.execGath f s
  | .scat f => Sys2Proof.Machine.execScat f s
  | .pref f => Sys2Proof.Machine.execPref f s
  | .phase sc f => Sys2Proof.Machine.execPhase sc f s
  | .phaseK sc f => Sys2Proof.Machine.execPhaseK sc f s
  | .fence sc f => Sys2Proof.Machine.execFence sc f s
  | .discard f => Sys2Proof.Machine.execDiscard f s
  | .spill f => Sys2Proof.Machine.execSpill f s
  | .fill f => Sys2Proof.Machine.execFill f s
  | .atomAddRet f => Sys2Proof.Machine.execAtomAddRet f s
  | .atomMinRet f => Sys2Proof.Machine.execAtomMinRet f s
  | .atomMaxRet f => Sys2Proof.Machine.execAtomMaxRet f s
  | .atomAndRet f => Sys2Proof.Machine.execAtomAndRet f s
  | .atomOrRet f => Sys2Proof.Machine.execAtomOrRet f s
  | .atomXorRet f => Sys2Proof.Machine.execAtomXorRet f s
  | .atomXchg f => Sys2Proof.Machine.execAtomXchg f s
  | .atomAdd f => Sys2Proof.Machine.execAtomAdd f s
  | .atomMin f => Sys2Proof.Machine.execAtomMin f s
  | .atomMax f => Sys2Proof.Machine.execAtomMax f s
  | .atomAnd f => Sys2Proof.Machine.execAtomAnd f s
  | .atomOr f => Sys2Proof.Machine.execAtomOr f s
  | .atomXor f => Sys2Proof.Machine.execAtomXor f s
  | .atomCas f => Sys2Proof.Machine.execAtomCas f s
  | .atomwinc f => Sys2Proof.Machine.execAtomwinc f s
  | .waitv f => Sys2Proof.Machine.execWaitv f s
  | .watch f => Sys2Proof.Machine.execWatch f s
  | .waitvW f => Sys2Proof.Machine.execWaitvW f s
  | .shape f => Sys2Proof.Machine.execShape f s
  | .trec f => Sys2Proof.Machine.execTrec f s
  | .cpy f => Sys2Proof.Machine.execCpy f s
  | .cpym f => Sys2Proof.Machine.execCpym f s
  | .coll f => Sys2Proof.Machine.execColl f s
  | .nwr f => Sys2Proof.Machine.execNwr f s
  | .nrd f => Sys2Proof.Machine.execNrd f s
  | .mfs f => Sys2Proof.Machine.execMfs f s
  | .trap f => Sys2Proof.Machine.execTrap f s
  | .tret f => Sys2Proof.Machine.execTret f s
  | .mts f => Sys2Proof.Machine.execMts f s
  | .sluice f => Sys2Proof.Machine.execSluice f s
  | .xlinvVa f => Sys2Proof.Machine.execXlinvVa f s
  | .xlinvAsid f => Sys2Proof.Machine.execXlinvAsid f s
  | .xlinvAll f => Sys2Proof.Machine.execXlinvAll f s
  | .xlsync f => Sys2Proof.Machine.execXlsync f s
  | .tcfg f => Sys2Proof.Machine.execTcfg f s
  | .team f => Sys2Proof.Machine.execTeam f s
  | .bclr f => Sys2Proof.Machine.execBclr f s
  | .mma f => Sys2Proof.Machine.execMma f s
  | .mmat f => Sys2Proof.Machine.execMmat f s
  | .dmma f => Sys2Proof.Machine.execDmma f s
  | .dmmaStreamed f => Sys2Proof.Machine.execDmmaStreamed f s
  | .bget f => Sys2Proof.Machine.execBget f s
  | .bset f => Sys2Proof.Machine.execBset f s
  | .tget f => Sys2Proof.Machine.execTget f s
  | .tset f => Sys2Proof.Machine.execTset f s
  | .drain f => Sys2Proof.Machine.execDrain f s
  | .prjsum f => Sys2Proof.Machine.execPrjsum f s
  | .prjadj f => Sys2Proof.Machine.execPrjadj f s
  | .mma16 f => Sys2Proof.Machine.execMma16 f s
  | .ttrans f => Sys2Proof.Machine.execTtrans f s
  | .pNop h g => Sys2Proof.Machine.execPNop h g s
  | .pMovN32 p => Sys2Proof.Machine.execPMovN32 p s
  | .pMovN64 p => Sys2Proof.Machine.execPMovN64 p s
  | .pAddI32 p => Sys2Proof.Machine.execPAddI32 p s
  | .pAddI64 p => Sys2Proof.Machine.execPAddI64 p s
  | .pSubI32 p => Sys2Proof.Machine.execPSubI32 p s
  | .pSubI64 p => Sys2Proof.Machine.execPSubI64 p s
  | .pMulI32 p => Sys2Proof.Machine.execPMulI32 p s
  | .pAndN64 p => Sys2Proof.Machine.execPAndN64 p s
  | .pOrN64 p => Sys2Proof.Machine.execPOrN64 p s
  | .pXorN64 p => Sys2Proof.Machine.execPXorN64 p s
  | .pAddI32Imm p => Sys2Proof.Machine.execPAddI32Imm p s
  | .pShlN32Imm p => Sys2Proof.Machine.execPShlN32Imm p s
  | .pShrN32Imm p => Sys2Proof.Machine.execPShrN32Imm p s
  | .pSarI32Imm p => Sys2Proof.Machine.execPSarI32Imm p s
  | .pAddF32 p => Sys2Proof.Machine.execPAddF32 p s
  | .pSubF32 p => Sys2Proof.Machine.execPSubF32 p s
  | .pMulF32 p => Sys2Proof.Machine.execPMulF32 p s
  | .pMaxF32 p => Sys2Proof.Machine.execPMaxF32 p s
  | .pMinF32 p => Sys2Proof.Machine.execPMinF32 p s
  | .pMovN8 p => Sys2Proof.Machine.execPMovN8 p s
  | .pMovN16 p => Sys2Proof.Machine.execPMovN16 p s
  | .pAddI16 p => Sys2Proof.Machine.execPAddI16 p s
  | .pAddF64 p => Sys2Proof.Machine.execPAddF64 p s
  | .pMulF64 p => Sys2Proof.Machine.execPMulF64 p s
  | .pAddBf16 p => Sys2Proof.Machine.execPAddBf16 p s
  | .pMulBf16 p => Sys2Proof.Machine.execPMulBf16 p s
  | .pAddF16 p => Sys2Proof.Machine.execPAddF16 p s
  | .pMulF16 p => Sys2Proof.Machine.execPMulF16 p s
  | .pMovI32Imm p => Sys2Proof.Machine.execPMovI32Imm p s
  | .powerOn => Sys2Proof.Machine.execPowerOn s
  | .dieReset => Sys2Proof.Machine.execDieReset s
  | .portLinkTrain => Sys2Proof.Machine.execPortLinkTrain s
  | .unsupportedFlowRefuse => Sys2Proof.Machine.execUnsupportedFlowRefuse s
  | .slotset => Sys2Proof.Machine.execSlotset s
  | .jobnew => Sys2Proof.Machine.execJobnew s
  | .jobdel => Sys2Proof.Machine.execJobdel s
  | .load => Sys2Proof.Machine.execLoad s
  | .launch => Sys2Proof.Machine.execLaunch s
  | .cancelCommand => Sys2Proof.Machine.execCancelCommand s
  | .preempt => Sys2Proof.Machine.execPreempt s
  | .winopen => Sys2Proof.Machine.execWinopen s
  | .winclose => Sys2Proof.Machine.execWinclose s
  | .trapreply => Sys2Proof.Machine.execTrapreply s
  | .query => Sys2Proof.Machine.execQuery s
  | .quote => Sys2Proof.Machine.execQuote s
  | .season => Sys2Proof.Machine.execSeason s
  | .updsvc => Sys2Proof.Machine.execUpdsvc s
  | .updsvcOldTimeout => Sys2Proof.Machine.execUpdsvcOldTimeout s
  | .updkern => Sys2Proof.Machine.execUpdkern s
  | .kernelSwap => Sys2Proof.Machine.execKernelSwap s
  | .retire => Sys2Proof.Machine.execRetire s
  | .thresh => Sys2Proof.Machine.execThresh s
  | .clockcfg => Sys2Proof.Machine.execClockcfg s
  | .provision => Sys2Proof.Machine.execProvision s
  | .zdrain => Sys2Proof.Machine.execZdrain s
  | .zfill => Sys2Proof.Machine.execZfill s
  | .recal => Sys2Proof.Machine.execRecal s
  | .recalSuspendEnd => Sys2Proof.Machine.execRecalSuspendEnd s
  | .hostWindowWrite => Sys2Proof.Machine.execHostWindowWrite s
  | .hostWindowRead => Sys2Proof.Machine.execHostWindowRead s
  | .ptpSyncReceive => Sys2Proof.Machine.execPtpSyncReceive s
  | .clockFreeTimeout => Sys2Proof.Machine.execClockFreeTimeout s
  | .clockHoldover => Sys2Proof.Machine.execClockHoldover s
  | .clockReacquire => Sys2Proof.Machine.execClockReacquire s
  | .headDispatch => Sys2Proof.Machine.execHeadDispatch s
  | .dieDispatchPlace => Sys2Proof.Machine.execDieDispatchPlace s
  | .furrowSwap => Sys2Proof.Machine.execFurrowSwap s
  | .graphRebalance => Sys2Proof.Machine.execGraphRebalance s
  | .stageInstanceStart => Sys2Proof.Machine.execStageInstanceStart s
  | .launchEnd => Sys2Proof.Machine.execLaunchEnd s
  | .preemptionSave => Sys2Proof.Machine.execPreemptionSave s
  | .plotRestore => Sys2Proof.Machine.execPlotRestore s
  | .plotMoveDie => Sys2Proof.Machine.execPlotMoveDie s
  | .regionRestart => Sys2Proof.Machine.execRegionRestart s
  | .plotRollback => Sys2Proof.Machine.execPlotRollback s
  | .plotRelaunch => Sys2Proof.Machine.execPlotRelaunch s
  | .cruiseThirdRun => Sys2Proof.Machine.execCruiseThirdRun s
  | .loadReturn => Sys2Proof.Machine.execLoadReturn s
  | .atomicReply => Sys2Proof.Machine.execAtomicReply s
  | .yieldWReactivate => Sys2Proof.Machine.execYieldWReactivate s
  | .waitvSatisfied => Sys2Proof.Machine.execWaitvSatisfied s
  | .watchFire => Sys2Proof.Machine.execWatchFire s
  | .waittReady => Sys2Proof.Machine.execWaittReady s
  | .barTimeout => Sys2Proof.Machine.execBarTimeout s
  | .calleeGrant => Sys2Proof.Machine.execCalleeGrant s
  | .continuationGrant => Sys2Proof.Machine.execContinuationGrant s
  | .spawnedFurrowGrant => Sys2Proof.Machine.execSpawnedFurrowGrant s
  | .translationWalk => Sys2Proof.Machine.execTranslationWalk s
  | .walkRetry => Sys2Proof.Machine.execWalkRetry s
  | .trapRecordWrite => Sys2Proof.Machine.execTrapRecordWrite s
  | .trapreplyTimeout => Sys2Proof.Machine.execTrapreplyTimeout s
  | .engineJobStart => Sys2Proof.Machine.execEngineJobStart s
  | .engineStampWrite => Sys2Proof.Machine.execEngineStampWrite s
  | .copyComplete => Sys2Proof.Machine.execCopyComplete s
  | .relayHop => Sys2Proof.Machine.execRelayHop s
  | .copyApertureIndexStore => Sys2Proof.Machine.execCopyApertureIndexStore s
  | .copyApertureStartStore => Sys2Proof.Machine.execCopyApertureStartStore s
  | .collComplete => Sys2Proof.Machine.execCollComplete s
  | .nwrTargetWrite => Sys2Proof.Machine.execNwrTargetWrite s
  | .nwrAck => Sys2Proof.Machine.execNwrAck s
  | .nrdComplete => Sys2Proof.Machine.execNrdComplete s
  | .transportRetransmit => Sys2Proof.Machine.execTransportRetransmit s
  | .transportAbandon => Sys2Proof.Machine.execTransportAbandon s
  | .sequencerStep => Sys2Proof.Machine.execSequencerStep s
  | .sequencerStepDone => Sys2Proof.Machine.execSequencerStepDone s
  | .sluiceSettle => Sys2Proof.Machine.execSluiceSettle s
  | .zoneSample => Sys2Proof.Machine.execZoneSample s
  | .sensorResponseStep => Sys2Proof.Machine.execSensorResponseStep s
  | .drainDownStep => Sys2Proof.Machine.execDrainDownStep s
  | .powerSample => Sys2Proof.Machine.execPowerSample s
  | .kmap => Sys2Proof.Machine.execKmap s
  | .kunmap => Sys2Proof.Machine.execKunmap s
  | .kmove => Sys2Proof.Machine.execKmove s
  | .kend => Sys2Proof.Machine.execKend s
  | .kevent => Sys2Proof.Machine.execKevent s
  | .kretire => Sys2Proof.Machine.execKretire s
  | .ret => Sys2Proof.Machine.execRet s
  | .exit => Sys2Proof.Machine.execExit s
  | .endAll => Sys2Proof.Machine.execEndAll s
  | .yield => Sys2Proof.Machine.execYield s
  | .region => Sys2Proof.Machine.execRegion s
  | .flushred => Sys2Proof.Machine.execFlushred s
  | .nop => Sys2Proof.Machine.execNop s
  | .hreuse => Sys2Proof.Machine.execHreuse s
  | .hlikely => Sys2Proof.Machine.execHlikely s
  | .powerOff => Sys2Proof.Machine.execPowerOff s
  | .fusedMinimumRaise => Sys2Proof.Machine.execFusedMinimumRaise s
  | .reservedOpcode => Sys2Proof.Machine.execReservedOpcode s

end Sys2Proof.Machine
end

