-- ==== Sys2Proof/Machine/Schedule.lean ====
section
/-! DEFINITION. Which events of the hardware itself can happen in a state. Events that the outside world causes (commands,
power, sensors, messages of other modules, failed checks) come only from a schedule (log entry 1). -/

namespace Sys2Proof.Machine

/-- Events of dispatchers. A die places its plots in the order they came; a batch leaves when no plot at a die can be placed,
so that it goes by the cores' reports of what is free after the batches before it (R22). -/
def State.dispatchEvents (s : State) : List (Instr × Input) :=
  (if s.allPlots.any s.canPlace then []
    else (s.allLaunches.filter fun l => l.live && !l.cancel && decide (l.next < l.plots)).map fun l => (Instr.headDispatch, Input.headDispatch l.id))
    ++ ((List.range 4).filterMap fun d =>
        ((s.allPlots.filter fun p => p.status == .atDie && p.die == d && s.canPlace p).foldl (fun (m : Option Nat) p => some (min p.id (m.getD p.id))) none).map
          fun i => (.dieDispatchPlace, .dieDispatchPlace i))
    ++ ((s.allPlots.filter fun p => p.status == .leaving || (p.status == .resident && p.preempt && s.plotLeft p)).map
        fun p => (.preemptionSave, .preemptionSave p.id))
    ++ ((s.allPlots.filter fun p => p.status == .saved).map fun p => (.plotRestore, .plotRestore p.id))
    ++ ((s.allPlots.filter fun p => p.status == .rolledBack).map fun p => (.plotRelaunch, .plotRelaunch p.id))
    ++ ((s.allLaunches.filter fun l => l.live && s.launchDone l).map fun l => (.launchEnd, .launchEnd l.id))
    ++ (s.graphs.flatMap fun g => (mapIdxFrom (fun i st => (i, st)) 0 g.stages).filterMap fun p =>
        if g.canStart p.2 then some (.stageInstanceStart, .stageInstanceStart g.id p.1) else none)
    ++ (if s.graphs.isEmpty then [] else ((List.range 4).filter s.rebalanceDue).map fun d => (.graphRebalance, .graphRebalance d))
    ++ (s.allLaunches.flatMap fun l => ((List.range 4).filter fun d =>
        s.dieLost d && s.allPlots.any fun p => p.launch == l.id && p.die == d && p.status != .ending).map fun d => (.plotMoveDie, .plotMoveDie l.id d))

/-- Events of sampled plots: a second run that relaunches catches up; a third run, without a fault of its own, comes to what the first
has (R39, R40). -/
def State.cruiseEvents (s : State) : List (Instr × Input) :=
  s.allPlots.filterMap fun p =>
    let third := ((List.range 96).map fun i => 96 * p.die + i + 1).find? fun k => k != p.core && k != p.twin && s.coreUsable k
    match p.second, third with
    | .behind, _ => if p.compared then some (.plotRelaunch, .secondBack p.id) else none
    | .apart _, some k => if p.compared then some (.cruiseThirdRun, .cruiseThirdRun p.id p.firstEnd k) else none
    | _, _ => none

/-- Events of cores: swaps, grants, the sequencer. -/
def State.coreEvents (s : State) : List (Instr × Input) :=
  s.allCores.flatMap fun c =>
    (if (s.wanting c.id).isEmpty then [] else [(Instr.furrowSwap, Input.furrowSwap c.id)])
      ++ (c.callq.map fun q => match q.kind with
        | .callee => (.calleeGrant, .calleeGrant c.id)
        | .continuation => (.continuationGrant, .continuationGrant c.id)
        | _ => (.spawnedFurrowGrant, .spawnedFurrowGrant c.id)).eraseDups
      ++ (if c.seq.any (·.running) then [(.sequencerStepDone, .sequencerStepDone c.id true)]
          else if c.seq.isEmpty && (s.parkedOps c.id).isEmpty then [] else [(.sequencerStep, .sequencerStep c.id)])

/-- Events of furrows: the ends of waits, walks, trap records. -/
def State.furEvents (s : State) : List (Instr × Input) :=
  s.allFurs.flatMap fun f =>
    (match f.status with
      | .waitStamp .. => [(Instr.yieldWReactivate, Input.yieldWReactivate f.id)]
      | .waitValue .. | .waitWatch .. => [(.waitvSatisfied, .waitvSatisfied f.id)]
      | .waitTime .. => [(.waittReady, .waittReady f.id)]
      | .translate _ _ none => [(.translationWalk, .translationWalk f.id)]
      | .translate _ _ (some _) => [(.walkRetry, .walkRetry f.id)]
      | .trapFull _ => [(.trapRecordWrite, .trapRecordWrite f.id)]
      | .trapped _ c at_ _ => if disposition c == .host && decide (at_ + replyNs ≤ s.timeNs) then [(.trapreplyTimeout, .trapreplyTimeout f.id)] else []
      | _ => [])
      ++ ((List.range 4).filter fun k => (f.watch.getD k {}).armed && !(f.watch.getD k {}).fired).map fun k => (.watchFire, .watchFire f.id k)

/-- Events of engines, of returns and of barriers. -/
def State.unitEvents (s : State) : List (Instr × Input) :=
  (s.rets.map fun r => if r.atomic then (Instr.atomicReply, Input.atomicReply r.id) else (.loadReturn, .loadReturn r.id))
    ++ (s.ejobs.flatMap fun e =>
      if !e.started then [(.engineJobStart, .engineJobStart e.id)]
      else if e.performed then [(.engineStampWrite, .engineStampWrite e.id)]
      else match e.kind with
        | .copy => [(.copyComplete, .copyComplete e.id)]
        | .relay => [(.relayHop, .relayHop e.id)]
        | _ => [])
    ++ ((s.allPlots.filter fun p => (p.bars.any fun b => decide (b.since + p.barto ≤ s.cycles)) || p.yokes.any fun y => decide (y.since + p.barto ≤ s.cycles)).map
      fun p => (.barTimeout, .barTimeout p.id))

/-- Events of the fleet: timers that have ended. -/
def State.timerEvents (s : State) : List (Instr × Input) :=
  ((mapIdxFrom (fun z x => (z, x)) 0 s.zones).flatMap fun p =>
      (match p.2.timer with | some t => if t ≤ s.timeNs then [(Instr.sluiceSettle, Input.sluiceSettle p.1)] else [] | none => [])
        ++ (p.2.suspended.filter fun q => decide (q.2 ≤ s.timeNs)).map (fun q => (.recalSuspendEnd, .recalSuspendEnd p.1 q.1))
        ++ (match p.2.drain with
          | some d =>
            if d.step = 0 ∧ (s.zonePlots p.1).isEmpty then [(.drainDownStep, .drainDownStep p.1 true)]
            else if s.drainLate d then [(.drainDownStep, .drainDownStep p.1 false)] else []
          | none => [])
        ++ if p.2.excursion && decide (p.2.respAt ≤ s.timeNs) && decide (p.2.respStep < 3) then [(.sensorResponseStep, .sensorResponseStep p.1)] else [])
    ++ (match s.fleet.oldServices with | some o => if o.since + oldServicesNs ≤ s.timeNs then [(.updsvcOldTimeout, .idle)] else [] | none => [])
    ++ (match s.clock.state with
      | .free => []
      | .holdover => [(.clockReacquire, .idle), (.clockFreeTimeout, .idle)]
      | .locked => [(.clockHoldover, .idle), (.clockFreeTimeout, .idle)]
      | .acquiring => [(.clockFreeTimeout, .idle)])

/-- Commands that waited and whose turn has come (R314). -/
def State.heldEvents (s : State) : List (Instr × Input) :=
  (s.fleet.held.filter fun h => !s.mustWait h.2.2).map fun h => (h.1, h.2.1)

/-- Every event of the hardware that can happen. -/
def State.events (s : State) : List (Instr × Input) :=
  s.dispatchEvents ++ s.coreEvents ++ s.furEvents ++ s.unitEvents ++ s.timerEvents ++ s.heldEvents ++ s.cruiseEvents

end Sys2Proof.Machine
end

