-- ==== Sys2Proof/Machine/Step.lean ====
section
/-! DEFINITION. One step of the module: an instruction of one furrow, or one event. -/

namespace Sys2Proof.Machine

/-- The quadrants of a core whose active furrows are all stalled (R27). -/
def State.stalledQuads (s : State) (core : Nat) : Nat :=
  ((List.range 4).filter fun q =>
    let fs := (s.coreFurs core).filter fun f => f.active && f.slot / 8 == q
    !fs.isEmpty && fs.all fun f => !f.canIssue).length

/-- Time passes (log entry 2); a core counts the clocks in which a quadrant issues nothing (R27). -/
def State.tick (s : State) : State :=
  let n := Config.elapsedClocks s.steps
  let s := s.settlePend
  { s.mapCores fun c => { c with idle := c.idle + n * s.stalledQuads c.id } with
    timeNs := s.timeNs + Config.elapsedNs s.steps
    cycles := s.cycles + n
    turn := s.turn + 1
    steps := s.steps + 1 }

/-- The next state of an outcome, changed. -/
def onNext (g : State → State) : Out → Out
  | .next s => .next (g s)
  | .fault r => .fault r
  | .refused r => .refused r

/-- Runs an instruction of the furrow in the issue stage; its frame or half is `len` bytes long. -/
def runInstr (i : Instr) (len : Nat) (s : State) : Out :=
  onNext (·.boundaryOf s.fur)
    (exec i (s.setFur { s.fur with npc := s.split.pc + BitVec.ofNat 64 len }))

/-- The yield count has reached the deadline (R32), or passed it by hints. -/
def Furrow.overdue (f : Furrow) : Bool := decide (f.deadline ≤ f.yields)

/-- One issue of the furrow in the issue stage (R21, R32, R131). `YIELDOVR` stands after `PCRANGE` and translation and before
the orders that follow, a place that R131 does not give it (the model's choice, log entry 75). A hint that issues at the deadline
raises nothing, counts its word and takes the count past it, and the next word that is no hint raises `YIELDOVR`: R127 and R32
disagree on it (the model's choice, log entry 80). -/
def issue (s : State) : Out :=
  match s.fur.nextSplit with
  | none => .next s
  | some k =>
    let s := s.setFur { s.fur with cur := k }
    match s.fetch with
    | .walk va => s.stop (.walk va .fetch)
    | .refused va => s.stop (.fault { cause := .page, addr := va })
    | .bad .outsideRange => exec .reservedOpcode { s with input := .reservedOpcode .outsideRange }
    | .bad r =>
      if s.fur.overdue then s.stop (stopOf .yieldovr)
      else exec .reservedOpcode { s with input := .reservedOpcode r }
    | .instr i len =>
      if s.fur.overdue && !deadlineExempt i then s.stop (stopOf .yieldovr)
      else runInstr i len s

/-- A furrow's turn: what it waits for has returned (R44), then it issues. -/
def furrowTurn (id : Nat) (s : State) : Out :=
  let s := if s.fur.id = id then s else s.focusFur id
  if s.fur.canIssue then
    let s1 := s.deliverWhere (· = id)
    onNext (s1.noteIssue · id) (issue s1)
  else .next s

/-- An event's turn: it reads what is handed over. -/
def eventTurn (i : Instr) (x : Input) (s : State) : Out := exec i { s with input := x }

/-- What moves when no schedule says: furrows at even turns, events at odd ones, each where it has something to do. -/
def freeTurn (s : State) : Out :=
  let ev := s.events
  let e := ev[s.turn / 2 % max ev.length 1]?
  match s.turn % 2, s.nextFurrow, e with
  | 0, some id, _ => furrowTurn id s
  | 0, none, some p => eventTurn p.1 p.2 s
  | _, _, some p => eventTurn p.1 p.2 s
  | _, some id, none => furrowTurn id s
  | _, none, none => .next s

/-- One step. -/
def step (s : State) : Host.Outcome State Fault Refusal :=
  onNext State.tick
    (match s.agenda with
     | .event i x :: rest => eventTurn i x { s with agenda := rest }
     | .furrow id :: rest => furrowTurn id { s with agenda := rest }
     | [] => freeTurn s)

/-- Where `withFetchWord` puts code, virtual and physical (log entry 4). -/
def codeAt : Nat := 0x10000

/-- The machine with one furrow in the issue stage whose next word is `w`: the state after a job has been made, its code
loaded and its launch started (log entry 4), with its code page already translated. -/
def State.withFetchWord (s : State) (_nbits w : Nat) : State :=
  let s := s.unload
  let n := s.nextId
  { s with
    mem := Memory.writeN s.mem codeAt 16 w
    job := { id := n, live := true, asid := 1 }
    launch := { id := n + 1, job := n, live := true, plots := 1, budget := 1024 }
    plot := { id := n + 2, launch := n + 1, status := .resident, tag := 1, core := 1, granted := true, had := 1, trapq := s.trapq, faultq := s.faultq }
    core := { id := 1, tlb := [{ asid := 1, va := codeAt, size := pageSize, pa := codeAt, r := false, w := false, x := true, p := false }] }
    cores := s.cores.filter (·.id ≠ 1)
    fur :=
      { id := n + 3, plot := n + 2, status := .ready, budget := 1024, codeLo := BitVec.ofNat 64 codeAt
        codeHi := BitVec.ofNat 64 (codeAt + pageSize), granted := 0xFFFFFFFF, active := true
        splits := [{ valid := true, pc := BitVec.ofNat 64 codeAt, mask := 0xFFFFFFFF }, {}, {}, {}] }
    nextId := n + 4
    agenda := [.furrow (n + 3)] }

end Sys2Proof.Machine
end

