-- ==== Sys2Proof/WellFormed.lean ====
section
/-! DEFINITION. What an instruction must satisfy to be a word of a program: the field rules of its opcode (R131, order
7), and for a P half the immediates and the halves that R118 and R120 allow. -/

namespace Sys2Proof

/-- The rules of a P half (R118, R120): a shift count below 32, and opcodes from 0x20 in half 0 only. -/
def Instr.halfOk : Instr → Bool
  | .pShlN32Imm p | .pShrN32Imm p | .pSarI32Imm p => decide (p.imm.toNat < 32)
  | .pAddF64 p | .pMulF64 p | .pAddBf16 p | .pMulBf16 p | .pAddF16 p | .pMulF16 p => !p.half
  | .pMovI32Imm p => !p.half
  | _ => true

/-- An instruction that some word of a program encodes; an event or a command has no word and no field to be wrong. -/
def Instr.wellFormed (i : Instr) : Bool := i.legal && i.halfOk

end Sys2Proof
end

