-- ==== Sys2Proof/Safety.lean ====
section
/-! DEFINITION. What holds of every state of a safe run, and the terms in which statements say what an instruction
changes: the new contents of every register, and everything else unchanged. -/

namespace Sys2Proof.Machine

/-- Physical memory is in its canonical form. -/
def State.memWf (s : State) : Prop := Memory.wf s.mem = true

/-- A step that neither stops nor refuses. -/
def State.goesOn (s : State) : Prop := ∃ t, step s = .next t

/-- `exec i` answers a next state, of which `P` holds. -/
def Completes (i : Instr) (s : State) (P : State → Prop) : Prop := ∃ t, exec i s = .next t ∧ P t

/-- Every operand lies in the grant (R42) and every latch source names an entry the window holds (R53). -/
def Readable (s : State) (l : List Operand) : Prop :=
  ∀ o ∈ l, o.inBudget s.fur.budget = true ∧ o.inWindow s.fur.latches.length = true

/-! ### Register contents -/

/-- Slice `k` of lane `i`, with its poison bit (R41, R49). -/
def State.slice (s : State) (i k : Nat) : Src := ⟨(s.lane i).read k 4, (s.lane i).poisoned k 4⟩
/-- An x-register with its poison bit (R50, R56). -/
def State.xsrc (s : State) (j : Nat) : Src := ⟨(s.x j).toNat, s.xp j⟩

/-- Slices after a result `v` in the lanes of `act` has been written to a destination (R13, R41, R49). -/
def newSlice (s : State) (dst : Operand) (act : Mask) (v : Nat → Src) (i k : Nat) : Src :=
  match dst with
  | .slice st c =>
    if act.getLsbD i = true ∧ st.toNat ≤ k ∧ k < st.toNat + codeBits c / 4 then ⟨(v i).v / 16 ^ (k - st.toNat) % 16, (v i).p⟩
    else s.slice i k
  | _ => s.slice i k

/-- X-registers after that: the destination takes the result of the lowest active lane (R57). -/
def newX (s : State) (dst : Operand) (act : Mask) (v : Nat → Src) (j : Nat) : Src :=
  match dst, lowest act with
  | .xreg n _ _, some i => if j = n.toNat then ⟨(v i).v % 2 ^ 64, (v i).p⟩ else s.xsrc j
  | _, _ => s.xsrc j

/-- A latch entry: 64-bit values in the lanes of `act`, zero and clean elsewhere (R53). -/
def latchEntry (act : Mask) (v : Nat → Src) : LatchEntry :=
  { vals := (List.range 32).map fun i => if act.getLsbD i then BitVec.ofNat 64 (v i).v else 0
    poison := maskOf fun i => act.getLsbD i && (v i).p }

/-- The latch window after that: a slice or `l0` destination pushes it (R53, R54). -/
def newLatches (s : State) (dst : Operand) (act : Mask) (v : Nat → Src) : List LatchEntry :=
  match dst with
  | .slice _ _ | .latchOnly => (latchEntry act v :: s.fur.latches).take 8
  | _ => s.fur.latches

/-- Mask registers after the lanes of `act` of register `k` have been written (R55). -/
def newMask (s : State) (k : Nat) (act bits : Mask) (j : Nat) : Mask :=
  if j = k then (s.mask j &&& ~~~act) ||| (bits &&& act) else s.mask j

/-- From `s` to `t` the issuing furrow's registers become `sl`, `x`, `m` and `lat`, its issuing split goes to `pc`, one
more word counts towards its deadline (R32; half 0 of a P frame is no whole word), and NOTHING ELSE of the module changes. -/
structure RegEffect (s t : State) (sl : Nat → Nat → Src) (x : Nat → Src) (m : Nat → Mask) (lat : List LatchEntry) (pc : Word) : Prop where
  /-- every part of the module but the issuing furrow -/
  others : t = { s with fur := t.fur }
  /-- every part of the furrow but its registers, its split table and its count -/
  furrow : t.fur = { s.fur with
    lanes := t.fur.lanes, masks := t.fur.masks, xregs := t.fur.xregs, xpoison := t.fur.xpoison
    latches := t.fur.latches, splits := t.fur.splits, yields := t.fur.yields }
  slices : ∀ i k, i < 32 → k < 1024 → t.slice i k = sl i k
  xregs : ∀ j, j < 64 → t.xsrc j = x j
  masks : ∀ j, 1 ≤ j → t.mask j = m j
  latches : t.fur.latches = lat
  /-- the issuing split goes to `pc`; the other entries of the split table stay -/
  splits : ∀ k, t.fur.splits.getD k {} = if k = s.fur.cur then { s.split with pc := pc } else s.fur.splits.getD k {}
  count : t.fur.yields = s.fur.yields + if s.fur.npc.getLsbD 2 then 0 else 1

/-- The result `v` (64 bits wide) in the lanes of `act` is written to `dst`, and the split goes to the next frame or half. -/
def Writes (s : State) (dst : Operand) (act : Mask) (v : Nat → Src) (t : State) : Prop :=
  RegEffect s t (newSlice s dst act v) (newX s dst act v) s.mask (newLatches s dst act v) s.fur.npc

/-- The lanes of `act` of mask register `k` take `bits`, and the split goes on. -/
def WritesMask (s : State) (k : Nat) (act bits : Mask) (t : State) : Prop :=
  RegEffect s t s.slice s.xsrc (newMask s k act bits) s.fur.latches s.fur.npc

/-- X-register `n` takes a value, whatever the lanes, and the split goes on. -/
def WritesX (s : State) (n : Nat) (v : Src) (t : State) : Prop :=
  RegEffect s t s.slice (fun j => if j = n then ⟨v.v % 2 ^ 64, v.p⟩ else s.xsrc j) s.mask s.fur.latches s.fur.npc

/-- No register changes, and the split goes on. -/
def GoesOn (s t : State) : Prop := RegEffect s t s.slice s.xsrc s.mask s.fur.latches s.fur.npc

/-- No register changes but the latch window, which a taken branch empties (R53), and the split goes to `pc`. -/
def GoesTo (s : State) (pc : Word) (t : State) : Prop := RegEffect s t s.slice s.xsrc s.mask [] pc

/-- The number below `2^n` whose bit `j` is `p j`. -/
def bitsNat : Nat → (Nat → Bool) → Nat
  | 0, _ => 0
  | n + 1, p => bitsNat n p + if p n then 2 ^ n else 0

/-- The number of set bits below `n`, and the first of them (`n` where there is none). -/
def countBits (n : Nat) (p : Nat → Bool) : Nat := ((List.range n).filter p).length
def firstBit (n : Nat) (p : Nat → Bool) : Nat := ((List.range n).find? p).getD n

/-- Bit `k` of a `w`-bit value extended by its type (R46, R154). -/
def extBit (sg : Bool) (w v k : Nat) : Bool := if k < w then v.testBit k else sg && v.testBit (w - 1)

/-- What a lane supplies to another (R161): zero and clean from outside the issuing split. -/
def fromLane (s : State) (g : Nat → Src) (i : Nat) : Src := if s.m0.getLsbD i then g i else ⟨0, false⟩

/-- An element-wise float result (R167, R168): operands of `nat` elements, each result rounded once, with the flags of
every element of every active lane raised for the plot, and nothing else. -/
def FloatWrites (s : State) (f : Args) (nat : BitVec 5) (ops : List Operand) (op : Nat → List Num → Num × Flags) : State → Prop :=
  let e := fmtBits nat
  let w := fltWidth nat f
  let n := w / e
  let act := s.active f.guard
  let el := fun i j =>
    let u := s.draw f.rnd (s.nonce f w i).v i j
    let r := op u (ops.map fun o => decodeNum nat (subElem (s.fsrc nat w o i).v e j))
    let z := encodeNum nat r.1 f.rnd u none
    (z.1, z.2 ||| r.2)
  Writes (s.raise (flagsOver act n fun i j => (el i j).2)) f.a act fun i =>
    wide64 false w ⟨packElems e ((List.range n).map fun j => (el i j).1),
      (ops.any fun o => (s.fsrc nat w o i).p) || (s.nonce f w i).p⟩

/-- The format resolves to one of the four native float formats, and the operand widths fit (R64, R167). -/
def FloatReady (s : State) (f : Args) (accept : Nat) (nat : BitVec 5) : Prop :=
  s.native accept f.fmt = some nat ∧ fltOk (f.withFmt nat) = true ∧ Readable s f.operands

/-- An integer value of a reduction node (R165). -/
def redFold (op : RedOp) (sg : Bool) (w : Nat) (a b : Nat) : Nat :=
  match op with
  | .add => (a + b) % 2 ^ w
  | .min => if typed sg w a ≤ typed sg w b then a else b
  | .max => if typed sg w a ≤ typed sg w b then b else a
  | .and => a &&& b
  | .or => a ||| b
  | .xor => a ^^^ b

/-! ### Memory accesses -/

/-- Accesses of `n` bytes aligned to `al`, by lane and address, all lie below the copy aperture, aligned and translated for
what they do (R190, R192, R322). -/
def Accessible (s : State) (acc : Access) (n al : Nat) (l : List (Nat × Nat)) : Prop :=
  ∀ p ∈ l, p.2 + n ≤ aperture ∧ p.2 % al = 0 ∧ (s.pa acc p.2).isSome = true ∧ (s.pa acc (p.2 + n - 1)).isSome = true

/-- An acquire of these reads passes the scope check at every line that it reads at home (R99). -/
def AcquirePasses (s : State) (sc : BitVec 3) (n : Nat) (l : List (Nat × Nat)) : Prop :=
  ∀ p ∈ l, ∀ sec ∈ s.readSectors p.2 n, s.scopeOk sc (64 * sec) = true

/-- An acquire's check may make records more recently used, and changes none (R98). -/
def State.sameRecords (s t : State) : Prop := ∀ n, t.checker.find? (·.line = n) = s.checker.find? (·.line = n)

/-- A load's effect: a return is on its way that will write `d` (R51), the core keeps copies of what was read (R90), and
nothing else changes. -/
structure LoadEffect (s : State) (d : RetData) (t : State) : Prop where
  others : t = { s with
    fur := t.fur, plot := { s.plot with eccSeen := t.plot.eccSeen, acqAt := t.plot.acqAt }, core := { s.core with l1 := t.core.l1 }
    rdc := t.rdc, checker := t.checker, rets := t.rets, nextId := t.nextId }
  records : s.sameRecords t
  ret : t.rets = s.rets ++
    [{ id := s.nextId, fur := s.fur.id, core := s.plot.core, ctx := s.fur.ctx, gen := s.fur.gen, atomic := false, data := d, at_ := s.cycles }]
  next : t.nextId = s.nextId + 1
  registers : GoesOn { t with fur := s.fur } t

/-- Translations keep the place of a byte within its sector (R321: pages of at least 64 KiB, aligned). -/
def State.paged (s : State) (acc : Access) : Prop :=
  ∀ sec, (∀ k, k < 64 → s.pa acc (64 * sec + k) = (s.pa acc (64 * sec)).map (· + k)) ∧ ∀ pa, s.pa acc (64 * sec) = some pa → pa % 64 = 0

/-- A store: its address, its size, its data and their poison. -/
abbrev Stored := Nat × Nat × Nat × Bool

/-- The bytes that stores give physical addresses, in the order in which they are stored, with the poison of their data (R196). -/
def storedBytes (s : State) (l : List Stored) : List (Nat × Byte × Bool) :=
  l.flatMap fun x => (List.range x.2.1).map fun k => ((s.pa .store (x.1 + k)).getD 0, BitVec.ofNat 8 (x.2.2.1 / 256 ^ k), x.2.2.2)
/-- The last byte stored at an address, with its poison. -/
def lastAt (l : List (Nat × Byte × Bool)) (pa : Nat) : Option (Byte × Bool) := (l.reverse.find? (·.1 == pa)).map (·.2)

/-- The furrow's own private entries are not followed by entries of the same sector that it can read: what it stores is the
newest value that it sees (R91). -/
def State.ownNewest (s : State) : Prop :=
  s.plot.silo.Pairwise fun a b => a.sector = b.sector → a.tag = s.fur.tag → a.vis = false → b.vis = false ∧ b.tag ≠ s.fur.tag

/-- A byte as a furrow of the plot with a given tag reads it, with its poison (R91). -/
def State.seenBy (s : State) (tag : BitVec 7) (pa : Nat) : Byte × Bool := ({ s with fur := { s.fur with tag := tag } } : State).viewByte false pa

/-- A byte stored at an address as a load then finds it: read-only bits read as they stand below (R4). -/
def State.mixed (s : State) (pa : Nat) (b : Byte) : Byte := mixByte (s.fixedByte pa) (s.below false pa).1 b

/-- The effect of ordinary stores (R91, R94, R196): they are entries of the plot, and memory itself stays. The furrow reads the bytes
stored, the last of each address. Where the stores release at plot scope (`vis`), every furrow of the plot reads what the furrow reads,
poison included, and else the others read what they read before. Poisoned data make their bytes poison; clean data leave a byte clean unless its entry was poisoned. -/
structure StoreEffect (s : State) (vis : Bool) (l : List Stored) (t : State) : Prop where
  others : t = { s with fur := t.fur, plot := { s.plot with silo := t.plot.silo, held := t.plot.held, entryNum := t.plot.entryNum } }
  registers : GoesOn { t with fur := s.fur } t
  reads : ∀ pa, (t.seenBy s.fur.tag pa).1 = match lastAt (storedBytes s l) pa with | some b => s.mixed pa b.1 | none => (s.seenBy s.fur.tag pa).1
  shared : vis = true → ∀ h pa, t.seenBy h pa = t.seenBy s.fur.tag pa
    ∧ (t.seenBy h pa).1 = match lastAt (storedBytes s l) pa with | some b => s.mixed pa b.1 | none => (s.seenBy h pa).1
  private_ : vis = false → ∀ h, h ≠ s.fur.tag → ∀ pa, t.seenBy h pa = s.seenBy h pa
  sick : ∀ pa b, lastAt (storedBytes s l) pa = some (b, true) → (t.seenBy s.fur.tag pa).2 = true
  clean : (∀ x ∈ l, x.2.2.2 = false) → (∀ e ∈ s.plot.silo, e.tag = s.fur.tag → e.vis = false → e.poison = false) → ∀ pa b,
    lastAt (storedBytes s l) pa = some b → s.fixedByte pa = 0 → (t.seenBy s.fur.tag pa).2 = false
  untouched : (∀ x ∈ l, x.2.2.2 = false) → ∀ pa, lastAt (storedBytes s l) pa = none → (t.seenBy s.fur.tag pa).2 = (s.seenBy s.fur.tag pa).2

/-- Memory after `n` bytes within a sector have been stored to `m`: those bytes stand, but for read-only bits (R4). -/
def State.storedIn (s : State) (m : Memory) (pa n v : Nat) : Memory :=
  ({ s with mem := m } : State).keepFixed (pa / 64) (Memory.writeN m pa n v)

/-- Operations performed one after the other at their home slices, each in `n` bytes: memory afterwards, and what each read
(R97, R203). -/
def State.inTurn (s : State) (g : Nat → AtomLane → Nat) (n : Nat) : Memory → List AtomLane → Memory × List (Nat × Nat)
  | m, [] => (m, [])
  | m, l :: rest =>
    let old := Memory.readN m l.pa n
    let r := s.inTurn g n (s.storedIn m l.pa n (g old l)) rest
    (r.1, (l.lane, old) :: r.2)

/-! ### Boundaries, checkpoints, effects outside the plot -/

/-- The issue stage holds a furrow with its plot, launch, job and core, and none of them stands among the others. -/
structure State.Focused (s : State) : Prop where
  ids : s.fur.id ≠ 0 ∧ s.plot.id ≠ 0 ∧ s.launch.id ≠ 0 ∧ s.job.id ≠ 0 ∧ s.core.id ≠ 0
  links : s.fur.plot = s.plot.id ∧ s.plot.launch = s.launch.id ∧ s.launch.job = s.job.id ∧ s.plot.core = s.core.id
  once : (∀ f ∈ s.furs, f.id ≠ s.fur.id) ∧ (∀ p ∈ s.plots, p.id ≠ s.plot.id) ∧ (∀ l ∈ s.launches, l.id ≠ s.launch.id) ∧
    (∀ j ∈ s.jobs, j.id ≠ s.job.id) ∧ ∀ c ∈ s.cores, c.id ≠ s.core.id

/-- A callee, or a continuation that inherits a frame, has ended (R140): JOIN of the frame at `va`, whose word stands at `pa`, is
one less, the continuation is queued at 0, and nothing else changes but caches. -/
structure Returned (s : State) (va : Word) (pa : Nat) (t : State) : Prop where
  others : t = { s with
    fur := {}, core := { s.core with l1 := t.core.l1, callq := t.core.callq }, mem := t.mem, l2 := t.l2, rdc := t.rdc }
  join : Memory.readN t.mem pa 4 = (Memory.readN s.mem pa 4 + 2 ^ 32 - 1) % 2 ^ 32
  calls : t.core.callq = if Memory.readN s.mem pa 4 = 1 then s.core.callq ++ [s.job.continuation s.plot.id va] else s.core.callq
  bytes : ∀ a, (a < pa ∨ pa + 4 ≤ a) → Memory.byte t.mem a = Memory.byte s.mem a

/-- The state with the furrow's region closed (R36). -/
def State.unregioned (s : State) : State := { s with fur := { s.fur with region := none } }
/-- The state with every entry of the plot plot-visible (R94). -/
def State.shown (s : State) : State :=
  { s with plot := { s.plot with
      silo := s.plot.silo.map fun e => { e with vis := true }, held := s.plot.held.map fun e => { e with vis := true } } }

/-- What a store acts on: a release closes the region, and at plot scope shows every entry first (R36, R94). -/
def storeBase (s : State) (f : Args) : State :=
  if f.releases then (if f.scope = 1 then s.shown.unregioned else s.unregioned) else s

/-- Memory once the plot's entries have been written to it in their order (R94), but for read-only bits (R4). -/
def State.drainedMem (s : State) : Memory :=
  (s.plot.held ++ s.plot.silo).foldl (fun m e =>
    ({ s with mem := m } : State).keepFixed e.sector (Memory.writeMasked m (64 * e.sector) e.mask.toNat e.data.toNat 64)) s.mem
def drained (s : State) (pa : Nat) : Byte := Memory.byte s.drainedMem pa

/-- An address of the copies that a checkpoint of the plot writes in the job's pool, where no program reads (R329, R330). -/
def State.inCopies (s : State) (a : Nat) : Prop :=
  (s.plot.copyPa ≠ 0 ∧ s.plot.copyPa ≤ a ∧ a < s.plot.copyPa + plotBytes s.plot.tiles.length s.plot.bins.length) ∨
  ∃ f ∈ s.allFurs, f.plot = s.plot.id ∧
    let at_ := s.plot.copyOf s.launch.furrows f
    at_ ≠ 0 ∧ at_ ≤ a ∧ a < at_ + furBytes

/-- The split has gone on and the region is closed; what else of the furrow is unchanged. -/
def EndsRegion (s t : State) : Prop := GoesOn { t with fur := { s.fur with region := none } } t

/-- A commit (R94): the entries are gone into memory, the copies of their sectors may have changed, and of the plot, the core
and the rest of the module nothing else. A checkpoint (`check`) writes its copies beside them. -/
structure Commits (s : State) (check : Bool) (t : State) : Prop where
  others : t = { s with
    fur := t.fur, plot := { s.plot with silo := [], held := [], acqAt := t.plot.acqAt, check := t.plot.check }
    core := { s.core with l1 := t.core.l1 }, mem := t.mem, poisoned := t.poisoned, l2 := t.l2, rdc := t.rdc }
  bytes : ∀ pa, (check = true → ¬s.inCopies pa) → Memory.byte t.mem pa = drained s pa

/-- From `s` to `t` the plot has taken a checkpoint, which has the issuing furrow at the boundary after its instruction, so that no
replay performs its effect twice (R20, R38, R62, R207; log entry 47). -/
def Checkpointed (s t : State) : Prop :=
  ∃ c, t.plot.check = some c ∧ c.tiles = t.plot.tiles ∧ c.bins = t.plot.bins ∧ c.team = t.plot.team ∧ c.flags = t.plot.flags ∧
    c.chans = t.plot.chans ∧ c.at_ = t.nextId ∧ c.furs = (t.allFurs.filter (·.plot = t.plot.id)).map fun f =>
      (if f.id = t.fur.id then t.fur.settled s.fur.splits t.fur.cur else f).kept

/-- From `s` to `t` the plot has taken a checkpoint with its furrows as they stand in `s`, at the instruction (R38, R62). -/
def CheckpointedAt (s t : State) : Prop :=
  ∃ c, t.plot.check = some c ∧ c.tiles = s.plot.tiles ∧ c.bins = s.plot.bins ∧ c.team = s.plot.team ∧ c.flags = s.plot.flags ∧
    c.chans = s.plot.chans ∧ c.at_ = s.nextId ∧ c.furs = (s.allFurs.filter (·.plot = s.plot.id)).map Furrow.kept

/-- An atomic's effect lies outside the plot: it performs a lane at home, or its release commits (R38). -/
def AtomOut (s : State) (op : AtomOp) (f : Args) : Prop := s.active f.guard ≠ 0 ∨ (atomRel op f = true ∧ 2 ≤ (atomScope op f).toNat)

/-- The conditions of an atomic over its lanes: clean operands, whole addresses, the scope check at every line, no poison in
the words once the plot's stores are committed, and nothing that a checkpoint before an effect outside the plot waits for (R38, R97,
R99, R203). -/
structure AtomReady (s : State) (op : AtomOp) (f : Args) (fmt : BitVec 5) : Prop where
  canonical : s.memWf
  clean : ∀ i ∈ lanesOf (s.active f.guard), (s.src false 64 f.b i).p = false ∧ (s.atomSrc fmt f.c i).p = false ∧ (s.atomSrc fmt f.d i).p = false
  access : Accessible s .atomic (fmtBits fmt / 8) (fmtBits fmt / 8) ((lanesOf (s.active f.guard)).map fun i => (i, (s.src false 64 f.b i).v))
  scope : ∀ l ∈ s.atomLanes fmt f (s.active f.guard), s.scopeOk (atomScope op f) l.pa = true
  clear : ∀ l ∈ s.atomLanes fmt f (s.active f.guard), (s.commitPlot s.plot).poisoned.contains (l.pa / 64) = false
  free : AtomOut s op f → s.checkBlocked = false

/-- What an atomic performed at home acts on: its checkpoint, which commits the plot's entries, and then its release boundary (R38, R94). -/
def atomBase (s : State) (op : AtomOp) (f : Args) : State :=
  (if !(lanesOf (s.active f.guard)).isEmpty || (atomRel op f && decide (2 ≤ (atomScope op f).toNat)) then s.beforeEffect else s).atomBoundary op f

/-- An atomic performed at home (R97, R203): the lanes act one after the other, each in whole; `ret` lanes receive what was there; the
checkpoint before it is brought past it (R38). Bytes of the launch's completion record may change as well, where DETRES leaves it
(R101). -/
structure AtomEffect (s : State) (op : AtomOp) (f : Args) (fmt : BitVec 5) (ret : Bool) (t : State) : Prop where
  others : t = { s with
    fur := t.fur
    plot := { s.plot with silo := t.plot.silo, held := t.plot.held, acqAt := t.plot.acqAt, check := t.plot.check }
    launch := { s.launch with comp := { s.launch.comp with detres := t.launch.comp.detres } }
    core := { s.core with l1 := t.core.l1 }, mem := t.mem, poisoned := t.poisoned, l2 := t.l2, rdc := t.rdc
    checker := t.checker, nextId := t.nextId }
  memory : ∀ a, (a < s.launch.comp.pa ∨ s.launch.comp.pa + 16 ≤ a) → Memory.byte t.mem a =
    Memory.byte (s.inTurn (fun old l => atomFn fmt op f.rnd old l.c l.d) (fmtBits fmt / 8) (atomBase s op f).mem
      (s.atomLanes fmt f (s.active f.guard))).1 a
  entries : t.plot.silo = (atomBase s op f).plot.silo ∧ t.plot.held = (atomBase s op f).plot.held
  detres : ret = true ∨ s.launch.det = true → t.launch.comp.detres = false
  registers : let olds := (s.inTurn (fun old l => atomFn fmt op f.rnd old l.c l.d) (fmtBits fmt / 8) (atomBase s op f).mem
      (s.atomLanes fmt f (s.active f.guard))).2
    let b : State := { t with fur := { s.fur with region := none } }
    if ret then Writes b f.a (s.active f.guard)
      (fun i => wide64 (fmtIsInt fmt && fmtSigned fmt) (fmtBits fmt) ⟨(((olds.find? (·.1 == i)).map (·.2)).getD 0) % 2 ^ fmtBits fmt, false⟩) t
    else GoesOn b t
  checkpoint : AtomOut s op f → Checkpointed s t

/-! ### Traps (R18, R325, R328) -/

/-- The queue's next record lies in memory, apart from the queue's own words and from the furrow's context area, and there is
room for it. -/
structure TrapRoom (s : State) : Prop where
  room : s.trapsFull = false
  memory : paOk s.plot.trapq.toNat = true ∧ paOk (s.plot.trapq.toNat + 63) = true ∧ paOk ((qHead s.mem s.plot.trapq.toNat).slot 256) = true ∧
    paOk ((qHead s.mem s.plot.trapq.toNat).slot 256 + 255) = true
  apart : (qHead s.mem s.plot.trapq.toNat).slot 256 + 256 ≤ s.plot.trapq.toNat ∨ s.plot.trapq.toNat + 64 ≤ (qHead s.mem s.plot.trapq.toNat).slot 256
  context : s.fur.ctxPa = 0 ∨ s.fur.ctxPa + 24576 ≤ s.plot.trapq.toNat ∨ s.plot.trapq.toNat + 64 ≤ s.fur.ctxPa
  canonical : s.memWf

/-- A trap record in memory (R328): what it says of the fault of the furrow in the issue stage of `s`. -/
structure RecordAt (m : Memory) (e : Nat) (s : State) (r : TrapRec) : Prop where
  cause : Memory.readN m e 4 = (causeCode r.cause).toNat + r.code.toNat * 2 ^ 8 + r.returned.toNat * 2 ^ 18
  asid : Memory.readN m (e + 4) 2 = s.job.asid.toNat
  pc : Memory.readN m (e + 8) 8 = r.pc.toNat
  words : Memory.readN m (e + 16) 8 = r.w0.toNat ∧ Memory.readN m (e + 24) 8 = r.w1.toNat
  lanes : Memory.readN m (e + 32) 4 = r.lanes.toNat ∧ Memory.readN m (e + 36) 4 = r.split.toNat
  addr : Memory.readN m (e + 40) 8 = r.addr.toNat
  plot : Memory.readN m (e + 48) 4 = s.plot.lplot % 2 ^ 32
  context : Memory.readN m (e + 56) 8 = s.fur.ctxVa.toNat
  time : Memory.readN m (e + 64) 8 = (r.time.getD s.timeNs) % 2 ^ 64
  seq : Memory.readN m (e + 88) 8 = (s.trapSeq + 1) % 2 ^ 64

/-- A record has been written and the furrow has left with it (R325): no byte changes but those of the record, of PROD and of
the furrow's context. -/
structure Trapped (s : State) (r : TrapRec) (t : State) : Prop where
  record : RecordAt t.mem ((qHead s.mem s.plot.trapq.toNat).slot 256) s r
  prod : Memory.readN t.mem (s.plot.trapq.toNat + 16) 8 = ((qHead s.mem s.plot.trapq.toNat).prod + 1) % 2 ^ 64
  bytes : ∀ a, (a < (qHead s.mem s.plot.trapq.toNat).slot 256 ∨ (qHead s.mem s.plot.trapq.toNat).slot 256 + 256 ≤ a) →
    (a < s.plot.trapq.toNat + 16 ∨ s.plot.trapq.toNat + 24 ≤ a) → (s.fur.ctxPa = 0 ∨ a < s.fur.ctxPa ∨ s.fur.ctxPa + 24576 ≤ a) →
    Memory.byte t.mem a = Memory.byte s.mem a
  furrow : t.fur = { s.fur with status := .trapped (s.trapSeq + 1) r.cause s.timeNs ((qHead s.mem s.plot.trapq.toNat).slot 256), active := false }
  others : t = { s with fur := t.fur, mem := t.mem, trapSeq := s.trapSeq + 1 }

/-! ### Engines -/

/-- `n` bytes of a job's space lie at `pa`, and stay there however those bytes change: its page tables lie elsewhere. -/
def State.bytesAt (s : State) (j : Job) (acc : Access) (va n pa : Nat) : Prop :=
  ∀ u : State, u.poisoned = s.poisoned → (∀ a, (a < pa ∨ pa + n ≤ a) → Memory.byte u.mem a = Memory.byte s.mem a) →
    ∀ k < n, u.jobPa j acc (va + k) = some (pa + k)

/-! ### Rows narrowed into tiles (R73, R77, R79, R246) -/

/-- A drained value: row `r` and column `c` of the tile that is `ti`-th of its run and has `n` columns. -/
def drainedAt (ys : List (List Num)) (ti n r c : Nat) : Num := (ys.getD r []).getD (ti * n + c) plus0

/-- The scale byte of the block of 32 by 32 that holds an element; 127 where the tile has no scales. -/
def drainedScale (ys : List (List Num)) (ti : Nat) (u : Tile) (r c : Nat) : Nat :=
  if tileScaled u then
    blockScale ((List.range 32).flatMap fun i => (List.range 32).filterMap fun k =>
      if 32 * (r / 32) + i < ys.length ∧ 32 * (c / 32) + k < tileCols u then
        some (drainedAt ys ti (tileCols u) (32 * (r / 32) + i) (32 * (c / 32) + k)) else none) (capOf (tileFmt u) 0)
  else 127

/-- The bits of an element of the tile, and its flags. -/
def State.narrowed (s : State) (rnd : BitVec 3) (off : Nat) (ys : List (List Num)) (ti : Nat) (u : Tile) (r c : Nat) : Nat × Flags :=
  let e := drainedScale ys ti u r c
  if e = 255 then (0, 0)
  else
    encodeNum (tileFmt u) ((drainedAt ys ti (tileCols u) r c).scale (127 - e)) rnd
      (if rnd = 5 then srBits s.launch.seed.toNat off 0 s.plot.lplot 0 0 (r * 1024 + ti * tileCols u + c) else 0) (some (capOf (tileFmt u) 0))

/-- From `s` to `t` the rows `ys` have been narrowed into the tiles of a run; no other tile changes, and the flags of the roundings
join `fl`. -/
structure Narrowed (s : State) (rnd : BitVec 3) (off : Nat) (ys : List (List Num)) (run : List Nat) (fl : Nat → Bool) (t : State) : Prop where
  others : ∀ k, k ∉ run → t.tile k = s.tile k
  tiles : ∀ ti k u, run[ti]? = some k → s.tile k = some u → ∃ v, t.tile k = some v ∧ v = { u with bytes := v.bytes, scales := v.scales }
    ∧ (∀ r, ys.length ≤ r → v.row r = u.row r)
    ∧ ∀ r < ys.length, ∀ c < tileCols u,
        elemBits (tileFmt u) (v.row r) c = (s.narrowed rnd off ys ti u r c).1 % 2 ^ (elemAt (tileFmt u) c).2
        ∧ (tileScaled u = true → v.scale (r / 32) (c / 32) = drainedScale ys ti u r c % 256)
  flags : ∀ b < 6, t.plot.flags.getLsbD b = (fl b || (mapIdxFrom (fun ti k => (ti, k)) 0 run).any fun p =>
    match s.tile p.2 with
    | some u => (List.range ys.length).any fun r => (List.range (tileCols u)).any fun c => (s.narrowed rnd off ys p.1 u r c).2.getLsbD b
    | none => false)

/-! ### Commands (R313 to R317) -/

/-- The commands: the instruction that an input calls for, its TYPE and who may send it (R316), and whether the boot epoch binds
it (R315). -/
def commandOf : Input → Option (Instr × CmdKind × CmdHdr)
  | .slotset c => some (.slotset, { type := 0x01, mgmt := true }, c)
  | .jobnew c => some (.jobnew, { type := 0x10 }, c)
  | .jobdel c => some (.jobdel, { type := 0x11 }, c)
  | .load c => some (.load, { type := 0x12 }, c)
  | .launch c => some (.launch, { type := 0x13 }, c)
  | .cancelCommand c => some (.cancelCommand, { type := 0x14 }, c)
  | .preempt c => some (.preempt, { type := 0x15, both := true }, c)
  | .winopen c => some (.winopen, { type := 0x16 }, c)
  | .winclose c => some (.winclose, { type := 0x17 }, c)
  | .trapreply c => some (.trapreply, { type := 0x18 }, c)
  | .query c => some (.query, { type := 0x19, both := true, epoch := false }, c)
  | .quote c => some (.quote, { type := 0x1A }, c)
  | .season c => some (.season, { type := 0x1B }, c)
  | .updsvc c _ => some (.updsvc, { type := 0x30, mgmt := true }, c)
  | .updkern c _ => some (.updkern, { type := 0x31, mgmt := true }, c)
  | .retire c => some (.retire, { type := 0x32, mgmt := true }, c)
  | .thresh c => some (.thresh, { type := 0x33, mgmt := true }, c)
  | .clockcfg c => some (.clockcfg, { type := 0x34, mgmt := true }, c)
  | .zdrain c => some (.zdrain, { type := 0x35, mgmt := true }, c)
  | .zfill c => some (.zfill, { type := 0x36, mgmt := true }, c)
  | .recal c _ => some (.recal, { type := 0x37, mgmt := true }, c)
  | .provision c => some (.provision, { type := 0x38, mgmt := true, epoch := false }, c)
  | .fusedMinimumRaise c => some (.fusedMinimumRaise, { type := Config.fusedType, mgmt := true }, c)
  | _ => none

/-- A command of its TYPE's form is handed over, whose turn it is in its slot and which did not wait before (R313, R314), its TAG and
SEQ are right, and its slot may send it (R314, R315, R316). -/
def State.Admits (s : State) (c : CmdHdr) : Prop :=
  s.fleet.booted = true ∧ s.mustWait c = false ∧ s.fleet.held.any (·.2.2 == c) = false ∧
  ∃ i k, commandOf s.input = some (i, k, c) ∧ c.formOk k.type = true ∧
  if c.slot = 0xFFFFFFFF then
    (k.mgmt = true ∨ k.both = true) ∧ s.fleet.store.key.any c.signed = true ∧ s.fleet.mgmtSeq < c.seq.toNat
      ∧ (k.epoch = true → c.seq.extractLsb' 32 32 = s.fleet.store.epoch)
  else k.mgmt = false ∧ ∃ x, s.slotOf c.slot.toNat = some x ∧ c.signed x.key = true ∧ x.seq < c.seq.toNat

/-- SEQ of an accepted command is its slot's last one (R314). -/
def State.seqTaken (s : State) (c : CmdHdr) : State :=
  if c.slot = 0xFFFFFFFF then { s with fleet := { s.fleet with mgmtSeq := c.seq.toNat } }
  else { s with fleet := { s.fleet with
    slots := s.fleet.slots.map fun (y : TSlot) => if y.num = c.slot.toNat then { y with seq := c.seq.toNat } else y } }

/-- A response goes out under the module's own SEQ, signed under the slot's key, and nothing else changes (R313, R314). -/
def State.answered (s : State) (c : CmdHdr) (type : BitVec 8) (rstat : Nat) (body : List Word) : State :=
  let m : CmdHdr :=
    { type := type, resp := true, rstat := BitVec.ofNat 8 rstat, slot := c.slot, length := BitVec.ofNat 32 (8 * body.length)
      seq := BitVec.ofNat 64 s.fleet.outSeq, asid := c.asid, tag := 0, body := body }
  { s with fleet := { s.fleet with
      out := s.fleet.out ++ [{ m with tag := m.tagOf (s.slotKey c.slot.toNat) }]
      outSeq := s.fleet.outSeq + 1 } }

/-- A command is done: what it made of the module, its SEQ, and RSTAT 0. -/
def accepted (u : State) (c : CmdHdr) (type : BitVec 8) (body : List Word) : State := (u.seqTaken c).answered c type 0 body

/-! ### Issue and fetch (R21, R112, R113) -/

/-- The next step lets a furrow issue that nothing is on its way to: `u` is the state in which its chosen split issues. -/
def State.Issues (s u : State) : Prop :=
  ∃ k rest, s.agenda = .furrow s.fur.id :: rest ∧ s.fur.canIssue = true ∧ s.fur.nextSplit = some k ∧ (∀ r ∈ s.rets, r.fur ≠ s.fur.id) ∧
    u = { s with agenda := rest, fur := { s.fur with cur := k } }

/-- What is counted when a furrow's turn that began in `s` comes to `t` (R26): the wait counts of the furrows of its quadrant. -/
def State.counted (s t : State) : State := ({ s with agenda := s.agenda.drop 1 } : State).noteIssue t s.fur.id

/-- A word of code at an address: inside the code range, translated, and in memory. -/
def State.wordAt (s : State) (va : Word) (w : Word) : Prop :=
  s.outside va = false ∧ ∃ a, s.pa .fetch va.toNat = some a ∧ Memory.word s.mem a = w

/-- The bytes at the issuing split's program counter are those of a code. -/
def State.holdsCode (s : State) (c : Code) : Prop :=
  let at_ := s.split.pc &&& ~~~7#64
  match c with
  | .half h v => s.split.pc.getLsbD 2 = h ∧ ∃ w, s.wordAt at_ w ∧ w.extractLsb' 62 2 = 0 ∧ (if h then w.extractLsb' 32 32 else w.extractLsb' 0 32) = v
  | .one w => s.wordAt at_ w ∧ w.extractLsb' 62 2 = 1
  | .two w0 w1 => s.wordAt at_ w0 ∧ w0.extractLsb' 62 2 = 2 ∧ s.wordAt (at_ + 8) w1 ∧ w1.extractLsb' 62 2 = 3

end Sys2Proof.Machine
end

