-- ==== Sys2Proof/Certificates/Slice0/Obligations.lean ====
section
/-! DEFINITION. The statements about this model. Each says that an instruction completes, what every register it may
change holds then, and that nothing else of the module changes, or states a rule of the spec about the whole machine. -/

open Sys2Proof
open Sys2Proof.Machine

/-! ### Integer instructions -/

/-- R151, R152, R154, R159: sources read by type, the exact result cut to the operation's width, in every active lane. -/
def Obligations.IntegerArithmetic : Prop :=
  (
    ∀ p ∈ ([(.addInt, fun _ _ a b => a + b), (.subInt, fun _ _ a b => a - b), (.mulInt, fun _ _ a b => a * b),
        (.mulh, fun w _ a b => a * b / 2 ^ w), (.minInt, fun _ _ a b => if a ≤ b then a else b),
        (.maxInt, fun _ _ a b => if a ≤ b then b else a),
        (.adds, fun w sg a b => if sg then max (-2 ^ (w - 1)) (min (a + b) (2 ^ (w - 1) - 1)) else max 0 (min (a + b) (2 ^ w - 1))),
        (.subs, fun w sg a b => if sg then max (-2 ^ (w - 1)) (min (a - b) (2 ^ (w - 1) - 1)) else max 0 (min (a - b) (2 ^ w - 1))),
        (.muls, fun w sg a b => if sg then max (-2 ^ (w - 1)) (min (a * b) (2 ^ (w - 1) - 1)) else max 0 (min (a * b) (2 ^ w - 1))),
        (.lea, fun _ _ a b => a + 8 * b), (.mulhi, fun w _ a b => a * b / 2 ^ w)] :
        List ((Args → Instr) × (Nat → Bool → Int → Int → Int))),
      ∀ (f : Args) (s : State), fmtIsClass f.fmt = false → Readable s f.operands →
        Completes (p.1 f) s (Writes s f.a (s.active f.guard) fun i =>
          let b := s.src f.sx f.w f.b i
          let c := s.src f.sx f.w f.c i
          wide64 f.sx f.w ⟨wrap f.w (p.2 f.w f.sg (typed f.sg f.w b.v) (typed f.sg f.w c.v)), b.p || c.p⟩))
  ∧ (
    ∀ p ∈ ([(.absInt, fun w sg a => if sg = true ∧ 2 ^ (w - 1) ≤ a then (2 ^ w : Int) - a else a),
        (.negInt, fun w _ a => (2 ^ w : Int) - a), (.mov, fun _ _ a => (a : Int))] : List ((Args → Instr) × (Nat → Bool → Nat → Int))),
      ∀ (f : Args) (s : State), fmtIsClass f.fmt = false → Readable s f.operands →
        Completes (p.1 f) s (Writes s f.a (s.active f.guard) fun i =>
          let b := s.src f.sx f.w f.b i
          wide64 f.sx f.w ⟨wrap f.w (p.2 f.w f.sg b.v), b.p⟩))

/-- R153: bitwise logic on the patterns of the sources; shifts and rotates by a count that is read unsigned at its own width; counts
of bits. -/
def Obligations.IntegerBits : Prop :=
  (
    ∀ p ∈ ([(.and, fun a b => a && b), (.or, fun a b => a || b), (.xor, fun a b => a != b), (.andn, fun a b => a && !b)] :
        List ((Args → Instr) × (Bool → Bool → Bool))),
      ∀ (f : Args) (s : State), fmtIsClass f.fmt = false → Readable s f.operands →
        Completes (p.1 f) s (Writes s f.a (s.active f.guard) fun i =>
          let b := s.src f.sx f.w f.b i
          let c := s.src f.sx f.w f.c i
          wide64 f.sx f.w ⟨bitsNat f.w fun j => p.2 (b.v.testBit j) (c.v.testBit j), b.p || c.p⟩))
  ∧ (
    ∀ p ∈ ([(.shl, fun w a c j => decide (c ≤ j) && decide (j < w) && a.testBit (j - c)), (.shr, fun w a c j => decide (j + c < w) && a.testBit (j + c)),
        (.sar, fun w a c j => a.testBit (min (j + c) (w - 1))), (.rotl, fun w a c j => a.testBit ((j + w - c % w) % w)),
        (.rotr, fun w a c j => a.testBit ((j + c) % w))] : List ((Args → Instr) × (Nat → Nat → Nat → Nat → Bool))),
      ∀ (f : Args) (s : State), fmtIsClass f.fmt = false → Readable s f.operands →
        Completes (p.1 f) s (Writes s f.a (s.active f.guard) fun i =>
          let b := s.src f.sx f.w f.b i
          let c := s.own f.w f.c i
          wide64 f.sx f.w ⟨bitsNat f.w (p.2 f.w b.v c.v), b.p || c.p⟩))
  ∧ (
    ∀ p ∈ ([(.not, fun w a => 2 ^ w - 1 - a), (.popc, fun w a => countBits w a.testBit), (.clz, fun w a => firstBit w fun k => a.testBit (w - 1 - k)),
        (.ctz, fun w a => firstBit w a.testBit)] : List ((Args → Instr) × (Nat → Nat → Nat))),
      ∀ (f : Args) (s : State), fmtIsClass f.fmt = false → Readable s f.operands →
        Completes (p.1 f) s (Writes s f.a (s.active f.guard) fun i =>
          let b := s.src f.sx f.w f.b i
          wide64 f.sx f.w ⟨p.2 f.w b.v, b.p⟩))

/-- R129, R154, R155, R157, R159: fields of a value, at a position and a length read unsigned at their own widths; multiply and add, select
by a mask (which carries no poison), the scaled index, 64 bits wide; and the two microcoded instructions, each of which counts
one microcoded use in its job's LEGMC.
THE MODEL'S CHOICE: how a field or an index extends, and that SEL takes the poison of both sources, is the model's reading
(log entries 45 and 53). -/
def Obligations.IntegerFieldsAndSums : Prop :=
  (
    ∀ (f : Args) (s : State), fmtIsClass f.fmt = false → Readable s f.operands →
      let w := f.w
      let wd := f.a.destWidth w
      let wb := match f.b with | .imm _ => w | o => o.ownWidth w
      let act := s.active f.guard
      let a := s.dest w f.a
      let b := s.src f.sx w f.b
      let pos := s.own w f.c
      let len := s.own w f.d
      Completes (.ext f) s (Writes s f.a act fun i =>
          wide64 f.sx wd ⟨bitsNat wd fun j => extBit f.sg w (b i).v ((pos i).v + j), (b i).p || (pos i).p⟩)
      ∧ Completes (.ins f) s (Writes s f.a act fun i =>
          let b := s.src f.sx wb f.b i
          wide64 f.sx wd ⟨bitsNat wd fun j => if (pos i).v ≤ j ∧ j < (pos i).v + wb then b.v.testBit (j - (pos i).v) else (a i).v.testBit j,
            (a i).p || b.p || (pos i).p⟩)
      ∧ Completes (.bfx f) s (Writes s f.a act fun i =>
          wide64 f.sx w ⟨if (len i).v = 0 ∨ 64 < (len i).v then 0 else
              bitsNat w fun j => extBit f.sg (len i).v (bitsNat (len i).v fun k => extBit f.sg w (b i).v ((pos i).v + k)) j,
            (b i).p || (pos i).p || (len i).p⟩)
      ∧ Completes (.bfi f) s (Writes s f.a act fun i =>
          wide64 f.sx wd ⟨if (len i).v = 0 ∨ 64 < (len i).v then (a i).v else
              bitsNat wd fun j => if (pos i).v ≤ j ∧ j < (pos i).v + (len i).v then extBit f.sg w (b i).v (j - (pos i).v) else (a i).v.testBit j,
            (a i).p || (b i).p || (pos i).p || (len i).p⟩))
  ∧ (
    ∀ (f : Args) (s : State), fmtIsClass f.fmt = false → Readable s f.operands →
      let w := f.w
      let b := s.src f.sx w f.b
      let c := s.src f.sx w f.c
      let d := s.src f.sx w f.d
      let act := s.active f.guard
      Completes (.mad f) s (Writes s f.a act fun i =>
          wide64 f.sx w ⟨wrap w (typed f.sg w (b i).v * typed f.sg w (c i).v + typed f.sg w (d i).v), (b i).p || (c i).p || (d i).p⟩)
      ∧ (∀ k, f.d = .mask k → Completes (.sel f) s (Writes s f.a act fun i =>
          wide64 f.sx w ⟨if (s.mask k.toNat).getLsbD i then (b i).v else (c i).v, (b i).p || (c i).p⟩))
      ∧ (∀ k : BitVec 3, Completes (.ixa k f) s (Writes s f.a act fun i =>
          let base := s.src f.sx 64 f.b i
          ⟨(base.v + extend f.sx w 64 (c i).v * 2 ^ k.toNat) % 2 ^ 64, base.p || (c i).p⟩)))
  ∧ (
    ∀ (f : Args) (s : State), fmtIsClass f.fmt = false → Readable s f.operands → s.job.legmc < 2 ^ 63 - 1 →
      let w := f.w
      let b := s.src f.sx w f.b
      let c := s.src f.sx w f.c
      let act := s.active f.guard
      let s1 := s.setJob { s.job with legmc := s.job.legmc + 1 }
      Completes (.brev f) s (Writes s1 f.a act fun i =>
          wide64 f.sx w ⟨bitsNat w fun j => (b i).v.testBit (w - 1 - j), (b i).p⟩)
      ∧ Completes (.divInt f) s (Writes s1 f.a act fun i =>
          let x := typed f.sg w (b i).v
          let y := typed f.sg w (c i).v
          wide64 f.sx w ⟨if y = 0 then 2 ^ w - 1 else wrap w (Int.tdiv x y), (b i).p || (c i).p⟩))

/-- R156, R49, R38: compares write the bits of the active lanes of a mask, and no latch result, where no operand is poisoned; a
poisoned operand in an active lane rolls the plot back. `m0` as the destination is refused at decode (R55). -/
def Obligations.IntegerCompares : Prop :=
  (
    ∀ p ∈ ([(.cmpEqInt, fun a b => decide (a = b)), (.cmpNeInt, fun a b => !decide (a = b)), (.cmpLtInt, fun a b => decide (a < b)),
        (.cmpLeInt, fun a b => decide (a ≤ b)), (.cmpGtInt, fun a b => decide (a > b)), (.cmpGeInt, fun a b => decide (a ≥ b))] :
        List ((Args → Instr) × (Int → Int → Bool))),
      ∀ (f : Args) (s : State) (k : BitVec 4), fmtIsClass f.fmt = false → Readable s f.operands → f.a = .mask k → k ≠ 0 →
        (∀ i < 32, (s.active f.guard).getLsbD i = true → (s.src f.sx f.w f.b i).p = false ∧ (s.src f.sx f.w f.c i).p = false) →
        Completes (p.1 f) s (WritesMask s k.toNat (s.active f.guard) (maskOf fun i =>
          p.2 (typed f.sg f.w (s.src f.sx f.w f.b i).v) (typed f.sg f.w (s.src f.sx f.w f.c i).v))))
  ∧ (
    ∀ mk ∈ ([.cmpEqInt, .cmpNeInt, .cmpLtInt, .cmpLeInt, .cmpGtInt, .cmpGeInt] : List (Args → Instr)),
      ∀ (f : Args) (s : State) (i : Nat), fmtIsClass f.fmt = false → Readable s f.operands → i < 32 →
        (s.active f.guard).getLsbD i = true → ((s.src f.sx f.w f.b i).p = true ∨ (s.src f.sx f.w f.c i).p = true) →
        exec (mk f) s = .next s.rollback)
  ∧ ∀ (op : Nat) (h : Args), 0xD0 ≤ op → op ≤ 0xD5 → h.a.rawBits = 0x3800 → decodeFields op h = .error (.field op)

/-- R158, R50: the scalar side at 64 bits: one x-register is written where some lane is active, and nothing where none is.
Another type than the two of 64 bits, or another form of an operand, is refused at decode: A and B are x-registers (B of XMOV
may be an immediate), and C is an immediate or the same x-register as B. -/
def Obligations.ScalarSide : Prop :=
  (∀ p ∈ ([(.xadd, fun _ a b => a + b), (.xsub, fun _ a b => a - b), (.xmul, fun _ a b => a * b), (.xand, fun _ a b => a &&& b),
      (.xior, fun _ a b => a ||| b), (.xshl, fun _ a b => a <<< b.toNat),
      (.xshr, fun sg a b => if sg then a.sshiftRight b.toNat else a >>> b.toNat)] :
      List ((Args → Instr) × (Bool → Word → Word → Word))),
    ∀ (f : Args) (s : State) (n : BitVec 6) (sz : BitVec 2) (el : BitVec 3), fmtIsClass f.fmt = false → Readable s f.operands →
      f.a = .xreg n sz el →
      let a := s.src f.sx 64 f.b 0
      let b := s.src f.sx 64 f.c 0
      if s.active f.guard = 0 then Completes (p.1 f) s (GoesOn s) ∧ Completes (.xmov f) s (GoesOn s)
      else Completes (p.1 f) s (WritesX s n.toNat ⟨(p.2 f.sg (BitVec.ofNat 64 a.v) (BitVec.ofNat 64 b.v)).toNat, a.p || b.p⟩)
        ∧ (f.c = .none → Completes (.xmov f) s (WritesX s n.toNat a)))
  ∧ ∀ (op : Nat) (h : Args), 0xE8 ≤ op → op ≤ 0xEF →
      let a := h.a.rawBits
      let b := h.b.rawBits
      let c := h.c.rawBits
      let isX := fun v : BitVec 14 => v.extractLsb' 11 3 = 5
      let isImm := fun v : BitVec 14 => v.extractLsb' 11 3 = 6
      ((h.fmt ≠ 28 ∧ h.fmt ≠ 29) ∨ ¬ isX a ∨ ¬ (isX b ∨ (op = 0xEF ∧ isImm b)) ∨ (op ≠ 0xEF ∧ ¬ (isImm c ∨ isX c))
          ∨ (op ≠ 0xEF ∧ isX c ∧ c.extractLsb' 5 6 ≠ b.extractLsb' 5 6)) →
        decodeFields op h = .error (.field op)

/-! ### Masks and lanes -/

/-- R160: mask algebra writes all 32 bits of its destination, whatever the lanes and the guard; a mask into an x-register, clean;
the number of its bits, and its lowest bit, into the active lanes, as results. A poisoned source of MSET rolls the plot back (R38).
Another guard than m0, or a type that the entry does not have, is refused at decode. -/
def Obligations.Masks : Prop :=
  (
    ∀ (f : Args) (s : State) (k : BitVec 4), f.a = .mask k → k ≠ 0 →
      let b := s.mask (maskNo f.b)
      let c := s.mask (maskNo f.c)
      let all : Mask := 0xFFFFFFFF
      Completes (.mand f) s (WritesMask s k.toNat all (b &&& c)) ∧ Completes (.mor f) s (WritesMask s k.toNat all (b ||| c))
      ∧ Completes (.mxor f) s (WritesMask s k.toNat all (b ^^^ c)) ∧ Completes (.mandn f) s (WritesMask s k.toNat all (b &&& ~~~c))
      ∧ Completes (.mnot f) s (WritesMask s k.toNat all (~~~b)) ∧ Completes (.mmov f) s (WritesMask s k.toNat all b)
      ∧ (∀ v, f.b = .imm v → Completes (.mset f) s (WritesMask s k.toNat all (v.signExtend 32)))
      ∧ (∀ n sz el, f.b = .xreg n sz el → s.xp n.toNat = false →
          Completes (.mset f) s (WritesMask s k.toNat all
            (((s.x n.toNat >>> ((64 >>> sz.toNat) * el.toNat)).setWidth (64 >>> sz.toNat)).setWidth 32))))
  ∧ (
    ∀ (f : Args) (s : State),
      let m := s.mask (maskNo f.b)
      (∀ n sz el, f.a = .xreg n sz el → Completes (.mget f) s (WritesX s n.toNat ⟨m.toNat, false⟩))
      ∧ (Readable s f.operands →
          Completes (.mpopc f) s (Writes s f.a (s.active f.guard) fun _ => ⟨countBits 32 m.getLsbD, false⟩)
          ∧ Completes (.mffs f) s (Writes s f.a (s.active f.guard) fun _ => ⟨firstBit 32 m.getLsbD, false⟩)))
  ∧ (∀ (f : Args) (s : State) (n : BitVec 6) (sz : BitVec 2) (el : BitVec 3), f.b = .xreg n sz el → s.xp n.toNat = true →
      exec (.mset f) s = .next s.rollback)
  ∧ ∀ (op : Nat) (h : Args), 0x100 ≤ op →
      (op ≤ 0x107 → (h.guard ≠ 0 ∨ h.fmt ≠ 0) → decodeFields op h = .error (.field op))
      ∧ (0x108 ≤ op → op ≤ 0x109 → h.fmt.toNat < 22 → decodeFields op h = .error (.field op))

/-- R161 to R164, R166: shuffles by lane; the `k`-th active lane takes the value of the `k`-th lane that is active and in the mask, or
zero; shuffle by lane and sub-element, where element j is the furrow's element number C's element j, modulo 32 n; and permutes
within a lane, by control bytes, nibbles, and a table of 16 nibbles in an x-register. -/
def Obligations.LaneMoves : Prop :=
  (
    ∀ (f : Args) (s : State), Readable s f.operands →
      let w := fmtBits f.fmt
      let sg := fmtSigned f.fmt
      let b := s.src sg w f.b
      let act := s.active f.guard
      let c := s.own w f.c
      Completes (.shflIdx f) s (Writes s f.a act fun i =>
          let x := fromLane s b ((c i).v % 32)
          wide64 sg w ⟨x.v, x.p || (c i).p⟩)
      ∧ ∀ k : BitVec 11, f.c = .imm k → k.toNat < 32 →
          Completes (.shflUp f) s (Writes s f.a act fun i => wide64 sg w (fromLane s b (if i < k.toNat then i else i - k.toNat)))
          ∧ Completes (.shflDown f) s (Writes s f.a act fun i => wide64 sg w (fromLane s b (if 31 < i + k.toNat then i else i + k.toNat)))
          ∧ Completes (.shflXor f) s (Writes s f.a act fun i => wide64 sg w (fromLane s b (i ^^^ k.toNat))))
  ∧ (
    ∀ (f : Args) (s : State) (m : BitVec 4), Readable s f.operands → f.c = .mask m →
      let w := fmtBits f.fmt
      let sg := fmtSigned f.fmt
      let act := s.active f.guard
      let picked := (List.range 32).filter fun i => act.getLsbD i && (s.mask m.toNat).getLsbD i
      Completes (.compact f) s (Writes s f.a act fun i =>
        wide64 sg w (match picked[countBits i act.getLsbD]? with | some p => s.src sg w f.b p | none => ⟨0, false⟩)))
  ∧ (
    ∀ (f : Args) (s : State), Readable s f.operands →
      let w := vecWidth f
      let e := fmtBits f.fmt
      let n := w / e
      let c := s.src false w f.c
      let q := fun i j => subElem (c i).v e j % (32 * n)
      let from_ := fun k => fromLane s (s.src false w f.b) (k / n)
      Completes (.shfe f) s (Writes s f.a (s.active f.guard) fun i =>
        wide64 false w ⟨packElems e ((List.range n).map fun j => subElem (from_ (q i j)).v e (q i j % n)),
          (c i).p || (List.range n).any fun j => (from_ (q i j)).p⟩))
  ∧ (
    ∀ (f : Args) (s : State), Readable s f.operands →
      let act := s.active f.guard
      let b := s.src false 64 f.b
      let c := s.src false 64 f.c
      let byte := fun (x k : Nat) => x / 256 ^ k % 256
      let nib := fun (x k : Nat) => x / 16 ^ k % 16
      Completes (.permB f) s (Writes s f.a act fun i =>
          ⟨packElems 8 ((List.range 8).map fun j =>
            let k := byte (c i).v j
            let x := byte (b i).v (k % 8)
            if k.testBit 4 then 0 else if k.testBit 5 then 0xFF else if k.testBit 3 then (if 128 ≤ x then 0xFF else 0) else x),
           (b i).p || (c i).p⟩)
      ∧ Completes (.permN f) s (Writes s f.a act fun i =>
          ⟨packElems 4 ((List.range 16).map fun j => nib (b i).v (nib (c i).v j)), (b i).p || (c i).p⟩)
      ∧ (∀ n : BitVec 6, f.c = .xreg n 0 0 → Completes (.lut f) s (Writes s f.a act fun i =>
          let w := (firstWidth [f.a, f.b]).getD 64
          let b := s.src false w f.b i
          wide64 false w ⟨packElems 4 ((List.range (w / 4)).map fun j => nib (s.x n.toNat).toNat (nib b.v j)), b.p || s.xp n.toNat⟩)))

/-! ### The P frame -/

/-- R119, R120: each P half has the effect of the S instruction it stands for, on its own operands: integer, float, and with an
immediate, whose shift counts lie below 32; the packed halves, at 64 bits.
THE MODEL'S CHOICE: that a packed half of another width is ILLEGAL at its issue is the model's reading (log entry 52). -/
def Obligations.PHalves : Prop :=
  (
    (∀ p ∈ ([(.pAddI16, 24, fun a b => a + b), (.pAddI32, 26, fun a b => a + b), (.pAddI64, 28, fun a b => a + b),
        (.pSubI32, 26, fun a b => a - b), (.pSubI64, 28, fun a b => a - b), (.pMulI32, 26, fun a b => a * b)] :
        List ((PArgs → Instr) × BitVec 5 × (Int → Int → Int))),
      ∀ (h : PArgs) (s : State), let f := h.asArgs p.2.1
        Readable s f.operands → Completes (p.1 h) s (Writes s f.a (s.active f.guard) fun i =>
          let d := s.src true f.w f.b i
          let v := s.src true f.w f.c i
          wide64 true f.w ⟨wrap f.w (p.2.2 (toSigned f.w d.v) (toSigned f.w v.v)), d.p || v.p⟩))
    ∧ (∀ p ∈ ([(.pAndN64, fun a b => a && b), (.pOrN64, fun a b => a || b), (.pXorN64, fun a b => a != b)] :
        List ((PArgs → Instr) × (Bool → Bool → Bool))),
      ∀ (h : PArgs) (s : State), let f := h.asArgs 29
        Readable s f.operands → Completes (p.1 h) s (Writes s f.a (s.active f.guard) fun i =>
          let d := s.src false 64 f.b i
          let v := s.src false 64 f.c i
          ⟨bitsNat 64 fun j => p.2 (d.v.testBit j) (v.v.testBit j), d.p || v.p⟩))
    ∧ (∀ p ∈ ([(.pMovN8, 23), (.pMovN16, 25), (.pMovN32, 27), (.pMovN64, 29)] : List ((PArgs → Instr) × BitVec 5)),
      ∀ (h : PArgs) (s : State), let f := h.asMove p.2
        Readable s f.operands → Completes (p.1 h) s (Writes s f.a (s.active f.guard) (s.src false f.w f.b)))
    ∧ (∀ (h : Bool) (g : BitVec 3) (s : State), Completes (.pNop h g) s (GoesOn s)))
  ∧ (
    ∀ (h : PImm) (s : State),
      (let f := h.asArgs 26
       Readable s f.operands → Completes (.pAddI32Imm h) s (Writes s f.a (s.active f.guard) fun i =>
          let d := s.src true 32 f.b i
          wide64 true 32 ⟨wrap 32 (toSigned 32 d.v + h.imm.toInt), d.p⟩))
      ∧ (let f := h.asArgs 27
         Readable s f.operands → h.imm.toNat < 32 →
          Completes (.pShlN32Imm h) s (Writes s f.a (s.active f.guard) fun i =>
            let d := s.src false 32 f.b i
            ⟨d.v * 2 ^ h.imm.toNat % 2 ^ 32, d.p⟩)
          ∧ Completes (.pShrN32Imm h) s (Writes s f.a (s.active f.guard) fun i =>
            let d := s.src false 32 f.b i
            ⟨d.v / 2 ^ h.imm.toNat, d.p⟩))
      ∧ (let f := h.asArgs 26
         Readable s f.operands → h.imm.toNat < 32 → Completes (.pSarI32Imm h) s (Writes s f.a (s.active f.guard) fun i =>
            let d := s.src true 32 f.b i
            wide64 true 32 ⟨wrap 32 (toSigned 32 d.v / 2 ^ h.imm.toNat), d.p⟩))
      ∧ (let f := h.asMove 26
         Readable s f.operands → Completes (.pMovI32Imm h) s (Writes s f.a (s.active f.guard) fun _ =>
            wide64 true 32 ⟨wrap 32 h.imm.toInt, false⟩)))
  ∧ (
    ∀ p ∈ ([(.pAddF32, 20, fAdd), (.pSubF32, 20, fun a b => fAdd a b.neg), (.pMulF32, 20, fMul), (.pMaxF32, 20, fMinMax false true),
        (.pMinF32, 20, fMinMax true true), (.pAddF64, 21, fAdd), (.pMulF64, 21, fMul)] : List ((PArgs → Instr) × BitVec 5 × (Machine.Num → Machine.Num → Machine.Num × Flags))),
      ∀ (h : PArgs) (s : State), let f := h.asArgs p.2.1
        FloatReady s f accFlt p.2.1 →
        Completes (p.1 h) s (FloatWrites s f p.2.1 [f.b, f.c] fun _ l => match l with | [a, b] => p.2.2 a b | _ => (canonNaN, 0)))
  ∧ (
    ∀ p ∈ ([(.pAddBf16, 19, fAdd), (.pMulBf16, 19, fMul), (.pAddF16, 18, fAdd), (.pMulF16, 18, fMul)] :
        List ((PArgs → Instr) × BitVec 5 × (Machine.Num → Machine.Num → Machine.Num × Flags))),
      ∀ (h : PArgs) (s : State), let f := h.asArgs p.2.1
        (h.dst.w = 3 → h.src.w = 3 → FloatReady s f accFlt p.2.1 →
          Completes (p.1 h) s (FloatWrites s f p.2.1 [f.b, f.c] fun _ l => match l with | [a, b] => p.2.2 a b | _ => (canonNaN, 0)))
        ∧ ((h.dst.w ≠ 3 ∨ h.src.w ≠ 3) → exec (p.1 h) s = s.takeFault { cause := .illegal }))

/-! ### Floating point -/

/-- R171, R172, R176, R177: float arithmetic on two sources and one, and the four fused multiply-adds (±(a × b) ± c), each exactly
and then rounded once.
THE MODEL'S CHOICE: the exact operations and the rounding of the special functions (log entry 11), overflow under RTO (log
entry 12) and signs of exact zeros (log entry 55) are the model's functions. -/
def Obligations.FloatArithmetic : Prop :=
  (
    ∀ p ∈ ([(.addFloat, fAdd), (.subFloat, fun a b => fAdd a b.neg), (.mulFloat, fMul), (.divFloat, fDiv),
        (.minFloat, fMinMax true true), (.maxFloat, fMinMax false true), (.minp, fMinMax true false), (.maxp, fMinMax false false)] :
        List ((Args → Instr) × (Machine.Num → Machine.Num → Machine.Num × Flags))),
      ∀ (f : Args) (s : State) (nat : BitVec 5), FloatReady s f accFlt nat →
        Completes (p.1 f) s (FloatWrites s f nat [f.b, f.c] fun _ l => match l with | [a, b] => p.2 a b | _ => (canonNaN, 0)))
  ∧ (
    ∀ p ∈ ([(.fma, false, false), (.fms, false, true), (.fnma, true, false), (.fnms, true, true)] : List ((Args → Instr) × Bool × Bool)),
      ∀ (f : Args) (s : State) (nat : BitVec 5), FloatReady s f accFlt nat →
        Completes (p.1 f) s (FloatWrites s f nat [f.b, f.c, f.d] fun _ l =>
          match l with | [a, b, c] => fFma p.2.1 p.2.2 a b c | _ => (canonNaN, 0)))
  ∧ (
    ∀ (f : Args) (s : State) (nat : BitVec 5),
      (FloatReady s f accFlt nat →
        Completes (.rint f) s (FloatWrites s f nat [f.b] fun u l => match l with | [a] => fRint f.rnd u a | _ => (canonNaN, 0))
        ∧ Completes (.sqrt f) s (FloatWrites s f nat [f.b] fun _ l => match l with | [a] => fSqrt a | _ => (canonNaN, 0)))
      ∧ (FloatReady s f accSpecial nat → ∀ p ∈ ([(.exp2, fExp2), (.log2, fLog2), (.rcp, fRcp), (.rsqrt, fRsqrt), (.sinpi, fSinpi),
          (.cospi, fCospi), (.tanh, fTanh)] : List ((Args → Instr) × (Machine.Num → Machine.Num × Flags))),
        Completes (p.1 f) s (FloatWrites s f nat [f.b] fun _ l => match l with | [a] => p.2 a | _ => (canonNaN, 0))))

/-- R171: absolute value, negation and sign copy work on the bit patterns of the elements, and raise no flag. -/
def Obligations.FloatSigns : Prop :=
  ∀ (f : Args) (s : State) (nat : BitVec 5), FloatReady s f accFlt nat →
    let e := fmtBits nat
    let w := fltWidth nat f
    let act := s.active f.guard
    let b := s.fsrc nat w f.b
    let c := s.fsrc nat w f.c
    let lanes := fun (el : Nat → Nat → Nat) i => packElems e ((List.range (w / e)).map (el i))
    f.rnd = 0 →
    Completes (.absFloat f) s (Writes s f.a act fun i => wide64 false w ⟨lanes (fun i j => subElem (b i).v e j % 2 ^ (e - 1)) i, (b i).p⟩)
    ∧ Completes (.negFloat f) s (Writes s f.a act fun i => wide64 false w ⟨lanes (fun i j => (subElem (b i).v e j + 2 ^ (e - 1)) % 2 ^ e) i, (b i).p⟩)
    ∧ Completes (.sgn f) s (Writes s f.a act fun i => wide64 false w
        ⟨lanes (fun i j => subElem (b i).v e j % 2 ^ (e - 1) + (if (subElem (c i).v e j).testBit (e - 1) then 2 ^ (e - 1) else 0)) i, (b i).p || (c i).p⟩)

/-- R173, R174: float compares of one element per lane, where the ordered compares raise NV for any NaN and the others for a
signalling one; the class of a float element, as a one-hot number and as a test against an immediate. -/
def Obligations.FloatComparesAndClasses : Prop :=
  (
    ∀ p ∈ ([(.cmpEqFloat, true, fun c => c == some 0), (.cmpNeFloat, true, fun c => c != some 0), (.cmpLtFloat, false, fun c => c == some (-1)),
        (.cmpLeFloat, false, fun c => c == some (-1) || c == some 0), (.cmpGtFloat, false, fun c => c == some 1),
        (.cmpGeFloat, false, fun c => c == some 1 || c == some 0), (.cmpUn, true, fun c => c == none), (.cmpOrd, true, fun c => c != none)] :
        List ((Args → Instr) × Bool × (Option Int → Bool))),
      ∀ (f : Args) (s : State) (nat : BitVec 5) (k : BitVec 4), s.native accFlt f.fmt = some nat → fltOk1 (f.withFmt nat) = true →
        Readable s f.operands → f.a = .mask k → k ≠ 0 →
        (∀ i < 32, (s.active f.guard).getLsbD i = true → (s.fsrc nat (fmtBits nat) f.b i).p = false ∧ (s.fsrc nat (fmtBits nat) f.c i).p = false) →
        let x := fun o i => decodeNum nat (s.fsrc nat (fmtBits nat) o i).v
        let fl := flagsOver (s.active f.guard) 1 fun i _ =>
          if (if p.2.1 then (x f.b i).isSig || (x f.c i).isSig else (x f.b i).isNaN || (x f.c i).isNaN) then flNV else 0
        Completes (p.1 f) s (WritesMask (s.raise fl) k.toNat (s.active f.guard) (maskOf fun i => p.2.2 (fCmp (x f.b i) (x f.c i)))))
  ∧ (
    ∀ (f : Args) (s : State) (nat : BitVec 5), s.native accFlt f.fmt = some nat → fltOk1B (f.withFmt nat) = true → Readable s f.operands →
      let x := s.fsrc nat (fmtBits nat) f.b
      let act := s.active f.guard
      let cls := fun i => fClass nat (decodeNum nat (x i).v)
      Completes (.fclass f) s (Writes s f.a act fun i => wide64 false 16 ⟨2 ^ cls i, (x i).p⟩)
      ∧ ∀ (k : BitVec 4) (v : BitVec 11), f.a = .mask k → k ≠ 0 → f.c = .imm v →
          (∀ i < 32, act.getLsbD i = true → (x i).p = false) →
          Completes (.ftest f) s (WritesMask s k.toNat act (maskOf fun i => v.getLsbD (cls i))))

/-- R175: packed dot products: integers modulo 2^32, floats as one FP32 rounding of the sum of the products.
THE MODEL'S CHOICE: that an exact zero sum is +0 is the model's reading (log entry 55). -/
def Obligations.DotProducts : Prop :=
  ∀ (f : Args) (s : State) (nat : BitVec 5), s.native accDot f.fmt = some nat → Readable s f.operands →
    let act := s.active f.guard
    let dot := fun (acc : Option (Nat → Src)) i =>
      let b := s.fsrc nat 64 f.b i
      let c := s.fsrc nat 64 f.c i
      let u := s.draw f.rnd (s.nonce f 64 i).v i 0
      let r := dotFloat nat b.v c.v (acc.map fun d => (d i).v)
      let z := ieeeEncode 20 r.1 f.rnd u none
      let p := b.p || c.p || (match acc with | some d => (d i).p | none => false) || (s.nonce f 64 i).p
      ((⟨z.1, p⟩ : Src), z.2 ||| r.2)
    let idot := fun (d : Nat → Src) i =>
      let b := s.src false 64 f.b i
      let c := s.src false 64 f.c i
      (⟨dotInt nat b.v c.v (d i).v, b.p || c.p || (d i).p⟩ : Src)
    if fmtIsInt nat then
      f.rnd = 0 →
        Completes (.dot f) s (Writes s f.a act fun i => wide64 (fmtSigned nat) 32 (idot (fun _ => ⟨0, false⟩) i))
        ∧ Completes (.dota f) s (Writes s f.a act fun i => wide64 (fmtSigned nat) 32 (idot (s.src (fmtSigned nat) 32 f.d) i))
    else
      Completes (.dot f) s (Writes (s.raise (flagsOver act 1 fun i _ => (dot none i).2)) f.a act fun i => wide64 false 32 (dot none i).1)
      ∧ (let d := s.fsrc 20 32 f.d
         Completes (.dota f) s (Writes (s.raise (flagsOver act 1 fun i _ => (dot (some d) i).2)) f.a act fun i => wide64 false 32 (dot (some d) i).1))

/-- R74: rounding m / 2^k to an integer in the five modes without random bits. -/
def Obligations.RoundingModes : Prop :=
  ∀ (neg : Bool) (u m k : Nat), 0 < k →
    let w := 2 ^ k
    let r := fun (mode : BitVec 3) => (roundInt mode neg u m k).1
    (∀ mode : BitVec 3, m % w = 0 → r mode * w = m ∧ (roundInt mode neg u m k).2 = false)
    ∧ (m % w ≠ 0 →
        (∀ mode : BitVec 3, (roundInt mode neg u m k).2 = true)
        ∧ (2 * m < 2 * r 0 * w + w ∨ (2 * m = 2 * r 0 * w + w ∧ r 0 % 2 = 0)) ∧ (2 * r 0 * w < 2 * m + w ∨ (2 * r 0 * w = 2 * m + w ∧ r 0 % 2 = 0))
        ∧ r 1 = m / w ∧ r 2 = (if neg then m / w else m / w + 1) ∧ r 3 = (if neg then m / w + 1 else m / w)
        ∧ r 4 % 2 = 1 ∧ (r 4 = m / w ∨ r 4 = m / w + 1))

/-- R178 to R180, R188, R275: conversions. Both formats resolve, the widths give `n` elements on both sides, and each element is converted
and rounded as R75 and R179 say; the Ebuno reciprocal, which counts one microcoded use; and scaled conversions: with a source
scale E one converts a × 2^(E − 127), with a destination scale a × 2^(127 − E), and a scale of 255 gives a NaN block's values; the
option of a side whose class is bound to plain acts as none, and a pair that has no such option is ILLEGAL.
THE MODEL'S CHOICE: RCPA's value at i = 4095 and what a T format's clamp of infinity raises are the model's readings (log
entry 55). -/
def Obligations.Conversions : Prop :=
  (
    (∀ (src : BitVec 5) (f : Args) (s : State) (d b : ClassRes) (n wa wb : Nat), s.convFmts f.fmt src = some (d, b) →
      convShape d.fmt b.fmt f.a f.b = some (n, wa, wb) → Readable s f.operands →
      let act := s.active f.guard
      let el := fun i j => convElem d.fmt b.fmt (s.convSrc b.fmt n wb f.b i j) f.rnd (s.draw f.rnd (s.nonce f wa i).v i j) (capOf d.fmt 0)
      Completes (.cvt src f) s (Writes (s.raise (flagsOver act n fun i j => (el i j).2)) f.a act fun i =>
        wide64 (fmtIsInt d.fmt && fmtSigned d.fmt) wa ⟨packElems (fmtBits d.fmt) ((List.range n).map fun j => (el i j).1),
          (s.src false wb f.b i).p || (s.nonce f wa i).p⟩))
    ∧ (∀ (f : Args) (s : State) (nat : BitVec 5), FloatReady s f accF32 nat → f.rnd = 0 → s.job.legmc < 2 ^ 63 - 1 →
      let act := s.active f.guard
      let w := fltWidth nat f
      let x := s.fsrc nat w f.b
      let el := fun i j => fRcpa (decodeNum 20 (subElem (x i).v 32 j))
      let n := w / fmtBits nat
      let s1 := s.setJob { s.job with legmc := s.job.legmc + 1 }
      Completes (.rcpa f) s (Writes (s1.raise (flagsOver act n fun i j => (el i j).2)) f.a act fun i =>
        wide64 false w ⟨packElems (fmtBits nat) ((List.range n).map fun j => (el i j).1), (x i).p⟩)))
  ∧ (
    ∀ (f : Args) (s : State) (d b : ClassRes) (n wa wb : Nat), s.convFmts f.fmt f.f1 = some (d, b) →
      convShape d.fmt b.fmt f.a f.b = some (n, wa, wb) → Readable s f.operands →
      let act := s.active f.guard
      let clamp := f.xmod.getLsbD 0
      let opt := (f.xmod.extractLsb' 1 2).toNat
      let plain := (opt = 1 ∧ fmtIsClass f.f1 = true ∧ b.scheme = 0) ∨ (opt = 2 ∧ fmtIsClass f.fmt = true ∧ d.scheme = 0)
      let sc := if plain then 0 else opt
      let c := fun i => if clamp then s.fsrc 20 32 f.c i else ⟨0, false⟩
      let e := fun i => if sc = 0 then ⟨0, false⟩ else s.src false 8 (if f.d = .none then .slice 0 0 else f.d) i
      let el := fun i j =>
        let x := s.convSrc b.fmt n wb f.b i j
        let u := s.draw f.rnd (s.nonce f wa i).v i j
        let cap := if clamp then clampOperand d.fmt (c i).v else capOf d.fmt 0
        let k : Int := (e i).v
        if sc = 0 then convElem d.fmt b.fmt x f.rnd u cap
        else if sc = 1 then convNum d.fmt b.fmt (if k = 255 then canonNaN else (decodeNum b.fmt x).scale (k - 127)) f.rnd u (some cap)
        else if k = 255 then (0, 0) else convNum d.fmt b.fmt ((decodeNum b.fmt x).scale (127 - k)) f.rnd u (some cap)
      let fits := (sc = 1 → fmtScalable b.fmt = true) ∧ (sc = 2 → fmtScalable d.fmt = true) ∧ (clamp = true → fmtIsInt d.fmt = false)
      (¬fits → exec (.cvtx f) s = s.takeFault { cause := .illegal })
      ∧ (fits → Completes (.cvtx f) s (Writes (s.raise (flagsOver act n fun i j => (el i j).2)) f.a act fun i =>
        wide64 (fmtIsInt d.fmt && fmtSigned d.fmt) wa ⟨packElems (fmtBits d.fmt) ((List.range n).map fun j => (el i j).1),
          (s.src false wb f.b i).p || (c i).p || (e i).p || (s.nonce f wa i).p⟩)))

/-- R181, R182, R183: the block scale of a magnitude under a bound; interleaves; and packing of 6-bit codes. -/
def Obligations.PackAndUnpack : Prop :=
  ∀ (f : Args) (s : State), Readable s f.operands →
    let act := s.active f.guard
    let e := fmtBits f.fmt
    let w := vecWidth f
    let n := w / max 1 e
    let b := s.src false w f.b
    let c := s.src false w f.c
    let zip := fun (pick : Nat → Bool × Nat) => Writes s f.a act fun i =>
      wide64 false w ⟨packElems e ((List.range n).map fun k => subElem (if (pick k).1 then (b i).v else (c i).v) e (pick k).2), (b i).p || (c i).p⟩
    Completes (.zipLo f) s (zip fun k => (decide (k % 2 = 0), k / 2))
    ∧ Completes (.zipHi f) s (zip fun k => (decide (k % 2 = 0), n / 2 + k / 2))
    ∧ Completes (.unzipEv f) s (zip fun k => if k < n / 2 then (true, 2 * k) else (false, 2 * (k - n / 2)))
    ∧ Completes (.unzipOd f) s (zip fun k => if k < n / 2 then (true, 2 * k + 1) else (false, 2 * (k - n / 2) + 1))
    ∧ Completes (.pk6 f) s (Writes s f.a act fun i =>
        let x := s.src false 64 f.b i
        ⟨packElems 6 ((List.range 8).map fun k => x.v / 256 ^ k % 64), x.p⟩)
    ∧ Completes (.upk6 f) s (Writes s f.a act fun i =>
        let x := s.src false 48 f.b i
        ⟨packElems 8 ((List.range 8).map fun k => x.v / 64 ^ k % 64), x.p⟩)
    ∧ Completes (.esel f) s (Writes s f.a act fun i =>
        let m := s.fsrc 20 32 f.b i
        let k := s.fsrc 20 32 f.c i
        wide64 false 8 ⟨eselOf m.v k.v, m.p || k.p⟩)

/-- R184 to R187, R280: a draw of the sower under a key, per active lane; with `.adv` the counter's slices are incremented
after they have been read. Where a counter wraps the plot's RNGWRAP flag is raised, and where the code object asks for it the RNGWRAP
trap is taken after the instruction: every effect stands, the saved program counter is the next frame's, and the record carries the
lanes that wrapped.
THE MODEL'S CHOICE: that `RNGU` into l0 or an x-register draws one element is the model's reading (log entry 81). -/
def Obligations.RandomDraws : Prop :=
  ∀ p ∈ ([(.rngLo, 0, true), (.rngHi, 1, true), (.rngu, 2, true), (.rnguOc, 3, true), (.rngkLo, 0, false), (.rngkHi, 1, false),
      (.rngku, 2, false), (.rngkuOc, 3, false)] : List ((Args → Instr) × Nat × Bool)),
    ∀ (f : Args) (s : State) (nat : BitVec 5),
      let sel := p.2.1
      s.native (if sel < 2 then bits [28, 29] else accFlt) f.fmt = some nat →
      (sel < 2 ∨ fltWidthOk (fmtBits nat) (fltW (fmtBits nat) [f.a]) = true) → Readable s f.operands →
      let act := s.active f.guard
      let w := if sel < 2 then 64 else fltW (fmtBits nat) [f.a]
      let key := fun i => if p.2.2 then ⟨s.launch.seed.toNat, false⟩ else s.src true 64 f.d i
      let b := s.src true 64 f.b
      let c := s.src true 64 f.c
      let poison := fun i => (b i).p || (c i).p || (key i).p
      let v := fun i => wide64 (decide (sel < 2) && f.sg) w ⟨rngValue sel nat (w / max 1 (fmtBits nat)) (sower (key i).v (b i).v (c i).v), poison i⟩
      let wraps := f.ext = true ∧ ∃ i < 32, act.getLsbD i = true ∧ (c i).v = 2 ^ 64 - 1
      let armed := ∃ o, s.job.objs.find? (·.va = s.fur.obj) = some o ∧ o.hdr.getLsbD 128 = true
      ∃ (fl : Flags) (m : Mask), (wraps → fl = flWrap) ∧ (¬wraps → fl = 0)
      ∧ (∀ i < 32, m.getLsbD i = (act.getLsbD i && decide ((c i).v = 2 ^ 64 - 1)))
      ∧ let drawn := fun (t : State) => RegEffect (s.raise fl) t
          (fun i k => match f.ext, f.c with
            | true, .slice st _ => if act.getLsbD i = true ∧ st.toNat ≤ k ∧ k < st.toNat + 16 then ⟨((c i).v + 1) % 2 ^ 64 / 16 ^ (k - st.toNat) % 16, poison i⟩
                                   else newSlice s f.a act v i k
            | _, _ => newSlice s f.a act v i k)
          (newX s f.a act v) s.mask (newLatches s f.a act v) s.fur.npc
        ((wraps → ¬armed) → Completes (p.1 f) s drawn)
        ∧ (wraps → armed → TrapRoom s → (∀ x ∈ s.rets, x.fur ≠ s.fur.id) → Completes (p.1 f) s fun t => ∃ u w,
            drawn u ∧ (u.fillTrap { cause := .rngwrap, lanes := m }).pc = s.fur.npc ∧ Trapped u (u.fillTrap { cause := .rngwrap, lanes := m }) w
            ∧ t = w.send 0x81 s.job.slot s.job.asid ((List.range 32).map fun i => Memory.word w.mem ((qHead s.mem s.plot.trapq.toNat).slot 256 + 8 * i)))

/-- R165, R83: REDUCE gives every active lane the combination of all active lanes, SCAN gives lane `i` that of the active lanes at or
below it: for integer types whatever the tree, for float types by the tree of R83, each node rounded, its flags raised.
THE MODEL'S CHOICE: that a REDUCE with no active lane pushes a zero latch entry is the model's reading (log entry 67). -/
def Obligations.Reductions : Prop :=
  (
    ∀ p ∈ ([(.reduceAdd, .scanAdd, .add), (.reduceMin, .scanMin, .min), (.reduceMax, .scanMax, .max), (.reduceAnd, .scanAnd, .and),
        (.reduceOr, .scanOr, .or), (.reduceXor, .scanXor, .xor)] : List ((Args → Instr) × (Args → Instr) × RedOp)),
      ∀ (f : Args) (s : State), fmtIsClass f.fmt = false → fmtIsInt f.fmt = true → Readable s f.operands →
        let w := f.w
        let act := s.active f.guard
        let b := s.src f.sx w f.b
        let comb := fun (m : Mask) =>
          ((lanesOf m).tail.foldl (fun (a : Src) i => (⟨redFold p.2.2 f.sg w a.v (b i).v, a.p || (b i).p⟩ : Src)) (b ((lanesOf m).headD 0)))
        Completes (p.1 f) s (Writes s f.a act fun _ => wide64 f.sx w (comb act))
        ∧ Completes (p.2.1 f) s (Writes s f.a act fun i => wide64 f.sx w (comb (act &&& BitVec.ofNat 32 (2 ^ (i + 1) - 1)))))
  ∧ (
    ∀ p ∈ ([(.reduceAdd, .scanAdd, .add), (.reduceMin, .scanMin, .min), (.reduceMax, .scanMax, .max)] :
        List ((Args → Instr) × (Args → Instr) × RedOp)),
      ∀ (f : Args) (s : State) (nat : BitVec 5), s.native (0xFFC00000 ||| accFlt) f.fmt = some nat → fmtIsInt nat = false →
        fltOk (f.withFmt nat) = true → Readable s f.operands → s.active f.guard ≠ 0 →
        let act := s.active f.guard
        let w := fltWidth nat f
        let below := fun i => act &&& BitVec.ofNat 32 (2 ^ (i + 1) - 1)
        let r := fun (m : Mask) lane => (s.redTree p.2.2 nat f m lane).getD { x := ⟨0, false⟩ }
        Completes (p.1 f) s (Writes (s.raise (r act 0).fl) f.a act fun _ => wide64 false w (r act 0).x)
        ∧ Completes (p.2.1 f) s (Writes (s.raise (flagsOver act 1 fun i _ => (r (below i) i).fl)) f.a act fun i => wide64 false w (r (below i) i).x))

/-! ### Memory -/

/-- R190, R195, R197, R201, R51: loads, gathers and fills put the bytes that the furrow sees (R91) on their way to the
destination; an acquire reads below the stores at home (R95).
THE MODEL'S CHOICE: that the bytes are read when the load issues is the model's choice (log entry 9), and what an unwritten
byte holds (log entry 3). -/
def Obligations.Loads : Prop :=
  ∀ (f : Args) (s : State),
    let act := s.active f.guard
    (∀ nat, s.native accAll f.fmt = some nat → Readable s f.operands →
      (memOk (f.withFmt nat) = true →
        let n := accessBits (f.withFmt nat) f.a / 8
        let l := (lanesOf act).map fun i => (i, (s.ea f i).v)
        (∀ i ∈ lanesOf act, (s.ea f i).p = false) → Accessible s .load n (if f.unaligned then 1 else n) l →
        (f.acquires = true → AcquirePasses s f.scope n l) →
        Completes (.ld f) s (LoadEffect s (.value f.a (fmtIsInt nat && fmtSigned nat) (8 * n)
          ((List.range 32).map fun i =>
            if act.getLsbD i then let v := s.view f.acquires (s.ea f i).v n; some (BitVec.ofNat 64 v.v, v.p) else none))))
      ∧ (∀ n ei, gathShape (fmtBits nat) f.a f.c = some (n, ei) →
        let b := fmtBits nat / 8
        let index := fun i j => bitsOf (s.src false (n * ei) f.c i).v (ei * j) ei
        let at_ := fun i j => wrap 64 ((s.src false 64 f.b i).v + (if f.ext then toSigned ei (index i j) else (index i j : Int)) * (b : Int))
        let l := (lanesOf act).flatMap fun i => (List.range n).map fun j => (i, at_ i j)
        (∀ i ∈ lanesOf act, (s.src false 64 f.b i).p = false ∧ (s.src false (n * ei) f.c i).p = false) →
        Accessible s .load b (if f.wide && f.ua then 1 else b) l → (f.acquires = true → AcquirePasses s f.scope b l) →
        Completes (.gath f) s (LoadEffect s (.value f.a (fmtIsInt nat && fmtSigned nat) (8 * b * n)
          ((List.range 32).map fun i =>
            if act.getLsbD i then
              let v := (List.range n).foldl (fun (acc : Src) j =>
                let e := s.view f.acquires (at_ i j) b
                ⟨acc.v + e.v * 2 ^ (8 * b * j), acc.p || e.p⟩) ⟨0, false⟩
              some (BitVec.ofNat 64 v.v, v.p)
            else none)))))
    ∧ ((groupsOf f).all (fun g => decide (g < s.fur.budget / 16)) = true → s.launch.spill ≠ 0 →
        Accessible s .load 2 2 ((s.spillWords f act).flatMap fun w => [(w.1, w.2.2.1), (w.1, w.2.2.2)]) →
        Completes (.fill f) s (LoadEffect s (.fill ((s.spillWords f act).map fun w =>
          let d := s.view false w.2.2.1 8
          (w.1, w.2.1, BitVec.ofNat 64 d.v, if d.p then 0xFFFF else BitVec.ofNat 16 (s.view false w.2.2.2 2).v)))))

/-- R91, R95: a byte that a furrow reads is that of the newest entry covering it that is its own or plot-visible, and else
memory's, where the read is at home and no engine job's write is still on its way there (R103). Read-only bits read as they stand (R4).
A read of several bytes is little-endian (R195). -/
def Obligations.ViewReadsNewest : Prop :=
  ∀ (s : State) (home : Bool),
    (∀ (pa : Nat) (older newer : List SiloEntry) (e : SiloEntry), s.plot.held ++ s.plot.silo = older ++ e :: newer →
      e.hits s.fur.tag pa = true → (∀ x ∈ newer, x.hits s.fur.tag pa = false) →
      (s.fixedByte pa = 0 → s.viewByte home pa = (e.byte (pa % 64), e.poison))
      ∧ (s.viewByte home pa).1 = ((s.below home pa).1 &&& s.fixedByte pa) ||| (e.byte (pa % 64) &&& ~~~(s.fixedByte pa)))
    ∧ (∀ pa, (∀ x ∈ s.plot.held ++ s.plot.silo, x.hits s.fur.tag pa = false) → s.inFlight pa = none →
      s.viewByte true pa = (Memory.byte s.mem pa, s.poisoned.contains (pa / 64)))
    ∧ ∀ va n k, k < n → (s.view home va n).v / 256 ^ k % 256 = (s.viewByte home ((s.pa .load (va + k)).getD 0)).1.toNat

/-- R190, R196, R197, R201, R94: stores, scatters and spills that are not performed at home: entries of the plot, where a later lane
or element overwrites an earlier one; what every furrow of the plot then reads, with its poison; a release at plot scope shows the
plot's entries. A release store or scatter at die scope or wider commits the plot and is then performed at its home slices, where
read-only fields stand (R4), between a checkpoint before it and the same brought past it (R38). A store needs room in the
held-store area (R92).
THE MODEL'S CHOICE: which lines another plot shares (log entry 77), that a checkpoint has the furrow past the effect (log
entry 47), and the count of elements of a data operand that is not slices (log entry 81) are the model's readings. -/
def Obligations.Stores : Prop :=
  (
    ∀ (f : Args) (s : State), s.paged .store → s.ownNewest →
      let act := s.active f.guard
      let vis := f.releases && f.scope == 1
      -- the held-store area needs no more pages, and no poison goes to a line that another plot shares (R38, R92)
      let room := fun (k : Nat) => s.plot.held.length + s.plot.silo.length + 2 * k ≤ s.plot.heldRoom
      let alone := fun (a n : Nat) => (s.pa .store a).any s.lineShared = false ∧ (s.pa .store (a + n - 1)).any s.lineShared = false
      (f.homeRelease = false → ∀ nat, s.native accAll f.fmt = some nat → Readable s f.operands →
        (memOk (f.withFmt nat) = true →
          let n := accessBits (f.withFmt nat) f.a / 8
          let at_ := fun i => (s.ea f i).v
          (∀ i ∈ lanesOf act, (s.ea f i).p = false) →
          Accessible s .store n (if f.unaligned then 1 else n) ((lanesOf act).map fun i => (i, at_ i)) → room 32 →
          let d := s.src (fmtIsInt nat && fmtSigned nat) (8 * n) f.a
          (∀ i ∈ lanesOf act, (d i).p = true → alone (at_ i) n) →
          Completes (.st f) s (StoreEffect (storeBase s f) vis ((lanesOf act).map fun i => (at_ i, n, (d i).v, (d i).p))))
        ∧ (∀ n ei, gathShape (fmtBits nat) f.a f.c = some (n, ei) →
          let b := fmtBits nat / 8
          let index := fun i j => bitsOf (s.src false (n * ei) f.c i).v (ei * j) ei
          let at_ := fun i j => wrap 64 ((s.src false 64 f.b i).v + (if f.ext then toSigned ei (index i j) else (index i j : Int)) * (b : Int))
          (∀ i ∈ lanesOf act, (s.src false 64 f.b i).p = false ∧ (s.src false (n * ei) f.c i).p = false) →
          Accessible s .store b (if f.wide && f.ua then 1 else b) ((lanesOf act).flatMap fun i => (List.range n).map fun j => (i, at_ i j)) →
          room (32 * n) →
          let d := s.src (fmtIsInt nat && fmtSigned nat) (8 * b * n) f.a
          (∀ i ∈ lanesOf act, (d i).p = true → ∀ j < n, alone (at_ i j) b) →
          Completes (.scat f) s (StoreEffect (storeBase s f) vis ((lanesOf act).flatMap fun i => (List.range n).map fun j =>
            (at_ i j, b, bitsOf (d i).v (8 * b * j) (8 * b), (d i).p)))))
      ∧ ((groupsOf f).all (fun g => decide (g < s.fur.budget / 16)) = true → s.launch.spill ≠ 0 → s.launch.spill.toNat % 64 = 0 →
          Accessible s .store 2 2 ((s.spillWords f act).flatMap fun w => [(w.1, w.2.2.1), (w.1, w.2.2.2)]) →
          room (64 * (groupsOf f).length) →
          Completes (.spill f) s (StoreEffect s false ((s.spillWords f act).flatMap fun w =>
            [(w.2.2.1, 8, (s.lane w.1).read (16 * w.2.1) 64, false), (w.2.2.2, 2, (s.lane w.1).poison.toNat / 2 ^ (16 * w.2.1) % 2 ^ 16, false)]))))
  ∧ (
    ∀ (f : Args) (s : State) (nat : BitVec 5), s.Focused → s.memWf → s.paged .store → f.homeRelease = true →
      s.native accAll f.fmt = some nat → Readable s f.operands →
      s.ejobs = [] → s.core.seq = [] → s.plot.savedOps = [] → s.rets = [] → s.plot.flags = 0 → s.checkBlocked = false →
      let act := s.active f.guard
      let alone := fun (a n : Nat) => (s.pa .store a).any s.lineShared = false ∧ (s.pa .store (a + n - 1)).any s.lineShared = false
      -- stores at home, after the checkpoint: the bytes stored stand over what is committed, but for read-only bits
      let done := fun (l : List Stored) (t : State) =>
        t = { s with
          fur := t.fur, plot := { s.plot with silo := [], held := [], check := t.plot.check }, core := { s.core with l1 := t.core.l1 }
          mem := t.mem, poisoned := t.poisoned, l2 := t.l2, rdc := t.rdc, checker := t.checker }
        ∧ (∀ pa, Memory.byte t.mem pa = match lastAt (storedBytes s l) pa with
            | some b => mixByte (s.beforeEffect.fixedByte pa) (Memory.byte s.beforeEffect.mem pa) b.1
            | none => Memory.byte s.beforeEffect.mem pa)
        ∧ (∀ pa, (∃ b, (pa, b, true) ∈ storedBytes s l) → t.poisoned.contains (pa / 64) = true)
        ∧ EndsRegion s t ∧ Checkpointed s t
      -- no queue's BASE or SIZE is stored to, which would move its read-only entries
      let apart := fun (l : List Stored) => ∀ x ∈ storedBytes s l, ∀ q ∈ s.trapQueues ++ s.faultQueues, x.1 < q ∨ q + 9 ≤ x.1
      (memOk (f.withFmt nat) = true →
        let n := accessBits (f.withFmt nat) f.a / 8
        let at_ := fun i => (s.ea f i).v
        (∀ i ∈ lanesOf act, (s.ea f i).p = false) →
        Accessible s .store n (if f.unaligned then 1 else n) ((lanesOf act).map fun i => (i, at_ i)) →
        let d := s.src (fmtIsInt nat && fmtSigned nat) (8 * n) f.a
        (∀ i ∈ lanesOf act, (d i).p = true → alone (at_ i) n) →
        let l := (lanesOf act).map fun i => (at_ i, n, (d i).v, (d i).p)
        apart l → Completes (.st f) s (done l))
      ∧ ∀ n ei, gathShape (fmtBits nat) f.a f.c = some (n, ei) →
        let b := fmtBits nat / 8
        let index := fun i j => bitsOf (s.src false (n * ei) f.c i).v (ei * j) ei
        let at_ := fun i j => wrap 64 ((s.src false 64 f.b i).v + (if f.ext then toSigned ei (index i j) else (index i j : Int)) * (b : Int))
        (∀ i ∈ lanesOf act, (s.src false 64 f.b i).p = false ∧ (s.src false (n * ei) f.c i).p = false) →
        Accessible s .store b (if f.wide && f.ua then 1 else b) ((lanesOf act).flatMap fun i => (List.range n).map fun j => (i, at_ i j)) →
        let d := s.src (fmtIsInt nat && fmtSigned nat) (8 * b * n) f.a
        (∀ i ∈ lanesOf act, (d i).p = true → ∀ j < n, alone (at_ i j) b) →
        let l := (lanesOf act).flatMap fun i => (List.range n).map fun j => (at_ i j, b, bitsOf (d i).v (8 * b * j) (8 * b), (d i).p)
        apart l → Completes (.scat f) s (done l))

/-- R38, R39, R94, R95, R199, R329: phases, fences and checkpoints at each scope; a boundary wider than plot scope of a sampled plot
takes its checkpoint, and waits for the second run. What a checkpoint leaves in memory: the plot's entries in their order, and, outside
them, only its copies in the job's pool.
THE MODEL'S CHOICE: that a checkpoint has the furrow past the effect (log entry 47), where its copies lie (log entry 40), and what
stands for the second run (log entry 38) are the model's readings. -/
def Obligations.Boundaries : Prop :=
  (
    ∀ (sc : BitVec 3) (f : Args) (s : State), s.Focused → s.memWf → s.rets = [] → s.plot.flags = 0 → sc.toNat < 5 →
      (sc.toNat < 2 →
        let b := (if sc = 0 then s else s.shown).unregioned
        Completes (.phase sc f) s (GoesOn b) ∧ Completes (.fence sc f) s (GoesOn b))
      ∧ (2 ≤ sc.toNat → s.plot.sampled = false → s.commitBlocked s.plot = false →
        Completes (.phase sc f) s (fun t => Commits s false t ∧ EndsRegion s t ∧ t.plot.check = s.plot.check ∧ t.plot.acqAt = s.plot.acqAt)
        ∧ Completes (.fence sc f) s (fun t => Commits s false t ∧ EndsRegion s t ∧ t.plot.check = s.plot.check ∧ t.core.l1 = []
            ∧ t.plot.acqAt = if sc = 2 then s.plot.acqAt else s.steps))
      ∧ (2 ≤ sc.toNat → s.plot.sampled = true → s.checkBlocked = false →
        Completes (.phase sc f) s (fun t => Commits s true t ∧ EndsRegion s t ∧ Checkpointed s t ∧ t.plot.acqAt = s.plot.acqAt)
        ∧ Completes (.fence sc f) s (fun t => Commits s true t ∧ EndsRegion s t ∧ Checkpointed s t ∧ t.core.l1 = []
            ∧ t.plot.acqAt = if sc = 2 then s.plot.acqAt else s.steps))
      ∧ (s.checkBlocked = false → Completes (.phaseK sc f) s fun t =>
          Commits s true t ∧ EndsRegion s t ∧ t.plot.acqAt = s.plot.acqAt ∧ Checkpointed s t)
      -- a checkpoint waits while another furrow of the plot stands between the halves of a P frame (R120)
      ∧ (s.pairOpen = true → exec (.phaseK sc f) s = .next s)
      ∧ (2 ≤ sc.toNat → s.plot.sampled = true → s.plot.second ≠ .alike → exec (.phase sc f) s = .next s ∧ exec (.fence sc f) s = .next s
          ∧ exec (.phaseK sc f) s = .next s))
  ∧ ∀ s : State, s.Focused → s.memWf → s.rets = [] → s.beforeEffect.plot.silo = [] ∧ s.beforeEffect.plot.held = []
      ∧ (∀ pa, ¬s.inCopies pa → Memory.byte s.beforeEffect.mem pa = drained s pa) ∧ CheckpointedAt s.unregioned s.beforeEffect

/-- R198, R100, R199, R107, R200: prefetches leave only copies; reductions move to staging as far as it has room; a discard drops
the plot's entries of its sectors, takes a checkpoint, and changes no byte outside them but by that checkpoint.
THE MODEL'S CHOICE: which value a discarded sector reads is a free value (log entry 16), that reductions beyond the staging
area are performed at once (log entry 70), that a checkpoint has the furrow past the effect (log entry 47), and the lane that a
DISCARD without active lanes names (log entry 57) are the model's readings. -/
def Obligations.PrefetchFlushDiscard : Prop :=
  ∀ (f : Args) (s : State),
    Completes (.pref f) s (fun t =>
      t = { s with fur := t.fur, core := { s.core with l1 := t.core.l1 }, rdc := t.rdc } ∧ GoesOn { t with fur := s.fur } t)
    ∧ (s.launch.det = false → Completes .flushred s (GoesOn s))
    ∧ (s.launch.det = true → s.Focused → s.memWf →
        let mine := s.core.red.filter (·.plot = s.plot.id)
        let room := if s.launch.stageVa = 0 then 0 else s.launch.stageN - s.launch.staged.length
        let red := s.core.red.filter (·.plot ≠ s.plot.id)
        (mine.length ≤ room → Completes .flushred s (GoesOn { s with
            core := { s.core with red := red }, launch := { s.launch with staged := s.launch.staged ++ mine } }))
        ∧ (room < mine.length → s.rets = [] → s.checkBlocked = false → Completes .flushred s fun t =>
            t.core.red = red ∧ t.launch.staged = s.launch.staged ++ mine.take room ∧ GoesOn { t with fur := s.fur } t
            ∧ t.plot = { s.plot with silo := [], held := [], check := t.plot.check } ∧ CheckpointedAt s t
            ∧ t.job = s.job ∧ t.furs = s.furs ∧ t.plots = s.plots ∧ t.launches = s.launches))
    ∧ (s.Focused → s.memWf → s.rets = [] → Readable s [f.b, f.c] →
        let base := s.uni (s.active f.guard) f.b
        let n := match f.c with | .imm v => v.toNat | o => (s.uniU (s.active f.guard) o).v
        (match f.c with | .imm _ => True | o => (s.uniU (s.active f.guard) o).p = false) →
        base.p = false → base.v % 64 = 0 → s.spanStop .store (s.uniLane (s.active f.guard)) base.v (64 * n) = none →
        (n = 0 → Completes (.discard f) s (GoesOn s))
        ∧ (n ≠ 0 → base.v + 64 ≤ aperture → s.checkBlocked = false →
          let secs := (List.range n).map fun k => (s.pa .store (base.v + 64 * k)).getD 0 / 64
          let rest : State := { s with plot := { s.plot with
            silo := s.plot.silo.filter fun e => !secs.contains e.sector, held := s.plot.held.filter fun e => !secs.contains e.sector } }
          Completes (.discard f) s fun t =>
            t = { s with
              fur := t.fur, plot := { s.plot with silo := [], held := [], check := t.plot.check }
              core := { s.core with l1 := t.core.l1 }, mem := t.mem, poisoned := t.poisoned, l2 := t.l2, rdc := t.rdc }
            -- outside the sectors only the stores of other sectors have reached memory; no queue's header is discarded
            ∧ ((∀ sec ∈ secs, (s.trapQueues ++ s.faultQueues).any (· / 64 == sec) = false) →
                ∀ pa, secs.contains (pa / 64) = false → ¬s.inCopies pa → Memory.byte t.mem pa = drained rest pa)
            ∧ EndsRegion s t ∧ Checkpointed s t))

/-- R97, R100, R129, R202 to R205: the atomics, performed at home after a checkpoint; what one lane leaves in its word, by operation and
integer format; and in a determinate launch with room in its staging area, a lane of an atomic without a result is buffered under its
key, and memory stays. ATOMWINC, a rung of the legacy ladder, leaves its trap record and has its effect.
THE MODEL'S CHOICE: when lanes are buffered, the place of the checkpoint, and that a record and its emulation are one step are the
model's readings (log entries 10, 47, 69, 70 and 77). -/
def Obligations.Atomics : Prop :=
  (
    (∀ p ∈ ([(.atomAddRet, .add, true), (.atomMinRet, .min, true), (.atomMaxRet, .max, true), (.atomAndRet, .and, true), (.atomOrRet, .or, true),
        (.atomXorRet, .xor, true), (.atomXchg, .xchg, true), (.atomCas, .cas, true), (.atomAdd, .add, false), (.atomMin, .min, false),
        (.atomMax, .max, false), (.atomAnd, .and, false), (.atomOr, .or, false), (.atomXor, .xor, false)] :
        List ((Args → Instr) × AtomOp × Bool)),
      ∀ (f : Args) (s : State) (fmt : BitVec 5), s.Focused → s.paged .atomic → s.rets = [] → s.active f.guard ≠ 0 →
        s.native p.2.1.accepts f.fmt = some fmt → atomOk (f.withFmt fmt) = true → Readable s f.operands →
        AtomReady s p.2.1 f fmt → (p.2.2 = true ∨ s.redRoom = false) →
        Completes (p.1 f) s (AtomEffect s p.2.1 f fmt p.2.2))
    ∧ ∀ (f : Args) (s : State), s.Focused → s.paged .atomic → s.rets = [] → s.active f.guard ≠ 0 →
        s.native AtomOp.winc.accepts f.fmt = some 27 → Readable s f.operands → s.trapsFull = false →
        let r := s.legacyTrap
        AtomReady s .winc f 27 → AtomReady r .winc f 27 →
        Completes (.atomwinc f) s (AtomEffect r .winc f 27 true))
  ∧ (
    ∀ (fmt : BitVec 5) (rnd : BitVec 3) (old c d : Nat), old < 2 ^ fmtBits fmt → c < 2 ^ fmtBits fmt →
      let t := typed (fmtSigned fmt) (fmtBits fmt)
      atomFn fmt .xchg rnd old c d = c
      ∧ atomFn fmt .cas rnd old c d = (if old = c then d else old)
      ∧ atomFn fmt .winc rnd old c d = (if c ≤ old then 0 else old + 1)
      ∧ (fmtIsInt fmt = true →
          atomFn fmt .add rnd old c d = wrap (fmtBits fmt) (t old + t c)
          ∧ atomFn fmt .min rnd old c d = (if t old ≤ t c then old else c)
          ∧ atomFn fmt .max rnd old c d = (if t old ≤ t c then c else old))
      ∧ ∀ k, (atomFn fmt .and rnd old c d).testBit k = (old.testBit k && c.testBit k)
          ∧ (atomFn fmt .or rnd old c d).testBit k = (old.testBit k || c.testBit k)
          ∧ (atomFn fmt .xor rnd old c d).testBit k = (old.testBit k != c.testBit k))
  ∧ (
    ∀ p ∈ ([(.atomAdd, .add), (.atomMin, .min), (.atomMax, .max), (.atomAnd, .and), (.atomOr, .or), (.atomXor, .xor)] : List ((Args → Instr) × AtomOp)),
      ∀ (f : Args) (s : State) (fmt : BitVec 5), s.native p.2.accepts f.fmt = some fmt → atomOk (f.withFmt fmt) = true → Readable s f.operands →
        (∀ i ∈ lanesOf (s.active f.guard), (s.src false 64 f.b i).p = false ∧ (s.atomSrc fmt f.c i).p = false ∧ (s.atomSrc fmt f.d i).p = false) →
        Accessible s .atomic (fmtBits fmt / 8) (fmtBits fmt / 8) ((lanesOf (s.active f.guard)).map fun i => (i, (s.src false 64 f.b i).v)) →
        atomRel p.2 f = false → atomAcq p.2 f = false → s.redRoom = true → s.core.red.length + 32 ≤ 1024 →
        Completes (p.1 f) s fun t =>
          t = { s with fur := t.fur, plot := { s.plot with redCount := t.plot.redCount }, core := { s.core with red := t.core.red } }
          ∧ EndsRegion { s with plot := t.plot, core := t.core } t
          ∧ t.core.red = s.core.red ++ (s.atomLanes fmt f (s.active f.guard)).map (fun l =>
              { key := (s.plot.lplot, s.fur.logical.toNat, l.lane, s.plot.redN (s.fur.logical.toNat, l.lane)), pa := l.pa, op := p.2.code
                fmt := fmt, rnd := f.rnd, val := BitVec.ofNat 64 l.c, plot := s.plot.id, scope := atomScope p.2 f })
          ∧ ∀ i, t.plot.redN (s.fur.logical.toNat, i) = s.plot.redN (s.fur.logical.toNat, i) + if (s.active f.guard).getLsbD i then 1 else 0)

/-! ### Waits -/

/-- R206, R207, R147, R101: waits for a value and watch slots, whose words are read at their home slices (a wait that is met
acquires); waits for a time, which clear DETRES, and by how much they are late or early.
THE MODEL'S CHOICE: that a comparison value's poison is no control point (log entry 67) and what an instruction with no active lane reads and
names (log entry 57) are the model's readings. -/
def Obligations.Waits : Prop :=
  (
    ∀ (f : Args) (s : State),
      let act := s.active f.guard
      let a := (s.uni act f.b).v
      let pa := (s.pa .load a).getD 0
      let v := (s.uni act f.c).v
      let holds := fun (c : Cmp) (w v : Nat) => match c with | .ge => decide (v ≤ w) | .eq => decide (w = v) | .ne => decide (w ≠ v)
      let met := holds (waitCmp f) (Memory.readN s.mem pa 8) v
      -- an acquire of one word at a scope, with registers as `b` has them
      let acquires := fun (sc : BitVec 3) (b t : State) =>
        t = { s with fur := t.fur, plot := { s.plot with acqAt := t.plot.acqAt }, core := { s.core with l1 := t.core.l1 }
                     rdc := t.rdc, checker := t.checker }
        ∧ s.sameRecords t ∧ t.plot.acqAt = (if 3 ≤ sc.toNat then s.steps else s.plot.acqAt) ∧ (2 ≤ sc.toNat → t.core.l1 = []) ∧ GoesOn { t with fur := b.fur } t
      (Readable s [f.b, f.c] → (s.uni act f.b).p = false → Accessible s .load 8 8 [(s.uniLane act, a)] →
        Completes (.watch f) s (fun t =>
          GoesOn { s with fur := { s.fur with watch := t.fur.watch } } t
          ∧ ∀ j, t.fur.watch.getD j {} = if j = immNat f.a then
              { armed := true, fired := met, addr := BitVec.ofNat 64 a, value := BitVec.ofNat 64 v, cmp := waitCmp f, scope := waitScope f }
            else s.fur.watch.getD j {})
        ∧ (met = true → s.scopeOk (waitScope f) pa = true → Completes (.waitv f) s (acquires (waitScope f) s))
        ∧ (met = false → s.launch.cancel = false →
            exec (.waitv f) s = .next { s with fur := { s.fur with
              status := .waitValue (BitVec.ofNat 64 a) (BitVec.ofNat 64 v) (waitCmp f) (waitScope f), waitFrom := s.steps, waitClk := s.cycles } }))
      ∧ (∀ n sz el, f.a = .xreg n sz el →
        let m := BitVec.ofNat 4 (immNat f.b)
        let slot := fun k => s.fur.watch.getD k {}
        let ready := fun k => m.getLsbD k && (slot k).armed && (slot k).fired
        (∀ k < 4, ready k = true → (∀ j < k, ready j = false) → s.scopeOk (slot k).scope (s.homePa (slot k).addr.toNat) = true →
          Completes (.waitvW f) s fun t =>
            (∀ j, t.fur.watch.getD j {} = if j = k then {} else slot j)
            ∧ t = { s with fur := t.fur, plot := { s.plot with acqAt := t.plot.acqAt }, core := { s.core with l1 := t.core.l1 }
                           rdc := t.rdc, checker := t.checker }
            ∧ s.sameRecords t ∧ (let b : State := { t with fur := { s.fur with watch := t.fur.watch } }
               if act = 0 then GoesOn b t else WritesX b n.toNat ⟨k, false⟩ t))
        ∧ ((∃ k < 4, m.getLsbD k = true ∧ (slot k).armed = true) → (∀ k < 4, ready k = false) → s.launch.cancel = false →
          exec (.waitvW f) s = .next { s with fur := { s.fur with
            status := .waitWatch (if act = 0 then none else some n) m, waitFrom := s.steps, waitClk := s.cycles } })))
  ∧ (
    ∀ (f : Args) (s : State),
      let act := s.active f.guard
      let t0 := s.uni act f.b
      let h := s.uni act f.c
      let now : Nat := s.timeNs % 2 ^ 64
      let b := s.clearDetres
      let δ := toSigned 64 (wrap 64 ((t0.v : Int) - now))
      let waits := fun (dest : Option (Operand × Mask × Bool)) =>
        Host.Outcome.next { b with fur := { s.fur with status := .waitTime (BitVec.ofNat 64 t0.v) dest, waitFrom := s.steps, waitClk := s.cycles } }
      (Readable s [f.b] →
        (t0.v ≤ now → Completes (.waitt f) s (GoesOn b))
        ∧ (now < t0.v → s.launch.cancel = false → exec (.waitt f) s = waits none))
      ∧ (Readable s [f.a, f.b, f.c] →
        (toSigned 64 h.v < δ → Completes (.waittD f) s (Writes b f.a act fun _ => ⟨wrap 64 (-δ), t0.p || h.p⟩))
        ∧ (δ ≤ toSigned 64 h.v → t0.v ≤ now → Completes (.waittD f) s (Writes b f.a act fun _ => ⟨wrap 64 (now - (t0.v : Int)), t0.p || h.p⟩))
        ∧ (δ ≤ toSigned 64 h.v → now < t0.v → s.launch.cancel = false → exec (.waittD f) s = waits (some (f.a, act, t0.p || h.p))))
      ∧ b.launch.comp.detres = false)

/-! ### Control -/

/-- R132, R133: uniform branches. A taken branch empties the latch window and goes to its own address plus eight times its
offset; the next frame otherwise. `BRDEC` counts an x-register down, and `JMP` goes to the address in one. -/
def Obligations.UniformBranches : Prop :=
  ∀ (f : Args) (s : State),
    let act := s.active f.guard
    let label := s.split.pc + (f.a.rawBits.signExtend 64) * 8
    let m := s.mask (maskNo f.b)
    let goes := fun (i : Instr) (taken : Prop) => (taken → Completes i s (GoesTo s label)) ∧ (¬taken → Completes i s (GoesOn s))
    goes (.br f) (act ≠ 0)
    ∧ goes (.brall f) (act ≠ 0 ∧ ∀ i < 32, act.getLsbD i = true → m.getLsbD i = true)
    ∧ goes (.brany f) (∃ i < 32, act.getLsbD i = true ∧ m.getLsbD i = true)
    ∧ goes (.brnone f) (act ≠ 0 ∧ ∀ i < 32, act.getLsbD i = true → m.getLsbD i = false)
    ∧ ∀ n sz el, f.b = .xreg n sz el → s.xp n.toNat = false →
        Completes (.brdec f) s (fun t =>
          let x := fun j => if j = n.toNat then ⟨(s.x n.toNat - 1).toNat, false⟩ else s.xsrc j
          if s.x n.toNat = 1 then RegEffect s t s.slice x s.mask s.fur.latches s.fur.npc else RegEffect s t s.slice x s.mask [] label)
        ∧ (act = 0 → Completes (.jmp f) s (GoesOn s))
        ∧ (act ≠ 0 → (s.x n.toNat).toNat % 8 = 0 → Completes (.jmp f) s (GoesTo s (s.x n.toNat)))

/-- R19, R134, R135: a branch or a jump per lane divides the split: every lane goes to its own destination, the split with
the lowest one keeps the entry, the others take free entries, and no other entry changes. Where all lanes agree nothing
divides. -/
def Obligations.Divergence : Prop :=
  ∀ (f : Args) (s : State), s.split.valid = true → s.m0 ≠ 0 →
    let act := s.active f.guard
    let label := s.split.pc + (f.a.rawBits.signExtend 64) * 8
    let free := (List.range 4).filter fun k => !(s.fur.splits.getD k {}).valid
    -- `ds`: the distinct destinations of the split's lanes
    let divides := fun (dest : Nat → Word) (ds : List Word) (t : State) =>
      (ds = [s.fur.npc] → GoesOn s t)
      ∧ (∀ d, ds = [d] → d ≠ s.fur.npc → GoesTo s d t)
      ∧ (2 ≤ ds.length →
        t = { s with fur := { s.fur with splits := t.fur.splits, latches := [], yields := t.fur.yields } }
        ∧ t.fur.yields = s.fur.yields + (if s.fur.npc.getLsbD 2 then 0 else 1)
        ∧ (∀ i ∈ lanesOf s.m0, ∃ k, (k = s.fur.cur ∨ k ∈ free) ∧ (t.fur.splits.getD k {}).valid = true
            ∧ (t.fur.splits.getD k {}).pc = dest i ∧ ∀ j < 32, (t.fur.splits.getD k {}).mask.getLsbD j = (s.m0.getLsbD j && decide (dest j = dest i)))
        ∧ (∀ i ∈ lanesOf s.m0, (t.fur.splits.getD s.fur.cur {}).pc.toNat ≤ (dest i).toNat)
        ∧ (∀ k, k ≠ s.fur.cur → t.fur.splits.getD k {} = s.fur.splits.getD k {} ∨ k ∈ free ∧ (t.fur.splits.getD k {}).pc ∈ ds))
    let fits := fun (dest : Nat → Word) (ds : List Word) =>
      ds.Nodup ∧ (∀ d, d ∈ ds ↔ ∃ i ∈ lanesOf s.m0, dest i = d) ∧ ds.length ≤ free.length + 1
    (let dest := fun i => if act.getLsbD i && (s.mask (maskNo f.b)).getLsbD i then label else s.fur.npc
     label ≠ s.fur.npc → ∀ ds, fits dest ds → Completes (.brd f) s (divides dest ds))
    ∧ (let dest := fun i => if act.getLsbD i then BitVec.ofNat 64 (s.src false 64 f.b i).v else s.fur.npc
       Readable s [f.b] → (∀ i ∈ lanesOf act, (s.src false 64 f.b i).p = false ∧ (s.src false 64 f.b i).v % 8 = 0) →
       s.fur.splits.length = 4 → ∀ ds, fits dest ds → Completes (.jmpd f) s (divides dest ds))

/-- R137, R52, R91: an end of a split frees its entry, whatever the guard, so that splits which waited for one try again; the last one
ends its furrow, whose entries become plot-visible and whose resources are released; `END` ends every split. A callee is returned by
either (R140): JOIN of its frame is one less at its home slice. The last furrow of a plot ends it (R15, R16), and the plot's areas are
released while the job keeps its others (R330). -/
def Obligations.Ends : Prop :=
  (
    ∀ (s : State), s.Focused → s.memWf →
      let leaves := fun (t : State) =>
        let seen := fun (e : SiloEntry) => if e.tag = s.fur.tag then { e with vis := true } else e
        t = { s with fur := {}, plot := { s.plot with silo := s.plot.silo.map seen, held := s.plot.held.map seen } }
      (2 ≤ (s.fur.splits.filter (·.valid)).length →
        Completes .exit s fun t =>
          t = { s with fur := { s.fur with splits := t.fur.splits, yields := t.fur.yields } }
          ∧ t.fur.yields = s.fur.yields + (if s.fur.npc.getLsbD 2 then 0 else 1)
          ∧ ∀ k, t.fur.splits.getD k {} = if k = s.fur.cur then {} else { s.fur.splits.getD k {} with held := false })
      ∧ (s.fur.ownFrame = none → (∃ g ∈ s.furs, g.plot = s.plot.id) →
        ((s.fur.splits.filter (·.valid)).length ≤ 1 → Completes .exit s leaves) ∧ Completes .endAll s leaves)
      -- the plot's last furrow: the plot ends, its launch counts it (R15, R16), and its areas are released (R330)
      ∧ (s.fur.ownFrame = none → (∀ g ∈ s.furs, g.plot ≠ s.plot.id) → (∀ q ∈ s.core.callq, q.plot ≠ s.plot.id) → s.ejobs = [] → s.core.seq = [] → s.core.red = [] →
          s.plot.held = [] → s.plot.silo = [] → s.plot.flags = 0 → s.launch.cancel = false → s.plot.runsApart = false →
          let mine := s.job.areas.filter fun (a : Area) => a.plot == s.plot.id
          Completes .endAll s fun t =>
            t.fur = {} ∧ t.plot = {} ∧ t.launch.comp.done = s.launch.comp.done + 1 ∧ t.launch.comp.failed = s.launch.comp.failed
            ∧ t.plots = s.plots ∧ t.furs = s.furs ∧ t.jobs = s.jobs ∧ t.launches = s.launches
            ∧ t.job = { s.job with
                areas := s.job.areas.filter fun (a : Area) => a.plot != s.plot.id
                pagesNear := s.job.pagesNear - (mine.map (·.pages)).foldl (· + ·) 0 }
            ∧ t.freed = (mine.map fun a => (a.pa, a.pages * pageSize)).reverse ++ s.freed
            ∧ t.mem = ((s.putComp t.launch.comp).freeAreas s.job.id s.plot.id).mem
            ∧ (mine = [] → t.cores = s.cores ∧ (s.launch.comp.pa ≠ 0 →
                Memory.readN t.mem s.launch.comp.pa 4 = (s.launch.comp.done + 1) % 2 ^ 32))))
  -- a callee, or a continuation that inherits a frame, is returned when it ends by either (R140)
  ∧ (∀ (s : State) (va : Word) (pa : Nat), s.Focused → s.fur.ownFrame = some va →
      s.jobPa s.job .store (va.toNat + 12) = some pa → (∀ e ∈ s.plot.entries, e.meetsPa pa 4 = false) → (∃ g ∈ s.furs, g.plot = s.plot.id) →
      s.memWf → (∀ k < 4, s.fixedByte (pa + k) = 0) →
      ((s.fur.splits.filter (·.valid)).length ≤ 1 → Completes .exit s (Returned s.shown va pa)) ∧ Completes .endAll s (Returned s.shown va pa))
  -- whatever the guard
  ∧ ∀ g : BitVec 4, decodeS (0b01#2 ++ 0x024#10 ++ g ++ 0#48 : BitVec 64) = .ok .exit
      ∧ decodeS (0b01#2 ++ 0x025#10 ++ g ++ 0#48 : BitVec 64) = .ok .endAll

/-- R138 to R143, R294: a call stores its frame, queues one callee per distinct target (or the continuation, where no lane is active)
and ends the split, and with its last split the furrow; a spawn queues a furrow; a return stores the live units of its lanes back to
its own frame, ends the furrow and decrements JOIN there, and the continuation is queued at 0.
THE MODEL'S CHOICE: that SPAWN checks its index first (log entry 67), that with no active lane it goes on (log entry 75), that its
boundary orders no operation on tiles or bins (log entry 82) and that CALL ends the caller without a decrement of JOIN (log entry 63)
are the model's readings. -/
def Obligations.CallsAndSpawns : Prop :=
  (
    ∀ (f : Args) (s : State),
      let act := s.active f.guard
      let e := fun i => s.src false 64 f.b i
      let label := s.split.pc + (f.a.rawBits.signExtend 64) * 8
      (∀ p ∈ ([(.call, none), (.calli, none), (.calliBudget, some (64 * immNat f.d))] : List ((Args → Instr) × Option Nat)),
        ∀ n, Readable s [f.b] → s.plot.team = 0 → (∀ i ∈ lanesOf act, (e i).p = false) →
          (∀ i ∈ lanesOf act, ∃ o r, s.callTarget (e i).v = some (o, r) ∧ ∀ u, p.2 = some u → entryBudget r ≤ u) →
          s.freeFrame = some n → s.frameStop (s.job.frameVa n) = none → s.core.callq.length + 32 ≤ 64 →
          let va := BitVec.ofNat 64 (s.job.frameVa n)
          let targets := callGroups act fun i => BitVec.ofNat 64 (e i).v
          let stored := (s.shown.putImage true va.toNat (s.frameItems label targets.length (liveBits s.fur.budget s.liveMap))).plot
          stored.held.length ≤ s.plot.heldRoom →
          let called := fun (fur : Furrow) (t : State) =>
            t = { s with
              fur := fur
              plot := { s.plot with silo := t.plot.silo, held := t.plot.held, entryNum := t.plot.entryNum }
              job := { s.job with frames := t.job.frames }, core := { s.core with callq := t.core.callq } }
            ∧ t.job.frames = { plot := s.plot.id, n := n, obj := s.fur.obj, budget := s.fur.budget, logical := s.fur.logical, parent := s.fur.ownFrame } :: s.job.frames
            ∧ t.core.callq = s.core.callq ++ (if targets = [] then [t.job.continuation s.plot.id va] else targets.map (s.callee va))
            ∧ t.plot = stored
          (2 ≤ (s.fur.splits.filter (·.valid)).length → Completes (p.1 f) s fun t =>
            called { s.fur with region := none, watch := List.replicate 4 {}, splits := t.fur.splits, yields := t.fur.yields } t
            ∧ t.fur.yields = s.fur.yields + (if s.fur.npc.getLsbD 2 then 0 else 1)
            ∧ (∀ k, t.fur.splits.getD k {} = if k = s.fur.cur then {} else { s.fur.splits.getD k {} with held := false }))
          ∧ (s.Focused → (s.fur.splits.filter (·.valid)).length ≤ 1 → Completes (p.1 f) s (called {})))
      ∧ (s.indexInUse (immNat f.c % 32) = false →
          (act = 0 → Completes (.spawn f) s (GoesOn s))
          ∧ (act ≠ 0 → s.core.callq.length < 64 →
            let q : Queued := { kind := .spawned, plot := s.plot.id, entryVa := s.fur.entryVa, pc := label, obj := s.fur.obj, budget := s.fur.budget
                                logical := BitVec.ofNat 5 (immNat f.c), mask := act, xregs := s.fur.xregs, xpoison := s.fur.xpoison
                                frame := none, parent := none }
            Completes (.spawn f) s (GoesOn { s with
              plot := { s.shown.plot with had := s.plot.had ||| BitVec.ofNat 32 (2 ^ (immNat f.c % 32)) }
              core := { s.core with callq := s.core.callq ++ [q] } }))))
  ∧ (
    ∀ (s : State) (va : Word) (pa : Nat), s.Focused → s.fur.ownFrame = some va → s.frameStop va.toNat = none →
      s.jobPa s.job .store (va.toNat + 12) = some pa → (∃ g ∈ s.furs, g.plot = s.plot.id) → s.memWf → (∀ k < 4, s.fixedByte (pa + k) = 0) →
      -- the units that LIVE of the frame lists, of the eight that a return writes back: data and poison bytes of the valid lanes (R294)
      let live := (s.view false (va.toNat + 16) 16).v
      let units := (List.range (min 8 (s.fur.budget / 8))).filter fun u => live.testBit u
      let stored := s.putImage false va.toNat (units.flatMap (unitData s.fur.lanes s.m0) ++ units.flatMap (unitPoison s.fur.lanes s.m0))
      stored.plot.held.length ≤ s.plot.heldRoom → (∀ e ∈ s.plot.entries ++ stored.plot.entries, e.meetsPa pa 4 = false) →
      Completes .ret s (Returned stored.shown va pa))

/-- R145, R146, R32, R33, R329: a yield empties the latch window and starts a new count; where a pre-emption is wanted the furrow
leaves with its live slices, and its context is written where it lies and nowhere else; `YIELD.W` goes on at its label, or leaves for
the pre-emption, where the stamp is met, and leaves to wait for it otherwise.
THE MODEL'S CHOICE: the layout inside a watch slot of the context is log entry 20's, and that a furrow which leaves counts as arrived
at its plot's barriers log entry 56's. -/
def Obligations.Yields : Prop :=
  ∀ (f : Args) (s : State), s.plot.team = 0 → s.launch.cancel = false →
    (∀ b ∈ s.plot.bars, b.parts &&& ~~~(b.arrived ||| s.savedMask ||| BitVec.ofNat 32 (2 ^ s.fur.logical.toNat)) ≠ 0) →
    let goesOn := fun (b : State) (pc : Word) (t : State) =>
      t = { b with fur := { s.fur with latches := [], yields := 0, region := none, watch := List.replicate 4 {}, splits := t.fur.splits } }
      ∧ ∀ k, t.fur.splits.getD k {} = if k = s.fur.cur then { s.split with pc := pc } else s.fur.splits.getD k {}
    let leaves := fun (b : State) (pc : Word) (st : FStatus) (t : State) =>
      t = { b with mem := t.mem, fur := { s.fur with
          latches := [], yields := 0, region := none, watch := List.replicate 4 {}, splits := t.fur.splits, lanes := t.fur.lanes
          status := st, active := false } }
      -- the context of the furrow as it leaves, with the live units of its slices, in its area (R329, R330)
      ∧ t.mem = (s.saveContext t.fur (some (liveBits s.fur.budget s.liveMap))).mem
      ∧ (s.memWf → s.fur.budget ≤ 1024 → ∀ a, (s.fur.ctxPa = 0 ∨ a < s.fur.ctxPa ∨ s.fur.ctxPa + 24576 ≤ a) → Memory.byte t.mem a = Memory.byte s.mem a)
      ∧ (s.memWf → s.fur.ctxPa ≠ 0 → s.fur.budget ≤ 1024 → ∀ u i, u < s.fur.budget / 8 → unitLive s.fur.budget s.liveMap u = true → i < 32 →
          Memory.readN t.mem (s.fur.ctxPa + 4096 + 256 * (u / 2) + 8 * i + 4 * (u % 2)) 4 = (s.lane i).read (8 * u) 32)
      ∧ (∀ k, t.fur.splits.getD k {} = if k = s.fur.cur then { s.split with pc := pc } else s.fur.splits.getD k {})
      ∧ ∀ i k, i < 32 → k < 1024 → t.slice i k = if unitLive s.fur.budget s.liveMap (k / 8) then s.slice i k else ⟨0, false⟩
    (s.plot.preempt = false → Completes .yield s (goesOn s s.fur.npc))
    ∧ (s.plot.preempt = true → Completes .yield s (leaves s s.fur.npc .saved))
    ∧ (∀ n sz el, f.b = .xreg n sz el → (s.fur.splits.filter (·.valid)).length ≤ 1 → s.xp n.toNat = false →
      let label := s.split.pc + (f.a.rawBits.signExtend 64) * 8
      let a := (s.x n.toNat).toNat
      let pa := (s.pa .load a).getD 0
      let v := (s.uni (s.active f.guard) f.c).v
      let w := Memory.readN s.mem pa 8
      Accessible s .load 8 8 [(s.uniLane (s.active f.guard), a)] →
      let waits := fun (i : Instr) (met : Bool) (cmp : Cmp) (sc : BitVec 3) =>
        (met = false → Completes i s (leaves s label (.waitStamp (s.x n.toNat) (BitVec.ofNat 64 v) cmp sc s.split.pc)))
        ∧ (met = true → s.scopeOk sc pa = true → Completes i s fun t =>
            let b : State := { s with
              plot := { s.plot with acqAt := t.plot.acqAt }, core := { s.core with l1 := t.core.l1 }, rdc := t.rdc, checker := t.checker }
            s.sameRecords t ∧ if s.plot.preempt then leaves b label .saved t else goesOn b label t)
      waits (.yieldW f) (decide (v ≤ w)) .ge (if f.wide then f.scope else 3)
      ∧ (Readable s [f.c] → waits (.yieldWWide f) (if f.xmod = 1 then decide (w = v) else decide (v ≤ w)) (if f.xmod = 1 then .eq else .ge) f.scope))

/-- R148, R34, R94, R341: arrival at a barrier shows the plot's entries; the last arrival lets every participant go on; one that a
pre-emption has saved counts as arrived, and stays saved.
THE MODEL'S CHOICE: that a participant saved by a pre-emption counts as arrived is the model's reading (log entry 56). -/
def Obligations.Barriers : Prop :=
  ∀ (f : Args) (s : State), s.Focused → s.fur.ownFrame = none → s.fur.status = .ready → (s.fur.splits.filter (·.valid)).length ≤ 1 → s.launch.cancel = false →
    let n := BitVec.ofNat 3 (immNat f.c)
    let parts := s.barParts f
    let me := BitVec.ofNat 32 (2 ^ s.fur.logical.toNat)
    let old := s.plot.bars.find? (·.n = n)
    let arrived := ((old.map (·.arrived)).getD 0) ||| me
    parts &&& me ≠ 0 → parts &&& ~~~s.plot.had = 0 → (∀ b, old = some b → b.parts = parts) →
    (∀ b ∈ s.plot.bars, b.n ≠ n → b.parts &&& ~~~(b.arrived ||| s.savedMask) ≠ 0) →
    let others := s.plot.bars.filter (·.n ≠ n)
    (parts &&& ~~~(arrived ||| s.savedMask) ≠ 0 → Completes (.bar f) s fun t =>
      t = { s with
        fur := { s.fur with status := .barrier n, waitFrom := s.steps, waitClk := s.cycles }
        plot := { s.shown.plot with bars := (match old with
          | some b => { b with
              arrived := arrived
              -- the lowest logical index of those that arrived first in the same clock (R341)
              fur := if b.since == s.cycles && (s.furOf b.fur).any fun g => decide (s.fur.logical.toNat < g.logical.toNat) then s.fur.id else b.fur }
          | none => { n := n, parts := parts, arrived := me, fur := s.fur.id, since := s.cycles }) :: others } })
    ∧ (parts &&& ~~~(arrived ||| s.savedMask) = 0 → Completes (.bar f) s fun t =>
      t.plot = { s.shown.plot with bars := others }
      ∧ (t.fur.status = .ready ∧ GoesOn { t with fur := { s.fur with status := .ready } } t)
      ∧ t.furs = s.furs.map (fun g => if g.plot = s.plot.id ∧ g.status = .barrier n then g.pass else g)
      ∧ t.mem = s.mem ∧ t.plots = s.plots ∧ t.launch = s.launch ∧ t.job = s.job)

/-- R36, R149, R20, R108, R127, R150: a region records where the furrow stands; hints do nothing; a cancel of a unit that has ended
does nothing, and one of a unit that runs acts on it. -/
def Obligations.RegionsHintsCancels : Prop :=
  ∀ (f : Args) (s : State),
    Completes .nop s (GoesOn s) ∧ Completes .hreuse s (GoesOn s) ∧ Completes .hlikely s (GoesOn s)
    ∧ Completes .region s (fun t =>
        GoesOn { s with fur := { s.fur with region := t.fur.region } } t
        -- the table is that of the boundary after it (R20), and the furrow's private entries are kept (R108)
        ∧ t.fur.region = some {
            at_ := s.split.pc, pc := s.fur.npc, masks := s.fur.masks, yields := t.fur.yields, restarts := 0
            splits := (t.fur.settled s.fur.splits s.fur.cur).splits
            own := s.plot.entries.filter fun e => e.tag == s.fur.tag && !e.vis })
    ∧ ∀ n sz el, f.b = .xreg n sz el → s.xp n.toNat = false →
        let va := s.x n.toNat
        let level := immNat f.c
        (level < 3 → (level, va) ∈ s.job.pastRecs → (∀ l ∈ s.launch :: s.launches, l.comp.va ≠ va) → (∀ g ∈ s.graphs, g.comp.va ≠ va) →
          (∀ z ∈ s.seasons, z.comp.va ≠ va) → Completes (.cancel f) s (GoesOn s))
        ∧ (∀ l ∈ s.launches, level = 0 → (∀ x ∈ s.launch :: s.launches, x.comp.va = va → x = l) → l.job = s.job.id → l.live = true → l.comp.va = va → l.id ≠ 0 →
          (∀ p ∈ s.plot :: s.plots, p.launch ≠ l.id) → (∀ x ∈ s.launch :: s.launches, x.id = l.id → x = l) →
          Completes (.cancel f) s fun t =>
            t.launches = (s.launches.map fun x => if x.id = l.id then { x with cancel := true } else x)
            ∧ GoesOn { t with fur := s.fur } t ∧ t.mem = s.mem ∧ t.plot = s.plot ∧ t.job = s.job)

/-! ### Faults, traps and the system -/

/-- R18, R325, R328: a precise fault writes its trap record (program counter, words and lanes of the issuing split) and the
furrow leaves; the host is told of USER and RNGWRAP, and every other cause but LEGACY ends the job (R324, R326). A full trap
queue makes the furrow wait. In a sampled plot a fault that ends the job is held until the second run has ended with the same one.
THE MODEL'S CHOICE: that the queue's addresses are physical (log entry 8) and what stands for the second run (log entry 38) are the
model's readings. -/
def Obligations.PreciseFaults : Prop :=
  ∀ (s : State) (r : TrapRec),
    let q := s.fillTrap r
    (s.plot.sampled = true → disposition r.cause = .endJob → s.plot.second ≠ .alike → s.plot.second ≠ .apart (.fault r.cause) →
      s.takeFault r = .next { s with plot := { s.plot with runFault := some r.cause } })
    ∧ (s.plot.holdsFault r.cause = false → s.trapsFull = true → s.launch.cancel = false → (savesPlot r.cause && s.countsOpen) = false →
      s.takeFault r = .next { s with fur := { s.fur with status := .trapFull { q with time := some s.timeNs }, waitFrom := s.steps, waitClk := s.cycles } })
    ∧ (s.plot.holdsFault r.cause = false → TrapRoom s → savesPlot r.cause = false → (∀ x ∈ s.rets, x.fur ≠ s.fur.id) →
      let u := s.saveContext s.fur none
      let e := (qHead s.mem s.plot.trapq.toNat).slot 256
      q.pc = s.split.pc ∧ q.split = s.m0 ∧ q.lanes = r.lanes ∧ q.addr = r.addr ∧ q.cause = r.cause ∧
      ∃ t, Trapped s q t ∧
        s.takeFault r = (match disposition r.cause with
          | .host => .next (t.send 0x81 s.job.slot s.job.asid ((List.range 32).map fun i => Memory.word t.mem (e + 8 * i)))
          | .service => .next t
          | .endJob => .next ((if s.job.faulted = none then t.setJob { s.job with
                endBody := itemWords 32 (u.trapItems { q with returned := true } s.fur) } else t).endJob
              s.job.id s.launch.id r.cause)))

/-- R46, R42, R53, R131: an integer instruction of a value class is ILLEGAL, an operand beyond the grant is BUDGET, and a latch
source beyond the window is LATCH, in this order and whatever the lanes. A word that names no instruction is ILLEGAL, outside the
code range PCRANGE, and in the privileged block PRIV where the furrow has no privilege. -/
def Obligations.NamesAreChecked : Prop :=
  (
    ∀ mk ∈ ([.addInt, .subInt, .mulInt, .mulh, .minInt, .maxInt, .absInt, .negInt, .adds, .subs, .muls, .and, .or, .xor, .andn, .not, .mov, .shl,
        .shr, .sar, .rotl, .rotr, .popc, .clz, .ctz, .ext, .ins, .bfx, .bfi, .mad, .lea, .mulhi, .brev, .divInt, .xadd, .xsub, .xmul, .xand, .xior,
        .xshl, .xshr, .cmpEqInt, .cmpNeInt, .cmpLtInt, .cmpLeInt, .cmpGtInt, .cmpGeInt] : List (Args → Instr)),
      ∀ (f : Args) (s : State),
        (fmtIsClass f.fmt = true → exec (mk f) s = s.takeFault { cause := .illegal })
        ∧ (fmtIsClass f.fmt = false → (∃ o ∈ f.operands, o.inBudget s.fur.budget = false) → exec (mk f) s = s.takeFault { cause := .budget })
        ∧ (fmtIsClass f.fmt = false → (∀ o ∈ f.operands, o.inBudget s.fur.budget = true) →
            (∃ o ∈ f.operands, o.inWindow s.fur.latches.length = false) → exec (mk f) s = s.takeFault { cause := .latch }))
  ∧ ∀ (s : State) (r : Reject), s.input = .reservedOpcode r →
      let c := match r with
        | .outsideRange => Cause.pcrange
        | .privBlock _ | .privField _ => if s.fur.priv then .illegal else .priv
        | _ => .illegal
      exec .reservedOpcode s = s.takeFault { cause := c }
      ∧ (TrapRoom s → Completes .reservedOpcode s fun t => t.trapSeq = s.trapSeq + 1)

/-- R222, R223, R225, R226, R349 to R351: a read of a system register completes with its value (reads of time and of places clear
DETRES, and a count of legacy uses that has reached its maximum reads as saturated, R130); a privileged write of one, of the
sluice table, and the invalidations of translations complete in a privileged furrow. Without privilege they raise PRIV, and
registers that are not listed ILLEGAL.
THE MODEL'S CHOICE: what these instructions do without an active lane is the model's reading (log entry 57). -/
def Obligations.PrivilegedOperations : Prop :=
  (
    ∀ (f : Args) (s : State),
      let n := immNat f.b
      let act := s.active f.guard
      let count := fun (k : Nat) => if k < 2 ^ 63 - 1 then k else 2 ^ 64 - 1
      let listed : List (Nat × Nat) :=
        [(0x000, s.timeNs % 2 ^ 64), (0x001, s.cycles % 2 ^ 64), (0x002, s.plot.core - 1), (0x003, s.plot.lplot),
         (0x004, if s.launch.det then s.plot.lcore else s.plot.core - 1), (0x005, s.fur.logical.toNat), (0x006, s.fur.deadline), (0x007, count s.job.legmc),
         (0x008, count s.job.legtr), (0x009, s.plot.cruise), (0x00A, s.plot.barto), (0x00B, 0x000FFFFFFFFF0000), (0x00C, s.spillArea),
         (0x00D, s.job.ctableVa.toNat % 2 ^ 52 + s.job.ctableN.toNat * 2 ^ 52), (0x00E, s.job.asid.toNat), (0x00F, s.launch.seed.toNat),
         (0x100, s.trapq.toNat), (0x101, s.faultq.toNat)] ++ (List.range 96).map fun z => (0x180 + z, (s.zone z).entry.toNat)
      let privileged := n = 0x100 ∨ n = 0x101 ∨ (0x180 ≤ n ∧ n ≤ 0x1DF)
      (∀ v d sz el, (n, v) ∈ listed → f.a = .xreg d sz el → (privileged → s.fur.priv = true) →
        ∃ t, exec (.mfs f) s = .next t ∧
          (act = 0 → GoesOn s t) ∧ (act ≠ 0 → WritesX (if n ∈ [0, 1, 2, 7, 8] then s.clearDetres else s) d.toNat ⟨v, false⟩ t))
      ∧ (privileged → s.fur.priv = false → exec (.mfs f) s = s.takeFault { cause := .priv })
      ∧ ((privileged → s.fur.priv = true) → (∀ v, (n, v) ∉ listed) → exec (.mfs f) s = s.takeFault { cause := .illegal }))
  ∧ (
    ∀ (f : Args) (s : State) x sz el, f.b = .xreg x sz el →
      let k := immNat f.a
      let v := s.x x.toNat
      let legal := (k = 9 ∧ (v.toNat = 0 ∨ (4 ≤ v.toNat ∧ v.toNat ≤ 16))) ∨ k = 0xA ∨ k = 0x100 ∨ k = 0x101
      (s.fur.priv = true → legal → ∃ t, exec (.mts f) s = .next t ∧ GoesOn { s with
          cruise := if k = 9 then v.toNat else s.cruise, barto := if k = 0xA then v.toNat else s.barto
          trapq := if k = 0x100 then v else s.trapq, faultq := if k = 0x101 then v else s.faultq } t)
      ∧ (s.fur.priv = false → exec (.mts f) s = s.takeFault { cause := .priv })
      ∧ (s.fur.priv = true → ¬legal → exec (.mts f) s = s.takeFault { cause := .illegal }))
  ∧ (
    ∀ (f : Args) (s : State), s.Focused → s.fur.priv = true →
      let lane := s.uniLane (s.active f.guard)
      let drops := fun (pick : TlbEntry → Bool) => GoesOn { s with
        core := { s.core with tlb := s.core.tlb.filter (!pick ·) }
        cores := s.cores.map (fun c => { c with tlb := c.tlb.filter (!pick ·) })
        tcache := s.tcache.filter (fun p => !pick p.2) }
      (∃ t, exec (.xlinvAll f) s = .next t ∧ drops (fun _ => true) t)
      ∧ (∃ t, exec (.xlsync f) s = .next t ∧ GoesOn s t)
      ∧ (Readable s [f.b] → ∃ t, exec (.xlinvAsid f) s = .next t ∧
          drops (fun e => e.asid == BitVec.ofNat 16 (s.src false 16 f.b lane).v) t)
      ∧ (∀ x sz el, Readable s [f.c] → f.b = .xreg x sz el → ∃ t, exec (.xlinvVa f) s = .next t ∧
          drops (fun e => e.asid == BitVec.ofNat 16 (s.src false 16 f.c lane).v
            && decide (e.va ≤ (s.x x.toNat).toNat ∧ (s.x x.toNat).toNat < e.va + e.size)) t)
      ∧ (∀ x sz el, Readable s [f.b] → f.c = .xreg x sz el → s.zones.length = 96 →
          let z := (s.own 64 f.b lane).v
          let v := s.x x.toNat
          let old := s.zone z
          let step := (v.extractLsb' 0 4).toNat
          z < 96 → (v.extractLsb' 4 4).toNat ≤ step → s.dieSteps (z / 24) - old.step + step ≤ 288 → old.dry = false → old.drain = none →
          v.extractLsb' 56 4 = 0 →
          ∃ t, exec (.sluice f) s = .next t
            ∧ GoesOn { t with fur := s.fur } t
            ∧ t = { s with fur := t.fur, plot := { s.plot with preempt := t.plot.preempt }, plots := t.plots, zones := t.zones }
            ∧ (∀ y, y ≠ z → t.zone y = s.zone y)
            ∧ (∀ k < 60, (t.zone z).entry.getLsbD k = v.getLsbD k)
            ∧ (t.zone z).dry = old.dry ∧ (t.zone z).wet = old.wet
            ∧ (if step = old.step then (t.zone z).settled = old.settled ∧ (t.zone z).timer = old.timer
               else (t.zone z).settled = false ∧ (t.zone z).timer = some (s.timeNs + 40000000)
                 ∧ (t.zone z).effHeld = min old.effStep step)))
  ∧ ∀ (f : Args) (s : State), s.fur.priv = false → ∀ mk ∈ ([.sluice, .xlinvVa, .xlinvAsid, .xlinvAll, .xlsync] : List (Args → Instr)),
      exec (mk f) s = s.takeFault { cause := .priv }

/-- R224, R323, R328: a USER trap writes a record whose program counter is the next frame's, and tells the host; in a privileged
furrow a code from 512 up is a kernel call, whose result is in x1. A privileged furrow resumes the furrow of a trap record: the
record says RETURNED, and the furrow waits for a slot at its saved place. A retired unit is on the module's list.
THE MODEL'S CHOICE: that a kernel call and its record are one step (log entry 10), where its arguments stand (log entry 25)
and unit numbers (log entry 24) are the model's choice. -/
def Obligations.Traps : Prop :=
  (
    ∀ (s : State), s.Focused →
      let user := fun (i : Instr) (k : Nat) =>
        TrapRoom s → (∀ x ∈ s.rets, x.fur ≠ s.fur.id) → Completes i s fun t =>
          ∃ u, Trapped { s with fur := u.fur } { s.fillTrap { cause := .user, code := BitVec.ofNat 10 k } with pc := s.fur.npc } u
            ∧ EndsRegion { s with fur := { s.fur with status := u.fur.status, active := false } } { s with fur := u.fur }
            ∧ t = u.send 0x81 s.job.slot s.job.asid ((List.range 32).map fun i => Memory.word u.mem ((qHead s.mem s.plot.trapq.toNat).slot 256 + 8 * i))
      let kernel := fun (i : Instr) (k : Nat) =>
        (qHead s.mem s.plot.trapq.toNat).room (if k = 515 then 2 else 1) = true → s.callWait k = none →
          let r := ((s.advance.endRegion).handledRecord (s.trapRec k)).kernelCall k
          r.1.fur.id = s.fur.id → Completes i s fun t =>
            t = { r.1 with fur := { r.1.fur with xregs := t.fur.xregs, xpoison := t.fur.xpoison } }
            ∧ ∀ j < 64, t.xsrc j = if j = 1 then ⟨r.2, false⟩ else r.1.xsrc j
      (∀ p ∈ ([(.kmap, 512), (.kunmap, 513), (.kmove, 514), (.kend, 515), (.kevent, 516), (.kretire, 517)] : List (Instr × Nat)),
        (s.fur.priv = false → user p.1 p.2) ∧ (s.fur.priv = true → kernel p.1 p.2))
      ∧ (∀ f : Args, let k := immNat f.c
          (s.fur.priv = false ∨ k < 512 → user (.trap f) k) ∧ (s.fur.priv = true → 512 ≤ k → kernel (.trap f) k)))
  ∧ (
    (∀ (f : Args) (s : State) (x : BitVec 6) (sz : BitVec 2) (el : BitVec 3) (pa : Nat) (g : Furrow) (seq : Nat) (c : Cause) (at_ : Nat),
      s.Focused → f.b = .xreg x sz el → s.fur.priv = true → s.xp x.toNat = false →
      s.spanStop .load ((lowest s.m0).getD 0) (s.x x.toNat).toNat 256 = none → s.pa .load (s.x x.toNat).toNat = some pa →
      g ∈ s.furs → g.id ≠ 0 → g.status = .trapped seq c at_ pa → (∀ h ∈ s.fur :: s.furs, ∀ q c a e, h.status = .trapped q c a e → h = g) → (∀ h ∈ s.furs, h.id = g.id → h = g) →
      Memory.readN s.mem (pa + 88) 8 = seq → (Memory.readN s.mem pa 4).testBit 18 = false → s.memWf →
      Completes (.tret f) s fun t =>
        t = { s with fur := t.fur, furs := s.furs.map (fun h => if h.id = g.id then { h with status := .returning, waitFrom := s.steps, waitClk := s.cycles } else h), mem := t.mem }
        ∧ GoesOn { t with fur := s.fur } t
        ∧ Memory.byte t.mem (pa + 2) = Memory.byte s.mem (pa + 2) ||| 4 ∧ ∀ a, a ≠ pa + 2 → Memory.byte t.mem a = Memory.byte s.mem a)
    ∧ (∀ (f : Args) (s : State), s.fur.priv = false → exec (.tret f) s = s.takeFault { cause := .priv })
    ∧ (∀ (s : State) (u : UnitId), unitOf (s.x 2).toNat = some u →
        (match u with
         | .channel n => u ∈ (s.kernelCall 517).1.fleet.retired ∨ n ∈ (s.kernelCall 517).1.fleet.draining
         | _ => u ∈ (s.kernelCall 517).1.fleet.retired) ∧ (s.kernelCall 517).2 = 0)
    ∧ (∀ s : State, unitOf (s.x 2).toNat = none → s.kernelCall 517 = (s, 3))
    ∧ ∀ (s : State), (∀ j ∈ s.allJobs, j.live = true → j.asid ≠ BitVec.ofNat 16 (s.x 2).toNat) → ∀ k ∈ [512, 513, 514, 515], s.kernelCall k = (s, 1))

/-! ### Engine jobs at issue -/

/-- R38, R211, R212, R213, R217, R220: records and templates are checked and stored; copies, collectives and network jobs are
issued with what they were read as, once a checkpoint has committed the plot's stores. The checkpoint stands at the instruction, or
past it where a relaunch must not issue the job again.
THE MODEL'S CHOICE: that a chain table is read at issue (log entry 22), which jobs a relaunch issues again, and that a checkpoint
has the furrow past such an effect (log entry 47), where a checkpoint's copies lie (log entry 40), the lane that a `SHAPE` or `TREC`
without active lanes names (log entry 57), and which lines another plot shares (log entry 77) are the model's readings. -/
def Obligations.EngineIssue : Prop :=
  ∀ (f : Args) (s : State), s.Focused → s.memWf → s.rets = [] →
    let act := s.active f.guard
    let lane := s.uniLane act
    let b := (s.uni act f.b).v
    let issues := fun (e : EJob) (t : State) =>
      t.ejobs = s.ejobs ++ [{ e with id := s.nextId }] ∧ t.nextId = s.nextId + 1 ∧ EndsRegion s t
      ∧ (if e.once then Checkpointed s t else CheckpointedAt s t)
      ∧ t = { s with
          fur := t.fur, plot := { s.plot with silo := [], held := [], chans := t.plot.chans, check := t.plot.check }
          core := { s.core with l1 := t.core.l1 }, mem := t.mem, poisoned := t.poisoned, l2 := t.l2, rdc := t.rdc, ejobs := t.ejobs, nextId := t.nextId }
      ∧ ∀ pa, ¬s.inCopies pa → Memory.byte t.mem pa = drained s pa
    (s.paged .store → s.ownNewest → s.plot.held.length + s.plot.silo.length + 2 ≤ s.plot.heldRoom → Readable s [f.a, f.b] →
      (s.uni act f.b).p = false → Accessible s .load 64 64 [(lane, b)] →
      let d := s.view false b 64
      -- the draft's lines are read into the caches, and poison in them is noted
      let filled := fun (t : State) => { s with
        plot := { s.plot with eccSeen := t.plot.eccSeen }, core := { s.core with l1 := t.core.l1 }, rdc := t.rdc }
      (∀ r, (s.uni act f.a).p = false → Accessible s .store 64 64 [(lane, (s.uni act f.a).v)] → s.recOf d.v = some r →
        (d.p = true → (s.pa .store (s.uni act f.a).v).any s.lineShared = false) →
        Completes (.shape f) s fun t => StoreEffect (filled t) false [((s.uni act f.a).v, 64, r, d.p)] t)
      ∧ (let k := s.uniN 16 act f.a
         k.p = false → k.v < s.job.templates → s.draftStop lane b d.v = none → Accessible s .store 64 64 [(lane, s.job.templateAt k.v)] →
         (d.p = true → (s.pa .store (s.job.templateAt k.v)).any s.lineShared = false) →
         Completes (.trec f) s fun t => StoreEffect (filled t) false [(s.job.templateAt k.v, 64, d.v, d.p)] t))
    ∧ (∀ p ∈ ([(.cpy, false), (.cpym, true)] : List ((Args → Instr) × Bool)),
        let ch := (f.a.rawBits).toNat % 16
        let i := (f.b.rawBits).toNat % 64
        let r := (f.c.rawBits).toNat % 64
        (act = 0 → Completes (p.1 f) s (GoesOn s))
        ∧ (act ≠ 0 → s.xp i = false → s.xp r = false → ∀ e secs, s.copyJob ((lowest act).getD 0) (some p.2) ch (s.x i).toNat (s.x r).toNat = .ok (e, secs) →
            s.issueStop e = none → s.checkBlocked = false → s.plot.chans.length = 16 →
            Completes (p.1 f) s fun t => issues e t ∧ e.kind.isCopy = true ∧ e.chan = ch
              ∧ ∀ k, t.plot.chans.getD k {} = if k = ch then { index := s.x i } else s.plot.chans.getD k {}))
    ∧ (∀ p ∈ ([(.coll, 1, .coll), (.nwr, 2, .nwr), (.nrd, 3, .nrd)] : List ((Args → Instr) × Nat × JKind)),
        (act = 0 → Completes (p.1 f) s (GoesOn s))
        ∧ (act ≠ 0 → Readable s [f.b] → (s.uni act f.b).p = false → Accessible s .load 64 64 [(lane, b)] → ∀ cw s1 table s2, s.fetchView lane b 64 = .ok (cw, s1) →
            cardOk p.2.1 cw = true → (p.2.1 = 1 → s.fetchView lane (cardParse cw).peer (4 * (cardParse cw).n) = .ok (table, s2)) →
            (p.2.1 = 1 → ∀ r < (cardParse cw).n, bitsOf table (32 * r + 16) 16 = 0) →
            let e := s.newJob p.2.2 0 cw 0 0 (cardParse cw).regions
            s.issueStop e = none → s.checkBlocked = false → Completes (p.1 f) s fun t => issues e t ∧ t.plot.chans = s.plot.chans))

/-! ### Tiles, bins and the sequencer's queue -/

/-- R228, R231 to R233, R243: outside a team, tile-side instructions act at once on tiles and bins, close the region, and
change nothing else: a tile's control word; a row or the scales of a tile, by 8 bytes per lane; a row of a bin, by two
elements per lane, and its harrow record.
THE MODEL'S CHOICE: that TGET and BGET end no region and what BSET leaves in a record are the model's readings (log entry
59). -/
def Obligations.TilesAndBins : Prop :=
  ∀ (f : Args) (s : State), s.fur.status = .ready → (s.fur.splits.filter (·.valid)).length ≤ 1 → s.plot.team &&& s.me = 0 →
    (∀ o ∈ s.core.seq, o.listed = []) →
    let act := s.active f.guard
    (∀ k u rows bytes (c : ClassRes), k = f.a.rawBits.toNat % 16 → s.tile k = some u → Readable s [f.b, f.c] →
      (s.uniU act f.b).p = false → (s.uniU act f.c).p = false → rows = (s.uniU act f.b).v → bytes = (s.uniU act f.c).v →
      s.resolve f.fmt = some c → tcfgOk c.fmt rows bytes (c.scheme == 1 || f.ext) = true → s.tileNamed k = false →
      Completes (.tcfg f) s fun t =>
        GoesOn { s.unregioned with plot := { s.plot with tiles := t.plot.tiles } } t
        ∧ (∀ j, j ≠ k → t.tile j = s.tile j)
        ∧ ∃ v, t.tile k = some v ∧ v.bytes = u.bytes ∧ v.scales = u.scales ∧ tileFmt v = c.fmt ∧ tileRows v = rows ∧ tileRowBytes v = bytes
          ∧ tileScaled v = (c.scheme == 1 || f.ext) ∧ tileValid v = true)
    ∧ (∀ k u row, k = f.b.rawBits.toNat % 16 → s.tile k = some u → Readable s [f.a, f.c] → (s.uniU act f.c).p = false → row = (s.uniU act f.c).v →
        s.tileBusy s.me k = false → tileValid u = true → (row < tileRows u ∨ row = 128) →
        Completes (.tget f) s fun t => ∃ w : Nat → Nat, Writes s f.a act (fun i => ⟨w i, false⟩) t ∧
          ∀ i < 32, w i < 2 ^ 64 ∧ ∀ b < 8, w i / 256 ^ b % 256 =
            if row = 128 then (if i < 8 then (sget (0x7F : Byte) u.scales (8 * i + b)).toNat else 0)
            else if 8 * i + b < tileRowBytes u then (sget (0 : Byte) u.bytes (row * tileRowBytes u + 8 * i + b)).toNat else 0)
    ∧ (∀ k u row, k = f.a.rawBits.toNat % 16 → s.tile k = some u → Readable s [f.b, f.c] → (s.uniU act f.b).p = false → row = (s.uniU act f.b).v →
        (∀ i ∈ lanesOf act, (s.src false 64 f.c i).p = false) → s.tileBusy s.me k = false → tileValid u = true → (row < tileRows u ∨ row = 128) →
        swf (0 : Byte) u.bytes = true → swf (0x7F : Byte) u.scales = true →
        Completes (.tset f) s fun t =>
          GoesOn { s.unregioned with plot := { s.plot with tiles := t.plot.tiles } } t
          ∧ (∀ j, j ≠ k → t.tile j = s.tile j)
          ∧ ∃ v, t.tile k = some v ∧ v.ctl = u.ctl
            ∧ (∀ p, let q := p - row * tileRowBytes u
                sget (0 : Byte) v.bytes p =
                  if row ≠ 128 ∧ row * tileRowBytes u ≤ p ∧ q < tileRowBytes u ∧ act.getLsbD (q / 8) = true then
                    BitVec.ofNat 8 ((s.src false 64 f.c (q / 8)).v / 256 ^ (q % 8))
                  else sget (0 : Byte) u.bytes p)
            ∧ (∀ p, sget (0x7F : Byte) v.scales p =
                  if row = 128 ∧ p < 64 ∧ act.getLsbD (p / 8) = true then BitVec.ofNat 8 ((s.src false 64 f.c (p / 8)).v / 256 ^ (p % 8))
                  else sget (0x7F : Byte) u.scales p))
    ∧ (∀ n u sel, n = f.b.rawBits.toNat % 64 → s.bin n = some u → Readable s [f.a, f.c] → (s.uniU act f.c).p = false → sel = (s.uniU act f.c).v → sel < 272 →
        (256 ≤ sel → s.recordBusy s.me n = false) →
        (let v := fun i => if sel < 256 then
              (sget (0 : BitVec 32) u.elems (128 * (sel / 2) + 64 * (sel % 2) + 2 * i)).toNat
                + (sget (0 : BitVec 32) u.elems (128 * (sel / 2) + 64 * (sel % 2) + 2 * i + 1)).toNat * 2 ^ 32
            else (sget (0 : BitVec 256) u.recs (32 * ((sel - 256) / 4) + i)).toNat / 2 ^ (64 * (sel % 4)) % 2 ^ 64
         (f.d = .none → Completes (.bget f) s (Writes s f.a act fun i => ⟨v i, false⟩))
         ∧ (∀ x sz el, f.d = .xreg x sz el → Completes (.bget f) s fun t =>
            RegEffect s t (newSlice s f.a act fun i => ⟨v i, false⟩)
              (fun j => if j = x.toNat ∧ sel < 256 ∧ s.active f.g1 ≠ 0 then ⟨u.step % 2 ^ 64, false⟩ else newX s f.a act (fun i => ⟨v i, false⟩) j) s.mask
              (newLatches s f.a act fun i => ⟨v i, false⟩) s.fur.npc)))
    ∧ (∀ n u sel, n = f.a.rawBits.toNat % 64 → s.bin n = some u → Readable s [f.b, f.c] → (s.uniU act f.b).p = false → sel = (s.uniU act f.b).v →
        (sel < 256 ∨ (sel < 272 ∧ sel % 4 = 0)) → (∀ i ∈ lanesOf act, (s.src false 64 f.c i).p = false) → s.binOrdered s.me n = false →
        (256 ≤ sel → s.recordBusy s.me n = false) → u.busy = false → swf (0 : BitVec 32) u.elems = true → swf (0 : BitVec 256) u.recs = true →
        Completes (.bset f) s fun t =>
          GoesOn { s.unregioned with plot := { s.plot with bins := t.plot.bins } } t
          ∧ (∀ j, j ≠ n → t.bin j = s.bin j)
          ∧ ∃ v, t.bin n = some v ∧ v = { u with elems := v.elems, recs := v.recs }
            ∧ (∀ p, let q := p - (128 * (sel / 2) + 64 * (sel % 2))
                sget (0 : BitVec 32) v.elems p =
                  if sel < 256 ∧ 128 * (sel / 2) + 64 * (sel % 2) ≤ p ∧ q < 64 ∧ act.getLsbD (q / 2) = true then
                    BitVec.ofNat 32 ((s.src false 64 f.c (q / 2)).v / 2 ^ (32 * (q % 2)))
                  else sget (0 : BitVec 32) u.elems p)
            ∧ (∀ r k, k < 256 → (sget (0 : BitVec 256) v.recs r).getLsbD k =
                  if sel < 256 then (if r = sel / 2 ∧ act ≠ 0 ∧ k = 78 then false else (sget (0 : BitVec 256) u.recs r).getLsbD k)
                  else
                    let base := 32 * ((sel - 256) / 4)
                    if base ≤ r ∧ r < base + 32 ∧ act.getLsbD (r - base) = true ∧ k < 64 then (s.src false 64 f.c (r - base)).v.testBit k
                    else (sget (0 : BitVec 256) u.recs r).getLsbD k))

/-- R233, R234, R257, R34: a first value sets the plot's team register and each furrow's count; the value that stands is confirmed,
and others are illegal. In a team, an instruction waits at its yoke until every listed furrow has issued the same one; a furrow
saved at a yield counts as arrived; a different instruction is a YOKEMIS fault; the last arrival lets all of them go on (here of
BCLR, whose operands are the word's own, and of TEAM with another value, of which zero dissolves the team and others are illegal).
THE MODEL'S CHOICE: that TEAM holds its mask against the live furrows of the plot is the model's reading (log entry 60). -/
def Obligations.TeamsAndYokes : Prop :=
  (
    ∀ (f : Args) (s : State) (v : BitVec 11), s.Focused → s.fur.status = .ready → (s.fur.splits.filter (·.valid)).length ≤ 1 → s.fur.ownFrame = none → (∀ o ∈ s.core.seq, o.listed = []) →
      f.b = .imm v →
      let m := v.signExtend 32
      (s.plot.team = 0 → m ≠ 0 → 2 ≤ countBits 32 m.getLsbD → countBits 32 m.getLsbD ≤ 6 → m &&& s.me ≠ 0 →
        (∀ k < 32, m.getLsbD k = true → ∃ g ∈ s.fur :: s.furs, g.plot = s.plot.id ∧ g.logical.toNat = k ∧ g.id ≠ 0) →
        Completes (.team f) s (GoesOn { s with
          fur := { s.fur with region := none, yokes := 0 }, plot := { s.plot with team := m, yokes := [] }
          furs := s.furs.map (fun g => if g.plot = s.plot.id then { g with yokes := 0 } else g) }))
      ∧ (s.plot.team ≠ 0 → m = s.plot.team → Completes (.team f) s (GoesOn s.unregioned))
      ∧ (s.plot.team = 0 → m = 0 → Completes (.team f) s (GoesOn s.unregioned))
      ∧ (m ≠ 0 → m ≠ s.plot.team →
          (if s.plot.team = 0 then 6 < countBits 32 m.getLsbD ∨ countBits 32 m.getLsbD < 2 else s.plot.team &&& s.me = 0) →
          exec (.team f) s = s.takeFault { cause := .illegal }))
  ∧ (
    ∀ (f : Args) (i : Instr) (ref : List Word) (s : State), s.Focused → s.fur.status = .ready → s.launch.cancel = false →
      (s.fur.splits.filter (·.valid)).length ≤ 1 → s.plot.team &&& s.me ≠ 0 → (∀ o ∈ s.core.seq, o.listed = []) →
      let bclr := i = .bclr f ∧ ref = []
      let team := fun (m : Mask) => i = .team f ∧ s.fur.ownFrame = none ∧ m ≠ s.plot.team ∧
        ∃ v, f.b = .imm v ∧ m = v.signExtend 32 ∧ ref = [BitVec.ofNat 64 (s.uniU (s.active f.guard) f.b).v]
      (bclr ∨ ∃ m, team m) →
      let j := s.fur.yokes + 1
      let old := s.plot.yokes.find? (·.j = j)
      let here := ((old.map (·.arrived)).getD 0 ||| s.me ||| s.savedMask) &&& s.plot.team
      let waits := fun (y : Yoke) => exec i s = .next { s with
        fur := { s.fur with status := .yoke j, waitFrom := s.steps, waitClk := s.cycles }
        plot := { s.plot with yokes := y :: s.plot.yokes.filter (·.j ≠ j) } }
      (old = none → here ≠ s.plot.team → waits { j := j, instr := i, ref := ref, arrived := s.me, fur := s.fur.id, since := s.cycles })
      ∧ (∀ y, old = some y →
        ((y.instr ≠ i ∨ y.ref ≠ ref) → exec i s = s.takeFault { cause := .yokemis, arrived := y.arrived, yokeJ := BitVec.ofNat 16 j })
        ∧ (y.instr = i → y.ref = ref → here ≠ s.plot.team → waits { y with arrived := y.arrived ||| s.me }))
      ∧ (here = s.plot.team → (∀ y, old = some y → y.instr = i ∧ y.ref = ref) →
        let passes := fun (t : State) =>
          GoesOn { t with fur := { s.fur with region := none, yokes := j } } t
          ∧ t.plot.yokes.find? (·.j = j) = none
          ∧ ∀ g ∈ s.furs, g.plot = s.plot.id → g.status = .yoke j → { g.pass with yokes := j, region := none } ∈ t.furs
        (bclr → (s.bin (f.a.rawBits.toNat % 64)).isSome = true → s.core.seq.length < 16 →
          Completes i s fun t => passes t ∧ t.plot.team = s.plot.team
            ∧ t.furs = s.furs.map (fun g =>
                if g.plot = s.plot.id ∧ g.status = .yoke j then { g.pass with yokes := j, region := none }
                else if g.plot = s.plot.id ∧ g.status = .saved ∧ s.plot.team.getLsbD g.logical.toNat = true then { g with yokes := j } else g)
            ∧ ∃ o ∈ t.core.seq, o.kind = .bclr (f.a.rawBits.toNat % 64) ∧ o.issuers = s.plot.team ∧ o.id = s.nextId)
        ∧ (team 0 → Completes i s fun t => passes t ∧ t.plot.team = 0)
        ∧ ∀ m, team m → m ≠ 0 → exec i s = s.takeFault { cause := .illegal }))

/-- R228, R229, R235, R236, R239, R242, R245, R246, R252, R253, R255: outside a team, operations on tiles and bins enter the
queue of the core's sequencer, with the operands that their fields name, once their checks hold.
THE MODEL'S CHOICE: that PRJADJ waits at issue for operations that write its records is the model's reading (log entry 28). -/
def Obligations.QueuedOperations : Prop :=
  ∀ (f : Args) (s : State), s.fur.status = .ready → (s.fur.splits.filter (·.valid)).length ≤ 1 → s.plot.team &&& s.me = 0 →
    (∀ o ∈ s.core.seq, o.listed = []) → s.core.seq.length < 16 → s.plot.held = [] → s.plot.silo = [] →
    let a := f.a.rawBits.toNat
    let b := f.b.rawBits.toNat
    let c := f.c.rawBits.toNat
    -- the queue afterwards: one more operation, of this furrow
    let queues := fun (kind : SeqKind) (tiles tiles2 bins : List Nat) (steps : Nat) (t : State) =>
      GoesOn { s.unregioned with nextId := s.nextId + 1, core := { s.core with seq := s.core.seq ++
        [{ id := s.nextId, plot := s.plot.id, fur := s.fur.id, logical := s.fur.logical, pc := s.split.pc, off := s.codeOffset, kind := kind
           tiles := tiles, tiles2 := tiles2, bins := bins, steps := steps, issuers := s.me, before := s.me }] } } t
    let usable := fun (k : Nat) (fmt : MatFmt) (u : Tile) => s.tile k = some u ∧ tileValid u = true ∧ tileFmt u = fmt.fmt
    let params : BitVec 32 × BitVec 32 := match f.d with
      | .xreg i _ _ => ((s.x i.toNat).extractLsb' 0 32, (s.x i.toNat).extractLsb' 32 32)
      | _ => (0x3F800000, 0x3F800000)
    let clean := ∀ i sz el, f.d = .xreg i sz el → s.xp i.toNat = false
    -- products of two tiles, by their shapes
    (∀ fa fb u v, s.matFmt f.fmt = some fa → s.matFmt (if f.wide then f.f1 else f.fmt) = some fb → (s.bin (a % 64)).isSome = true →
      (∀ i sz el, f.b ≠ .xreg i sz el) → (∀ i sz el, f.c ≠ .xreg i sz el) → usable (b % 16) fa u → usable (c % 16) fb v → matPair fa fb = true →
      let passes := if fa.split && fb.split then 6 else if fa.split || fb.split then 3 else 1
      let steps := passes * ((tileCols u + 31) / 32)
      let kind := fun (trans : Bool) (n : Nat) => SeqKind.mma (a % 64) (.tile (b % 16)) (.tile (c % 16)) trans fa.split fb.split (tileRows u) n (tileCols u)
      (tileCols u = tileRows v → tileCols v ≤ 128 → Completes (.mma f) s (queues (kind false (tileCols v)) [b % 16, c % 16] [] [a % 64] steps))
      ∧ (tileCols u = tileCols v → Completes (.mmat f) s (queues (kind true (tileRows v)) [b % 16, c % 16] [] [a % 64] steps)))
    -- the dual product of three tiles
    ∧ (∀ fy fw y x w, s.matFmt f.fmt = some fy → s.matFmt f.fmt = some fw → fy.split = false → a % 64 ≠ a / 64 % 64 → (s.bin (a % 64)).isSome = true →
        (s.bin (a / 64 % 64)).isSome = true → usable (b % 16) fy y → usable (c % 16) fw x → usable (c / 16 % 16) fw w → matPair fy fw = true →
        tileCols y ≤ 128 → tileRows x = tileRows y → tileCols x = tileRows w → tileCols w = tileCols y →
        Completes (.dmma f) s (queues (.dmma (a % 64) (a / 64 % 64) (.tile (b % 16)) (.tile (c % 16)) (.tile (c / 16 % 16)) (tileRows y) (tileCols y) (tileRows w))
          [b % 16, c % 16, c / 16 % 16] [] [a % 64, a / 64 % 64] ((tileCols y + 31) / 32 + (tileRows y + 31) / 32)))
    ∧ (∀ fy fw y x w, s.matFmt f.fmt = some fy → s.matFmt f.f1 = some fw → fy.split = false → fw.split = false → a % 64 ≠ b % 64 → (s.bin (a % 64)).isSome = true →
        (s.bin (b % 64)).isSome = true → (∀ i sz el, f.d ≠ .xreg i sz el) → (∀ i sz el, f.e ≠ .xreg i sz el) →
        let d := f.d.rawBits.toNat
        let e := f.e.rawBits.toNat
        usable (c % 16) fy y → usable (d % 16) fw x → usable (e % 16) fw w → matPair fy fw = true →
        tileCols y ≤ 128 → tileRows x = tileRows y → tileCols x = tileRows w → tileCols w = tileCols y →
        Completes (.dmmaStreamed f) s (queues (.dmma (a % 64) (b % 64) (.tile (c % 16)) (.tile (d % 16)) (.tile (e % 16)) (tileRows y) (tileCols y) (tileRows w))
          [c % 16, d % 16, e % 16] [] [a % 64, b % 64] ((tileCols y + 31) / 32 + (tileRows y + 31) / 32)))
    ∧ ((s.bin (a % 64)).isSome = true → Completes (.bclr f) s (queues (.bclr (a % 64)) [] [] [a % 64] 1))
    -- a drain without support sizes, row statistics, an adjoint
    ∧ (∀ fc u, f.e = .none → clean → s.matFmt f.fmt = some fc → fc.split = false → usable (a % 16) fc u → drainFmt fc.fmt = true → (s.bin (b % 64)).isSome = true →
        paramsOk (c % 8) params = true →
        let len := if c / 8 = 0 then min (tileCols u) 128 else c / 8
        let nb := (len + 127) / 128
        let nt := (len + tileCols u - 1) / tileCols u
        len ≤ 1024 → b % 64 + nb ≤ s.plot.bins.length → a % 16 + nt ≤ s.plot.tiles.length → (∀ k < nt, ((s.tile (a % 16 + k)).getD {}).ctl = u.ctl) →
        Completes (.drain f) s (queues (.drain (c % 8) len (f.xmod.getLsbD 0) params.1 params.2 f.rnd .none)
          ((List.range nt).map (a % 16 + ·)) [] ((List.range nb).map (b % 64 + ·)) 1))
    ∧ (clean → (s.bin (a % 64)).isSome = true →
        let len := if c / 8 = 0 then 128 else c / 8
        let nb := (len + 127) / 128
        len ≤ 1024 → a % 64 + nb ≤ s.plot.bins.length →
        Completes (.prjsum f) s (queues (.prjsum (c % 8) len params.1) [] [] ((List.range nb).map (a % 64 + ·)) 1))
    ∧ (∀ fc u w y, clean → s.matFmt f.fmt = some fc → fc.split = false → usable (a % 16) fc u → drainFmt fc.fmt = true → s.tile (c % 16) = some w → s.bin (b % 64) = some y →
        s.binOrdered s.me (b % 64) = false →
        let len := adjLen y u
        let nb := (len + 127) / 128
        let nt := (len + tileCols u - 1) / tileCols u
        b % 64 + nb ≤ s.plot.bins.length → a % 16 + nt ≤ s.plot.tiles.length → c % 16 + nt ≤ s.plot.tiles.length →
        (∀ k < nt, ((s.tile (a % 16 + k)).getD {}).ctl = u.ctl ∧ ((s.tile (c % 16 + k)).getD {}).ctl = u.ctl) →
        Completes (.prjadj f) s (queues (.prjadj len params.1 f.rnd) ((List.range nt).map (a % 16 + ·)) ((List.range nt).map (c % 16 + ·))
          ((List.range nb).map (b % 64 + ·)) 1))

/-- R255, R129: the legacy tile opcodes: a transpose is queued and counted in LEGMC; the 16 × 16 multiply is done by the
services, as an MMA of K = 16, with a trap record, and counted in LEGTR.
THE MODEL'S CHOICE: that the emulation is one step (log entry 10) and the case without a whole corner (log entry 60) are the
model's readings. -/
def Obligations.LegacyTiles : Prop :=
  ∀ (f : Args) (s : State), s.fur.status = .ready → (s.fur.splits.filter (·.valid)).length ≤ 1 → s.plot.team &&& s.me = 0 →
    (∀ o ∈ s.core.seq, o.listed = []) →
    let a := f.a.rawBits.toNat
    let b := f.b.rawBits.toNat
    let c := f.c.rawBits.toNat
    (∀ d u, s.tile (a % 16) = some d → s.tile (b % 16) = some u → tileValid d = true → tileValid u = true → tileFmt d = tileFmt u →
      fmtBits (tileFmt u) ∈ [8, 16, 32] → tileScaled d = tileScaled u → tileRows d = tileCols u → tileCols d = tileRows u → s.core.seq.length < 16 →
      s.job.legmc < 2 ^ 63 - 1 → s.plot.held = [] → s.plot.silo = [] →
      Completes (.ttrans f) s fun t =>
        GoesOn { s.unregioned with
          nextId := s.nextId + 1, job := { s.job with legmc := s.job.legmc + 1 }
          core := { s.core with seq := s.core.seq ++
            [{ id := s.nextId, plot := s.plot.id, fur := s.fur.id, logical := s.fur.logical, pc := s.split.pc, off := s.codeOffset
               kind := .ttrans (a % 16) (b % 16), tiles := [a % 16, b % 16], bins := [], issuers := s.me, before := s.me }] } } t)
    ∧ (∀ y u v, s.bin (a % 64) = some y → s.tile (b % 16) = some u → s.tile (c % 16) = some v → s.trapsFull = false →
        (∀ w ∈ [u, v], tileValid w = true ∧ tileFmt w = 19 ∧ 16 ≤ tileRows w ∧ 16 ≤ tileCols w) → s.binOrdered s.me (a % 64) = false →
        s.tileBusy s.me (b % 16) = false → s.tileBusy s.me (c % 16) = false → s.job.legtr < 2 ^ 63 - 1 →
        -- it waits for an operation that owns the bin (R60)
        (y.busy = true → exec (.mma16 f) s = .next s)
        ∧ (y.busy = false →
        let r := productStep y.invalidateAll 16 16 0 16 none none u.num v.num
        Completes (.mma16 f) s fun t =>
          t = { s with
            fur := t.fur, plot := { s.plot with bins := t.plot.bins, flags := s.plot.flags ||| r.2 }, mem := t.mem, trapSeq := t.trapSeq
            job := { s.job with legtr := s.job.legtr + 1 } }
          ∧ EndsRegion s t ∧ t.bin (a % 64) = some { r.1 with step := 1, steps := 1, busy := false, parked := false }
          ∧ (∀ n, n ≠ a % 64 → t.bin n = s.bin n)
          ∧ (TrapRoom s → let e := (qHead s.mem s.plot.trapq.toNat).slot 256
            RecordAt t.mem e s { (s.fillTrap { cause := .legacy }) with returned := true } ∧ t.trapSeq = s.trapSeq + 1
            ∧ ∀ k, (k < e ∨ e + 256 ≤ k) → (k < s.plot.trapq.toNat + 16 ∨ s.plot.trapq.toNat + 24 ≤ k) →
                (s.fur.ctxPa = 0 ∨ k < s.fur.ctxPa ∨ s.fur.ctxPa + 24576 ≤ k) → Memory.byte t.mem k = Memory.byte s.mem k)))

/-! ### Commands -/

/-- R313 to R317: a command with a wrong TAG is dropped and counted; one whose slot's JOBDEL or earlier command waits is held until its
turn; one with an old SEQ is answered STALE, one of management from a tenant slot NOTMGMT, one of a tenant from the management slot
REFUSED, and one whose header is malformed BADFMT; none of them changes anything else. A held command is executed as any other once
nothing is before it, and is then held no longer.
THE MODEL'S CHOICE: that a tenant's command from the management slot is REFUSED (log entry 58) and that a refused command leaves SEQ
(log entry 50) are the model's readings. -/
def Obligations.CommandsAreChecked : Prop :=
  ∀ (s : State) (i : Instr) (k : CmdKind) (c : CmdHdr), commandOf s.input = some (i, k, c) →
    let special := i = .provision ∧ s.fleet.store.key = none
    -- the command is held no longer, if it was
    let u : State := { s with fleet := { s.fleet with held := s.fleet.held.filter fun h => h.2.2 != c } }
    let waits : State :=
      { s with fleet := { s.fleet with held := if s.fleet.held.any (·.2.2 == c) then s.fleet.held else s.fleet.held ++ [(i, s.input, c)] } }
    let query := i = .query ∧ c.seq.extractLsb' 32 32 = 0 ∧ c.formOk 0x19 = true ∧ c.body = []
    (s.fleet.booted = false → exec i s = .next s)
    ∧ (s.fleet.booted = true → ¬special → c.slot ≠ 0xFFFFFFFF →
        (s.slotOf c.slot.toNat = none → exec i s = .next s)
        ∧ ∀ x, s.slotOf c.slot.toNat = some x →
          (c.signed x.key = false → s.mustWait c = false → exec i s = .next { u with fleet := { u.fleet with
            slots := s.fleet.slots.map fun (y : TSlot) => if y.num = x.num then { y with authFail := y.authFail + 1 } else y } })
          ∧ (c.signed x.key = false → s.mustWait c = true → exec i s = .next { s with fleet := { s.fleet with
            slots := s.fleet.slots.map fun (y : TSlot) => if y.num = x.num then { y with authFail := y.authFail + 1 } else y } })
          ∧ (c.signed x.key = true → s.mustWait c = true → exec i s = .next waits)
          ∧ (c.signed x.key = true → s.mustWait c = false →
            (c.seq.toNat ≤ x.seq → exec i s = .next (u.answered c k.type 2 []))
            ∧ (x.seq < c.seq.toNat → k.mgmt = true → exec i s = .next (u.answered c k.type 7 []))
            ∧ (x.seq < c.seq.toNat → k.mgmt = false → c.formOk k.type = false → exec i s = .next (u.answered c k.type 3 []))
            -- a held command runs as one that arrives
            ∧ (x.seq < c.seq.toNat → k.mgmt = false → exec i s = exec i u)))
    ∧ (s.fleet.booted = true → ¬special → c.slot = 0xFFFFFFFF →
        (s.fleet.store.key = none → exec i s = .next s)
        ∧ ∀ key, s.fleet.store.key = some key →
          let stale := c.seq.toNat ≤ s.fleet.mgmtSeq ∨ (k.epoch = true ∧ c.seq.extractLsb' 32 32 ≠ s.fleet.store.epoch)
          (c.signed key = false → s.mustWait c = false → exec i s = .next { u with fleet := { u.fleet with mgmtAuthFail := s.fleet.mgmtAuthFail + 1 } })
          ∧ (c.signed key = false → s.mustWait c = true → exec i s = .next { s with fleet := { s.fleet with mgmtAuthFail := s.fleet.mgmtAuthFail + 1 } })
          ∧ (c.signed key = true → ¬query → s.mustWait c = true → exec i s = .next waits)
          ∧ (c.signed key = true → ¬query → s.mustWait c = false →
            (stale → exec i s = .next (u.answered c k.type 2 []))
            ∧ (¬stale → k.mgmt = false → k.both = false → exec i s = .next (u.answered c k.type 6 []))
            ∧ (¬stale → (k.mgmt = true ∨ k.both = true) → c.formOk k.type = false → exec i s = .next (u.answered c k.type 3 []))
            ∧ (¬stale → (k.mgmt = true ∨ k.both = true) → exec i s = exec i u)))
    -- the hardware executes a held command once it is its turn
    ∧ (s.mustWait c = false → (i, s.input, c) ∈ s.fleet.held → (i, s.input) ∈ s.events)

/-- R315, R316, R317, R318, R284, R288, R291, R310, R150, R33, R319, R327, R337: what accepted commands on jobs do; a command refused with
an RSTAT changes nothing but the messages, and one whose body has not its form is BADFMT. A command on no job of its slot is NOJOB. QUERY
returns the module's state and changes none; from management it is accepted with any SEQ below 2^32.
THE MODEL'S CHOICE: the words of QUERY's body (log entry 32), the places of the items of a body and which RSTAT refuses one (log entry
58), where the kernel places things (log entry 7), what randomises a quote's signature (log entry 13) and that a refused command leaves
SEQ (log entry 50) are the model's choice. -/
def Obligations.TenantCommands : Prop :=
  (
    ∀ (s : State) (c : CmdHdr), s.Admits c →
      let refused := fun (type : BitVec 8) (n : Nat) (body : List Word) => Host.Outcome.next (s.answered c type n body)
      let bad := fun (i : Instr) (type : BitVec 8) => exec i s = refused type 3 []
      let jobless := fun (i : Instr) (type : BitVec 8) => s.cmdJob c = none → exec i s = refused type 5 []
      (s.input = .jobnew c → jobParse c.body = none → exec .jobnew s = refused 0x10 3 [])
      ∧ (∀ b, s.input = .jobnew c → jobParse c.body = some b →
        (bodyOk b = false → exec .jobnew s = refused 0x10 3 [])
        ∧ (bodyOk b = true → (∃ r ∈ b.regions, s.dieRuns r.die.toNat = false) → exec .jobnew s = refused 0x10 4 [])
        ∧ ∀ u body, s.jobnew c.slot.toNat b = .ok u body → Completes .jobnew s fun t =>
            t = accepted u c 0x10 body ∧ u.fleet = s.fleet ∧ ∃ j, u.jobs.getLast? = some j ∧ j.live = true ∧ j.slot = c.slot.toNat
              ∧ j.regions = b.regions ∧ j.arenaVa = b.arenaVa ∧ j.arenaN = b.arenaN ∧ j.ctableVa = b.ctableVa ∧ j.ctableN = b.ctableN
              ∧ (∀ k ∈ s.allJobs, k.asid ≠ j.asid ∧ k.keySlot ≠ j.keySlot) ∧ j.asid ≠ 0 ∧ body = [j.asid.setWidth 64, j.comp.va])
      -- the forms of the bodies (R317)
      ∧ ((s.input = .jobdel c → c.body ≠ [] → bad .jobdel 0x11) ∧ (s.input = .load c → c.body.length ≠ 4 → bad .load 0x12)
        ∧ (s.input = .launch c → c.body.length ≠ 1 → bad .launch 0x13) ∧ (s.input = .season c → c.body.length ≠ 1 → bad .season 0x1B)
        ∧ (s.input = .cancelCommand c → (c.body.length ≠ 2 ∨ 3 < (c.body.getD 1 0).toNat) → bad .cancelCommand 0x14)
        ∧ (s.input = .preempt c → c.body.length ≠ 1 → bad .preempt 0x15)
        ∧ (s.input = .winopen c → winBody c.body = none → bad .winopen 0x16)
        ∧ (s.input = .winclose c → (c.body.length ≠ 1 ∨ 63 < (c.body.getD 0 0).toNat) → bad .winclose 0x17)
        ∧ (s.input = .trapreply c → (c.body.length ≠ 2 ∨ 1 < (c.body.getD 1 0).toNat) → bad .trapreply 0x18)
        ∧ (s.input = .quote c → c.body.length ≠ 4 → bad .quote 0x1A) ∧ (s.input = .query c → c.body ≠ [] → bad .query 0x19))
      ∧ ((s.input = .jobdel c → c.body = [] → jobless .jobdel 0x11) ∧ (s.input = .load c → c.body.length = 4 → jobless .load 0x12)
        ∧ (s.input = .launch c → c.body.length = 1 → jobless .launch 0x13) ∧ (s.input = .season c → c.body.length = 1 → jobless .season 0x1B)
        ∧ (s.input = .preempt c → c.body.length = 1 → jobless .preempt 0x15) ∧ (s.input = .quote c → c.body.length = 4 → jobless .quote 0x1A))
      ∧ ∀ j, s.cmdJob c = some j → (∀ k ∈ s.allJobs, k.id = j.id → k = j) →
        (s.input = .jobdel c → c.body = [] →
          (j.live = false → Completes .jobdel s fun t => t = accepted (s.destroyJob j.id) c 0x11 [] ∧ ∀ k ∈ t.allJobs, k.id ≠ j.id)
          ∧ (j.live = true → exec .jobdel s =
              .next (((s.modJob j.id fun k => { k with deleting := some c.slot.toNat }).cancelJob j.id).seqTaken c)))
        ∧ (∀ w0 w1 w2 w3, s.input = .quote c → c.body = [w0, w1, w2, w3] →
            let b := s.quoteBody j (w3 ++ w2 ++ w1 ++ w0)
            Completes .quote s (· = accepted s c 0x1A (b ++ quoteSignature b)))
        ∧ (∀ w, s.input = .winopen c → winBody c.body = some w → j.windows.length = 64 → w.base.toNat % 65536 = 0 → w.len % 65536 = 0 → w.len ≠ 0 →
            (∀ k < w.len / 65536, (j.regionOf (w.base.toNat + 65536 * k)).isSome = true) →
            Completes .winopen s fun t => ∃ k : Job, t = accepted (s.modJob j.id fun x => { x with windows := k.windows }) c 0x16 []
              ∧ ∀ n, k.windows.getD n {} = if n = w.index then
                  { isOpen := true, base := w.base, len := w.len, rd := w.rd, wr := w.wr, host := w.host, any := w.any, peer := w.peer }
                else j.windows.getD n {})
        ∧ (∀ n, s.input = .winclose c → c.body = [n] → n.toNat ≤ 63 → j.windows.length = 64 →
            Completes .winclose s fun t => ∃ k : Job, t = accepted (s.modJob j.id fun x => { x with windows := k.windows }) c 0x17 []
              ∧ ∀ m, k.windows.getD m {} = if m = n.toNat then {} else j.windows.getD m {})
        ∧ (∀ seq fin, s.input = .trapreply c → c.body = [seq, fin] → fin.toNat ≤ 1 →
            (s.hostTrap j.id seq.toNat = none → exec .trapreply s = refused 0x18 3 [])
            ∧ ∀ f q k a e, s.hostTrap j.id seq.toNat = some f → f.status = .trapped q k a e →
              (fin = 1 → Completes .trapreply s (· = accepted (s.endTrapped f) c 0x18 []))
              ∧ (fin = 0 → Completes .trapreply s fun t =>
                  t = accepted ((s.markReturned e seq.toNat).modFur f.id fun g => { g with status := .returning, waitFrom := s.steps, waitClk := s.cycles }) c 0x18 []))
        ∧ (∀ rec_ l, s.input = .preempt c → c.body = [rec_] → (s.allLaunches.find? fun l => l.job == j.id && l.live && l.comp.va == rec_) = some l →
            Completes .preempt s fun t => ∃ u, t = accepted u c 0x15 []
              ∧ u = { s with plot := u.plot, plots := s.plots.map fun p => if p.status = .resident ∧ p.launch = l.id then { p with preempt := true } else p }
              ∧ u.plot = if s.plot.id ≠ 0 ∧ s.plot.status = .resident ∧ s.plot.launch = l.id then { s.plot with preempt := true } else s.plot)
        ∧ (∀ rec_ level, s.input = .cancelCommand c → c.body = [rec_, level] → level.toNat ≤ 3 →
            (s.cancelUnit j rec_ level.toNat = none → exec .cancelCommand s = refused 0x14 6 [1])
            ∧ ∀ u, s.cancelUnit j rec_ level.toNat = some u → Completes .cancelCommand s (· = accepted u c 0x14 []))
        ∧ (j.live = false → (s.input = .load c → c.body.length = 4 → exec .load s = refused 0x12 5 [])
            ∧ (s.input = .launch c → c.body.length = 1 → exec .launch s = refused 0x13 5 [])
            ∧ (s.input = .season c → c.body.length = 1 → exec .season s = refused 0x1B 5 []))
        ∧ (j.live = true → j.cancel = false →
          (∀ va n b p u body, s.input = .load c → c.body = [va, n, b, p] → s.loadObject j va n b p = .ok u body → Completes .load s fun t =>
              let im := s.readImage j va.toNat n.toNat
              let bound := if p = 0 then bindRecord im.cls else s.jobRead j p.toNat 320
              t = accepted u c 0x12 body ∧ body = [0]
              -- the object, and whether it failed to bind when it was loaded (R310)
              ∧ (u.jobOf j.id).map (·.objs) = some
                  ({ im.obj b with failed := (im.cls != [] || p != 0) && bitsOf bound 8 8 != 0 } :: j.objs.filter (·.va ≠ va)))
          ∧ (∀ r u body, s.input = .launch c → c.body = [r] → s.launchCmd j r = .ok u body → Completes .launch s fun t =>
              t = accepted u c 0x13 body ∧ body.length = 3
              ∧ (u.launches = s.launches ∨ ∃ l, u.launches = s.launches ++ [l] ∧ l.job = j.id ∧ l.live = true ∧ l.next = 0 ∧ body.head? = some l.comp.va))
          ∧ (∀ r, s.input = .season c → c.body = [r] →
              (∀ k, s.seasonCheck j r.toNat = .error k → exec .season s = refused 0x1B 6 [(causeCode k).setWidth 64])
              ∧ ∀ gs vs ids u, s.seasonCheck j r.toNat = .ok gs → s.startSeason j.id gs = some (vs, ids, u) → Completes .season s fun t =>
                  t = accepted u c 0x1B vs ∧ vs.length = gs.length + 1 ∧ u.seasons.length = s.seasons.length + 1
                  ∧ u.graphs.length = s.graphs.length + gs.length ∧ u.launches = s.launches)))
  ∧ (
    ∀ (s : State) (c : CmdHdr), s.input = .query c →
      (c.slot = 0xFFFFFFFF → s.fleet.booted = true → s.fleet.store.key.any c.signed = true → c.formOk 0x19 = true → c.body = [] → c.seq.toNat < 2 ^ 32 →
        Completes .query s (· = s.answered c 0x19 0 (s.queryBody c.slot)))
      ∧ (s.Admits c → c.body = [] → (c.slot = 0xFFFFFFFF → 2 ^ 32 ≤ c.seq.toNat) → Completes .query s (· = accepted s c 0x19 (s.queryBody c.slot)))
      ∧ (s.queryBody c.slot)[0]? = some (BitVec.ofNat 64 (bitsNat 4 s.dieRuns)) ∧ (s.queryBody c.slot)[1]? = s.clock.block[0]?)

/-- R315, R316, R317, R334, R335, R338 to R340, R357, R359: what accepted commands of management do; one whose body has not its form is
BADFMT. The new management key is SHAKE256's of what ML-KEM-1024 decapsulates; images are read at their address in the job's space.
THE MODEL'S CHOICE: the TYPE of the fused-minimum command and the body of a refusal without a cause (log entry 34), the places of the
items of a body, and that a PROVISION is REFUSED or dropped where no kernel runs (log entry 58), the numbers of units and what a retired
channel waits for (log entry 24), whether an image's signature verifies (log entry 13), what readings and ZDRAIN or ZFILL in a drain-down
come to (log entry 51), and the numbers of sensors (log entry 36) are the model's choice. -/
def Obligations.ManagementCommands : Prop :=
  ∀ (s : State) (c : CmdHdr),
    let bad := fun (i : Instr) (type : BitVec 8) => exec i s = .next (s.answered c type 3 [])
    (s.input = .provision c →
      let new := provisionKey (decapsulate s.fleet.store.dk (bodyBytes (c.body.drop 1)))
      let kept := { s with fleet := { s.fleet with store := { s.fleet.store with key := some new, number := (c.body.getD 0 0).setWidth 16 } } }
      let runs := ∃ d ∈ s.fleet.dies, d.kernel.isSome = true
      (s.Admits c → s.fleet.store.key ≠ none →
        (c.body.length = 197 → runs → Completes .provision s (· = accepted kept c 0x38 []))
        ∧ (c.body.length ≠ 197 → exec .provision s = .next (s.answered c 0x38 3 []))
        ∧ (c.body.length = 197 → ¬runs → exec .provision s = .next (s.answered c 0x38 6 [])))
      ∧ (s.fleet.booted = true → s.fleet.store.key = none →
          let right := c.slot = 0xFFFFFFFF ∧ c.body.length = 197 ∧ c.signed new = true ∧ c.formOk 0x38 = true ∧ runs
          (right → Completes .provision s (· = kept.answered c 0x38 0 [])) ∧ (¬right → exec .provision s = .next s)))
    ∧ (s.Admits c →
      -- the forms of the bodies (R317)
      ((s.input = .slotset c → (c.body.length ≠ 8 ∨ 1023 < (c.body.getD 0 0).toNat) → bad .slotset 0x01)
        ∧ (∀ b, s.input = .updsvc c b → c.body.length ≠ 1 → bad .updsvc 0x30) ∧ (∀ b, s.input = .updkern c b → c.body.length ≠ 1 → bad .updkern 0x31)
        ∧ (s.input = .retire c → retireBody c.body = none → bad .retire 0x32) ∧ (s.input = .thresh c → threshBody c.body = none → bad .thresh 0x33)
        ∧ (s.input = .clockcfg c → (c.body.length ≠ 4 ∨ 65535 < (c.body.getD 0 0).toNat) → bad .clockcfg 0x34)
        ∧ (s.input = .zdrain c → (c.body.length ≠ 1 ∨ 95 < (c.body.getD 0 0).toNat) → bad .zdrain 0x35)
        ∧ (s.input = .zfill c → (c.body.length ≠ 1 ∨ 95 < (c.body.getD 0 0).toNat) → bad .zfill 0x36)
        ∧ (∀ r, s.input = .recal c r → (c.body.length ≠ 3 ∨ 95 < (c.body.getD 0 0).toNat ∨ 7 < (c.body.getD 1 0).toNat) → bad .recal 0x37)
        ∧ (s.input = .fusedMinimumRaise c → (c.body.length ≠ 2 ∨ 1 < (c.body.getD 0 0).toNat) → bad .fusedMinimumRaise Config.fusedType))
      ∧ (∀ slot k0 k1 k2 k3 near far jobs, s.input = .slotset c → c.body = [slot, k0, k1, k2, k3, near, far, jobs] → slot.toNat ≤ 1023 →
        let old := (s.slotOf slot.toNat).getD { num := slot.toNat, key := 0, near := 0, far := 0, jobs := 0 }
        Completes .slotset s (· = accepted { s with fleet := { s.fleet with
          slots := { old with key := k3 ++ k2 ++ k1 ++ k0, near := near.toNat, far := far.toNat, jobs := jobs.toNat }
            :: s.fleet.slots.filter fun (x : TSlot) => x.num ≠ slot.toNat } } c 0x01 []))
      ∧ (∀ va, c.body = [va] → s.cmdJob c = none → (∀ b, s.input = .updsvc c b → exec .updsvc s = .next (s.answered c 0x30 5 []))
          ∧ ∀ b, s.input = .updkern c b → exec .updkern s = .next (s.answered c 0x31 5 []))
      ∧ (∀ va j, c.body = [va] → s.cmdJob c = some j →
        let image := s.jobBytes j va.toNat Config.imageBytes
        (s.input = .updsvc c true → Completes .updsvc s fun t =>
          t = accepted { s with fleet := { s.fleet with
            servicesImage := some image, oldServices := s.oldImage
            dies := s.fleet.dies.map fun (d : DieState) =>
              if d.kernel.isSome then { d with services := shake256 image, updates := d.updates + 1 } else d } } c 0x30 []
          -- the old image finishes what it has read; entries above are the new one's (R338)
          ∧ ∀ o, t.fleet.oldServices = some o → o.unfinished ≠ [] ∧ o.since = s.timeNs ∧ o.faults = (qHead s.mem s.faultq.toNat).cons
            ∧ o.traps = (qHead s.mem s.trapq.toNat).cons)
        ∧ (s.input = .updsvc c false → exec .updsvc s = .next (s.answered c 0x30 6 []))
        ∧ (∀ signed, s.input = .updkern c signed →
          let img : KernelImage := { version := Config.imageVersion image, bytes := image, signed := signed }
          let running : Option Nat := s.fleet.dies.findSome? (·.kernel)
          let min := if running = some 0 then s.fleet.store.minB else s.fleet.store.minA
          ((img.signed = false ∨ img.version < min) → exec .updkern s = .next (s.answered c 0x31 6 []))
          ∧ (img.signed = true → min ≤ img.version → Completes .updkern s (· = accepted { s with fleet := { s.fleet with
              store := if running = some 0 then { s.fleet.store with slotB := some img } else { s.fleet.store with slotA := some img }
              pendingKernel := some (if running = some 0 then 1 else 0, img) } } c 0x31 []))))
      ∧ (∀ slot min, s.input = .fusedMinimumRaise c → c.body = [slot, min] →
        (slot.toNat ≤ 1 → (s.fleet.swapped = false ∨ min.toNat < (if slot = 0 then s.fleet.store.minA else s.fleet.store.minB)) →
          exec .fusedMinimumRaise s = .next (s.answered c Config.fusedType 6 []))
        ∧ (s.fleet.swapped = true → slot = 0 → s.fleet.store.minA ≤ min.toNat → Completes .fusedMinimumRaise s (· = accepted { s with fleet := { s.fleet with
          store := { s.fleet.store with minA := min.toNat } } } c Config.fusedType []))
        ∧ (s.fleet.swapped = true → slot = 1 → s.fleet.store.minB ≤ min.toNat → Completes .fusedMinimumRaise s (· = accepted { s with fleet := { s.fleet with
          store := { s.fleet.store with minB := min.toNat } } } c Config.fusedType [])))
      ∧ (∀ u, s.input = .retire c → retireBody c.body = some u → Completes .retire s fun t =>
          t = accepted (s.retire u) c 0x32 []
          ∧ (u ∈ s.fleet.retired → t = accepted s c 0x32 [])
          ∧ (u ∉ s.fleet.retired → match u with
              -- a channel leaves once its pages have moved
              | .channel n => u ∈ (s.retire u).fleet.retired ∨ n ∈ (s.retire u).fleet.draining
              | _ => (s.retire u).fleet.retired = s.fleet.retired ++ [u]))
      ∧ (∀ k n w cls, s.input = .thresh c → c.body = [k, n, w] → classOf k.toNat = some cls →
        1 ≤ n.toNat → n.toNat ≤ 65535 → 1000000000 ≤ w.toNat → w.toNat ≤ 2592000000000000 → Completes .thresh s (· = accepted { s with fleet := { s.fleet with
            windows := s.fleet.windows.map fun (x : Window334) => if x.cls = cls then { x with t := n.toNat, w := w.toNat } else x } } c 0x33 []))
      ∧ (∀ d i a r, s.input = .clockcfg c → c.body = [d, i, a, r] → d.toNat ≤ 65535 →
        Completes .clockcfg s (· = accepted { s with clock := { s.clock with
          domain := d.setWidth 16, interval := i.toNat, announce := a.toNat, delayReq := r.toNat } } c 0x34 []))
      ∧ (∀ w, s.input = .zdrain c → c.body = [w] →
        let z := w.toNat
        (z ≤ 95 → (s.zone z).drain.isSome = true → exec .zdrain s = .next (s.answered c 0x35 6 []))
        ∧ (z ≤ 95 → s.zones.length = 96 → (s.zone z).drain = none → (s.zone z).dry = true → Completes .zdrain s (· = accepted s c 0x35 []))
        ∧ (z ≤ 95 → s.zones.length = 96 → (s.zone z).drain = none → (s.zone z).dry = false → Completes .zdrain s fun t =>
            ∃ u, t = accepted u c 0x35 [] ∧ (u.zone z).drain = some { step := 0, leak := false, repeated := false, since := s.timeNs }
              ∧ ∀ k ∈ zoneCores z, UnitId.core (k - 1) ∈ u.fleet.retired))
      ∧ (∀ w, s.input = .zfill c → c.body = [w] → w.toNat ≤ 95 → s.zones.length = 96 →
        let z := w.toNat
        let o := s.zone z
        ((o.drain.isSome = true ∨ o.dry = false ∨ o.wet = true) → exec .zfill s = .next (s.answered c 0x36 6 []))
        ∧ (o.drain = none → o.dry = true → o.wet = false → Completes .zfill s fun t =>
            ∃ u, t = accepted u c 0x36 [] ∧ u = { s with zones := u.zones } ∧ (∀ y, y ≠ z → u.zone y = s.zone y)
              ∧ (u.zone z).step = o.min ∧ (u.zone z).settled = false ∧ (u.zone z).dry = true ∧ (u.zone z).timer = some (s.timeNs + 40000000)))
      ∧ (∀ w0 w1 ref reading, s.input = .recal c reading → c.body = [w0, w1, ref] → w0.toNat ≤ 95 → w1.toNat ≤ 7 → s.zones.length = 96 →
        let z := w0.toNat
        let n := w1.toNat
        Completes .recal s fun t =>
          ∃ u, t = accepted u c 0x37 [] ∧ u = { s with zones := u.zones, fleet := { s.fleet with retired := s.fleet.retired.filter (· ≠ .sensor z n) } }
            ∧ (∀ y, y ≠ z → u.zone y = s.zone y) ∧ (n, ref.toInt - reading) ∈ (u.zone z).offsets ∧ (u.zone z).judged n = false
            ∧ (u.zone z).sensorsRetired = (s.zone z).sensorsRetired.filter (· ≠ n) ∧ (u.zone z).entry = (s.zone z).entry))

/-! ### The module around its dies -/

/-- R315, R336, R338 to R340, R4, R311, R356: power, boot, updates, a die's reset, ports and the issue cap; and the four states of the
clock (log entry 2): TIMEN never decreases; it steps forward at most once, while ACQUIRING.
THE MODEL'S CHOICE: where the queues lie (log entry 7), what a die's reset takes with it (log entry 35), how TIMEN slews (log entry
2), that entries of the peer table are handed over (log entry 79), what a retired channel waits for (log entry 24), and that of two
kernel slots of one version the mask ROM takes A (log entry 86) are the model's choice. -/
def Obligations.PowerUpdatesAndClock : Prop :=
  (
    ∀ (s : State),
      let st := s.fleet.store
      let good := fun (x : KernelImage) (min : Nat) => x.signed = true ∧ min ≤ x.version
      -- the slot that the mask ROM takes
      let picks := fun (k : Nat) (x : KernelImage) =>
        (k = 0 ∧ st.slotA = some x ∧ good x st.minA ∧ ∀ y, st.slotB = some y → good y st.minB → y.version ≤ x.version)
        ∨ (k = 1 ∧ st.slotB = some x ∧ good x st.minB ∧ ∀ y, st.slotA = some y → good y st.minA → y.version < x.version)
      (s.fleet.booted = false → s.memWf →
        (∀ k x, picks k x → Completes .powerOn s fun t =>
          t = { s with
            fleet := { s.fleet with booted := true, dies := t.fleet.dies, store := { st with epoch := st.epoch + 1 } }
            mem := t.mem, trapq := BitVec.ofNat 64 (2 ^ 39), faultq := BitVec.ofNat 64 (2 ^ 39 + 64) }
          ∧ t.fleet.dies.length = s.fleet.dies.length
          ∧ (∀ d ∈ t.fleet.dies, d.kernel = some k ∧ d.measured = shake256 x.bytes ∧ d.services = shake256 s.fleet.image ∧ d.updates = 0)
          ∧ Memory.readN t.mem (2 ^ 39) 8 = 2 ^ 39 + 0x1000 ∧ Memory.readN t.mem (2 ^ 39 + 8) 1 = 6
          ∧ Memory.readN t.mem (2 ^ 39 + 64) 8 = 2 ^ 39 + 0x8000 ∧ Memory.readN t.mem (2 ^ 39 + 72) 1 = 6
          ∧ ∀ a, (a < 2 ^ 39 ∨ 2 ^ 39 + 73 ≤ a) → Memory.byte t.mem a = Memory.byte s.mem a)
        ∧ ((∀ k x, ¬picks k x) → Completes .powerOn s fun t =>
          t = { s with fleet := { s.fleet with booted := true, dies := t.fleet.dies } } ∧ ∀ d ∈ t.fleet.dies, d.kernel = none ∧ d.measured = 0))
      ∧ Completes .powerOff s (fun t => t = { State.reset with
          fleet := { State.reset.fleet with store := st }, input := s.input, agenda := s.agenda, turn := s.turn, steps := s.steps })
      ∧ (∀ d, s.input = .dieReset d → d < 4 → s.fleet.booted = true → s.zones.length = 96 →
          (∀ p ∈ s.allPlots, p.die = d → p.status ≠ .resident ∧ p.status ≠ .leaving) → Completes .dieReset s fun t =>
            (∀ z < 96, (t.zone z).entry = if z / 24 = d then 0x3014195F3C00002A else (s.zone z).entry)
            ∧ (∀ c ∈ t.allCores, coreDie c.id = d → c.l1 = [] ∧ c.tlb = [] ∧ c.seq = [] ∧ c.red = [] ∧ c.callq = [])
            ∧ (∀ p ∈ t.tcache, p.1 ≠ d) ∧ (∀ p ∈ t.rdc, p.1 ≠ d) ∧ t.mem = s.mem ∧ t.fleet.store = st ∧ t.fleet.slots = s.fleet.slots
            ∧ t.jobs = s.jobs ∧ t.job = s.job ∧ t.furs = s.furs ∧ t.fur = s.fur ∧ t.timeNs = s.timeNs
            ∧ t.cruise = 10 ∧ t.barto = 1048576)
      ∧ (∀ n offers, s.input = .portLinkTrain n offers → n < 32 → s.fleet.ports.length = 32 → .port n ∉ s.fleet.retired →
          Completes .portLinkTrain s fun t =>
            t = { s with fleet := { s.fleet with ports := t.fleet.ports } }
            ∧ ∀ k, t.fleet.ports.getD k {} =
              if k = n then { s.fleet.ports.getD k {} with up := offers, linkdown := (s.fleet.ports.getD k {}).linkdown + (!offers).toNat }
              else s.fleet.ports.getD k {})
      ∧ (∀ n, s.input = .unsupportedFlowRefuse n → n < 32 → s.fleet.ports.length = 32 → Completes .unsupportedFlowRefuse s fun t =>
            t = { s with fleet := { s.fleet with ports := t.fleet.ports } }
            ∧ ∀ k, t.fleet.ports.getD k {} =
              if k = n then { s.fleet.ports.getD k {} with
                refused := (s.fleet.ports.getD k {}).refused + 1, nacks := (s.fleet.ports.getD k {}).nacks + 1 }
              else s.fleet.ports.getD k {})
      -- a far-memory device that does not train at its full rate takes its channel out of service
      ∧ (∀ n ok, s.input = .channelTrain n ok → n < 128 →
          (ok = true → exec .portLinkTrain s = .next s)
          ∧ (ok = false → Completes .portLinkTrain s fun t => .channel n ∈ t.fleet.retired ∨ n ∈ t.fleet.draining))
      ∧ (∀ n fabric, s.input = .peerEntry n fabric → Completes .portLinkTrain s fun t =>
          t = { s with fleet := { s.fleet with peers := t.fleet.peers } }
          ∧ t.fleet.peers.find? (·.1 = n) = some (n, fabric) ∧ ∀ m, m ≠ n → t.fleet.peers.find? (·.1 = m) = s.fleet.peers.find? (·.1 = m))
      ∧ (∀ o, s.fleet.oldServices = some o → o.since + 100000000 ≤ s.timeNs →
          Completes .updsvcOldTimeout s (· = { s with fleet := { s.fleet with oldServices := none } }))
      ∧ (∀ yes k x, s.input = .kernelSwap yes → s.fleet.pendingKernel = some (k, x) → (∀ j ∈ s.allJobs, j.deleting = none) →
          (∃ d ∈ s.fleet.dies, d.kernel.isSome = true) →
          (yes = true → Completes .kernelSwap s (· = { s with fleet := { s.fleet with
            pendingKernel := none, swapped := true, dies := s.fleet.dies.map fun (d : DieState) => if d.kernel.isSome then { d with kernel := some k } else d } }))
          ∧ (yes = false → Completes .kernelSwap s (· = { s with fleet := { s.fleet with pendingKernel := none } })))
      -- the average of the last ten measurements, one in each millisecond (R356)
      ∧ (∀ mw, s.input = .powerSample mw →
        let last := (mw :: s.fleet.powers).take 10
        let above := 3600000 * last.length < last.foldl (· + ·) 0
        let under := last.foldl (· + ·) 0 < 3400000 * last.length
        Completes .powerSample s (· = { s with fleet := { s.fleet with
          powers := last
          capLevel := if above then min 3 (s.fleet.capLevel + 1) else if under then s.fleet.capLevel - 1 else s.fleet.capLevel } })))
  ∧ (
    ∀ (s : State),
      let c := s.clock
      let only := fun (t : State) => t = { s with clock := t.clock, timeNs := t.timeNs }
      let same := fun (t : State) => t = { s with clock := t.clock }
      (∀ offset within, s.input = .ptpSyncReceive offset within →
        let run := if within then (if c.state = .free then 1 else c.inARow + 1) else 0
        let steps := (c.state = .free ∨ c.stepped = false) ∧ 1000000 < offset
        ((c.state = .free ∨ c.state = .acquiring) → Completes .ptpSyncReceive s fun t =>
          only t ∧ t.timeNs = (if steps then s.timeNs + offset.toNat else s.timeNs) ∧ s.timeNs ≤ t.timeNs ∧ (steps → t.clock.stepped = true)
          ∧ t.clock.state = (if 16 ≤ run then .locked else .acquiring) ∧ t.clock.inARow = run ∧ t.clock.lastSync = t.timeNs)
        ∧ ((c.state = .locked ∨ c.state = .holdover) → Completes .ptpSyncReceive s fun t =>
          same t ∧ t.clock = { c with lastSync := s.timeNs, inARow := run }))
      ∧ (c.state ≠ .free →
        (c.lastSync + 10000000000 ≤ s.timeNs → Completes .clockFreeTimeout s fun t => same t ∧ t.clock.state = .free ∧ t.clock.inARow = 0
            ∧ (c.state = .locked → t.clock.leftLock = s.timeNs))
        ∧ (s.timeNs < c.lastSync + 10000000000 → exec .clockFreeTimeout s = .next s))
      ∧ (c.state = .locked → 0 < c.interval →
        (c.lastSync + 3 * c.interval ≤ s.timeNs → Completes .clockHoldover s fun t => same t ∧ t.clock.state = .holdover
            ∧ t.clock.holdFrom = s.timeNs ∧ t.clock.leftLock = s.timeNs)
        ∧ (s.timeNs < c.lastSync + 3 * c.interval → exec .clockHoldover s = .next s))
      ∧ (c.state = .holdover →
        (c.holdFrom + 1000000000 ≤ s.timeNs → Completes .clockReacquire s fun t => same t ∧ t.clock.state = .acquiring ∧ t.clock.stepped = false
            ∧ t.clock.inARow = 0)
        ∧ (s.timeNs < c.holdFrom + 1000000000 → exec .clockReacquire s = .next s)))

/-- R348, R351, R353 to R355, R358, R359: the zones settle, are sampled, answered and drained. A core is throttled from TJ + 10 on until its
diode reads below TJ; a step of a drain-down that does not finish in its time takes its fate.
THE MODEL'S CHOICE: the zone of a retired sensor (log entry 23), sensor numbers and which samples are implausible (log entry 36) and
what reports the steps of the drain-down (log entry 51) are the model's choice. -/
def Obligations.Zones : Prop :=
  ∀ (s : State) (z : Nat), z < 96 → s.zones.length = 96 →
    let o := s.zone z
    let core := fun (i : Nat) => z / 24 * 96 + z % 24 * 4 + i + 1
    (s.input = .sluiceSettle z → ∀ t0, o.timer = some t0 →
      (s.timeNs < t0 → exec .sluiceSettle s = .next s)
      ∧ (t0 ≤ s.timeNs → Completes .sluiceSettle s fun t =>
          t = { s with zones := t.zones, core := t.core, cores := t.cores } ∧ (∀ y, y ≠ z → t.zone y = s.zone y)
          ∧ (t.zone z).timer = none ∧ (t.zone z).settled = true ∧ (t.zone z).dry = false ∧ (∀ k < 61, (t.zone z).entry.getLsbD k = o.entry.getLsbD k)
          ∧ (if o.dry then ∀ i < 4, (t.coreOf (core i)).off = false else t.core = s.core ∧ t.cores = s.cores)))
    ∧ (∀ x, s.input = .zoneSample z x → s.implausible z x = [] →
      let bad := o.excursionIn x
      -- a flow below the zone's tolerance of its nominal 2.5 mL/min for each step (R348)
      (o.judged 2 = true → o.settled = true → o.read 2 x.flow * 100 < 25 * o.step * (100 - (o.flowtol : Int)) → bad = true)
      ∧ ((o.judged 3 = false ∨ 70 ≤ o.read 3 x.pressurePct) → Completes .zoneSample s fun t =>
          t = { s with zones := t.zones, core := t.core, cores := t.cores, mem := t.mem, faultSeq := t.faultSeq }
          ∧ (∀ y, y ≠ z → t.zone y = s.zone y) ∧ (t.zone z).entry = o.entry ∧ (t.zone z).lowPressure = 0
          ∧ (t.zone z).excursion = (bad && (o.excursion || o.trapen))
          ∧ (¬(bad = true ∧ o.trapen = true ∧ o.excursion = false) → t.mem = s.mem ∧ t.faultSeq = s.faultSeq)
          ∧ ∀ i < 4, i < x.diodes.length →
            let reads := o.read (4 + i) (x.diodes.getD i 0)
            (t.coreOf (core i)).throttled =
              if o.judged (4 + i) then ((s.coreOf (core i)).throttled && decide ((o.tj : Int) ≤ reads)) || decide ((o.tj : Int) + 10 ≤ reads)
              else (s.coreOf (core i)).throttled)
      ∧ (o.judged 3 = true → o.read 3 x.pressurePct < 70 → o.dry = false → o.drain = none → o.step ≠ 0 → 2 ≤ o.lowPressure →
          Completes .zoneSample s fun t => (t.zone z).drain = some { step := 1, leak := true, repeated := false, since := s.timeNs }))
    -- a temperature sensor more than 15 °C from the mean of its two neighbours is implausible, which is charged to it (R355)
    ∧ (∀ x a b, s.input = .zoneSample z x → s.neighbours z 1 = [a, b] → o.judged 1 = true →
        let v := o.read 1 x.tout
        (30 < (2 * v - a - b).natAbs → 1 ∈ s.implausible z x)
        ∧ (s.implausible z x = [1] → 1 ≤ (s.windowOf .sensorImplausible).t → (o.judged 3 = false ∨ 70 ≤ o.read 3 x.pressurePct) →
            Completes .zoneSample s fun t => (EventClass.sensorImplausible, UnitId.sensor z 1, s.timeNs) ∈ t.fleet.events))
    ∧ (s.input = .sensorResponseStep z → o.excursion = true →
      (s.timeNs < o.respAt → exec .sensorResponseStep s = .next s)
      ∧ (o.respAt ≤ s.timeNs →
        (o.respStep = 0 → o.min ≤ o.step → s.dieSteps (z / 24) + 2 ≤ 288 → o.dry = false → o.drain = none → o.entry.extractLsb' 56 4 = 0 →
          Completes .sensorResponseStep s fun t =>
            (t.zone z).step = min 15 (o.step + 2) ∧ (t.zone z).respStep = 1 ∧ (t.zone z).respAt = s.timeNs + 50000000
            ∧ t = { s with zones := t.zones, plot := { s.plot with preempt := t.plot.preempt }, plots := t.plots })
        ∧ (o.respStep = 1 → Completes .sensorResponseStep s fun t =>
            t = { s with zones := t.zones } ∧ (∀ y, y ≠ z → t.zone y = s.zone y)
            ∧ t.zone z = { o with respStep := 2, respAt := s.timeNs + 100000000, limited := true })
        -- every plot that runs in the zone leaves, a sampled one's second run among them
        ∧ (o.respStep = 2 → Completes .sensorResponseStep s fun t =>
            t = { s with zones := t.zones, plot := { s.plot with preempt := t.plot.preempt }, plots := t.plots }
            ∧ t.zone z = { o with respStep := 3, onlyClass0 := true, passSince := 0 }
            ∧ ∀ p ∈ t.plots, p.status = .resident → (zoneOf p.core = z ∨ (p.twin ≠ 0 ∧ zoneOf p.twin = z)) → 1 ≤ s.heatOf p → p.preempt = true)))
    ∧ (∀ ok d, s.input = .drainDownStep z ok → o.drain = some d →
      let limit := if d.step = 3 then 2000000000 else if d.step = 4 then 5000000000 else 50000000
      let late := d.since + limit ≤ s.timeNs
      (d.step = 0 →
        (s.zonePlots z ≠ [] → exec .drainDownStep s = .next s)
        ∧ (s.zonePlots z = [] → Completes .drainDownStep s fun t => (t.zone z).drain = some { d with step := 1, since := s.timeNs }))
      ∧ (1 ≤ d.step → ok = false → ¬late → exec .drainDownStep s = .next s)
      ∧ (1 ≤ d.step → d.step ≤ 4 → ok = true → ¬late → Completes .drainDownStep s fun t =>
          (t.zone z).drain = some { d with step := d.step + 1, since := s.timeNs })
      ∧ (d.step = 4 → late → d.repeated = false → Completes .drainDownStep s fun t =>
          (t.zone z).drain = some { d with step := 3, repeated := true, since := s.timeNs })
      ∧ ((d.step = 2 ∨ d.step = 3 ∨ (d.step = 4 ∧ d.repeated = true)) → late → Completes .drainDownStep s fun t =>
          (t.zone z).drain = some { d with step := 5, since := s.timeNs } ∧ (t.zone z).wet = true ∧ t.fleet.outSeq = s.fleet.outSeq + 1)
      ∧ ((d.step = 1 ∨ d.step = 5) → late → s.fleet.dies.length = 4 → Completes .drainDownStep s fun t =>
          (t.fleet.dies.getD (z / 24) {}).isolated = true
          ∧ ∀ k < 24, (s.zone (24 * (z / 24) + k)).dry = false →
            (t.zone (24 * (z / 24) + k)).drain = some { step := 2, leak := d.leak, repeated := false, since := s.timeNs })
      ∧ (d.step = 5 → ok = true → ¬late → s.zonePlots z = [] → Completes .drainDownStep s fun t =>
          (t.zone z).drain = none ∧ (t.zone z).dry = true ∧ (∀ i < 4, (t.coreOf (core i)).off = true) ∧ t.fleet.outSeq = s.fleet.outSeq + 1))
    ∧ (∀ n, s.input = .recalSuspendEnd z n → Completes .recalSuspendEnd s fun t =>
        t = { s with zones := t.zones } ∧ (∀ y, y ≠ z → t.zone y = s.zone y)
        ∧ t.zone z = { o with suspended := o.suspended.filter fun p => !(p.1 == n && decide (p.2 ≤ s.timeNs)) })

/-! ### Launches, plots and furrows come and go -/

/-- R22, R23, R28, R29, R30, R16, R56, R58, R59, R290, R310: batches, placement, the first grants, swaps, shares, instances and the
end of launches.
THE MODEL'S CHOICE: which cores first serve a stage (log entry 30) and the order of batches (log entry 1) are the model's
choice. -/
def Obligations.Dispatching : Prop :=
  (∀ (s : State) (lid : Nat) (l : Launch) (die : Nat), s.input = .headDispatch lid → s.launchOf lid = some l → l.live = true → l.cancel = false →
      l.next < l.plots → s.dieFor l l.batchNeed = some die →
      Completes .headDispatch s fun t =>
        let n := s.batchSize l die
        -- a launch of at most 64 furrows goes as one batch, or waits until the die has room for it (R261)
        (l.det = false → n = if l.plots * l.furrows ≤ 64 then (if (l.plots - l.next) * l.furrows ≤ s.dieSlots die then l.plots - l.next else 0)
          else min (l.plots - l.next) (min (64 / max 1 l.furrows) (s.dieSlots die / max 1 l.furrows)))
        ∧ t.plots = s.plots ++ (List.range n).map (fun i =>
            { id := s.nextId + i, launch := lid, status := .atDie, lplot := l.next + i, lcore := (l.next + i) % max 1 l.lcount, die := die })
        ∧ t.launchOf lid = some { l with next := l.next + n }
        ∧ t = { s with nextId := s.nextId + n, plots := t.plots, launch := t.launch, launches := t.launches })
  ∧ (∀ (s u : State) (pid core twin : Nat) (p : Plot) (l : Launch), s.input = .dieDispatchPlace pid → s.plotOf pid = some p → s.launchOf p.launch = some l →
      s.coreFor p = some (core, twin) → ((p.ctxPa ≠ 0 ∧ u = s) ∨ (p.ctxPa = 0 ∧ s.reserve l pid (coreDie core) = some u)) →
      Completes .dieDispatchPlace s fun t =>
        (∃ q, t.plotOf pid = some q ∧ q.status = .resident ∧ q.core = core ∧ q.twin = twin ∧ q.die = coreDie core ∧ q.tiles = List.replicate l.tiles {}
          ∧ q.bins = List.replicate l.bins {} ∧ q.silo = [] ∧ q.held = [] ∧ q.team = 0 ∧ q.flags = 0)
        ∧ ∀ k < l.furrows, ∃ f ∈ t.furs, f.plot = pid ∧ f.logical = BitVec.ofNat 5 k ∧ f.status = .ready ∧ f.budget = l.budget
          ∧ f.xregs = (List.range 64).map (fun j => l.args.getD j 0) ∧ f.lanes = List.replicate 32 {} ∧ f.masks = List.replicate 15 0 ∧ f.latches = []
          ∧ (f.splits.getD 0 {}).valid = true
          ∧ ∀ i < 32, (f.splits.getD 0 {}).mask.getLsbD i = decide ((p.lplot * l.furrows + k) * 32 + i < (l.sv.getD l.dim 0).toNat))
  ∧ (∀ (s : State) (core k : Nat) (f : Furrow) (rest : List Furrow), s.input = .furrowSwap core → s.wanting core = f :: rest → s.teamOf f = [f] →
      s.mayEnter core [f] [] = true → f.slotIn (((s.coreFurs core).filter (·.active)).map (·.slot)) = some k →
      (∀ h ∈ s.allFurs, h.id = f.id → h = f) →
      Completes .furrowSwap s fun t => ∃ g, t.furOf f.id = some g ∧ g.active = true ∧ g.slot = k ∧ g.status = .ready ∧ g.splits = f.splits
        ∧ g.lanes = f.lanes ∧ (∀ h ∈ s.coreFurs core, h.active = true → h.slot ≠ g.slot) ∧ ∀ h ∈ s.furs, h.id ≠ f.id → h ∈ t.furs)
  ∧ (∀ (s : State) (die : Nat), s.input = .graphRebalance die → s.cycles < s.rebalanced.getD die 0 + 4096 → exec .graphRebalance s = .next s)
  ∧ (∀ (s : State) (die : Nat), s.input = .graphRebalance die → s.rebalanced.getD die 0 + 4096 ≤ s.cycles → Completes .graphRebalance s fun t =>
      t = { s with graphs := t.graphs, rebalanced := t.rebalanced } ∧ t.graphs.length = s.graphs.length
      ∧ (die < s.rebalanced.length → t.rebalanced.getD die 0 = s.cycles / 4096 * 4096)
      ∧ ∀ i, i < s.graphs.length → let g := s.graphs.getD i {}; let h := t.graphs.getD i {}
          h = { g with stages := h.stages } ∧ h.stages.length = g.stages.length)
  ∧ (∀ (ws : List Nat) (c : Nat), (shareTargets ws c).length = ws.length
      ∧ ((∃ w ∈ ws, w ≠ 0) → (shareTargets ws c).foldl (· + ·) 0 = c)
      ∧ ∀ i, ws.getD i 0 = 0 → (shareTargets ws c).getD i 0 = 0)
  -- an instance starts (R28, R290): the slot it takes from its input, the OUTCOUNT slots it reserves in its output, whose header words
  -- become 0, and words 60 to 62 of its arguments; the word that FLAGW names becomes 0 (R68)
  ∧ (∀ (s u : State) (gid stage : Nat) (g : Graph) (c : Comp) (l : Launch), s.input = .stageInstanceStart gid stage → s.graphOf gid = some g →
      stage < g.stages.length → g.canStart (g.stage stage) = true → s.newComp g.job = some (c, u) →
      u.launchCheck ((u.jobOf g.job).getD {}) (s.readLaunch ((s.jobOf g.job).getD {}) (g.stage stage).template.toNat) false = .ok l →
      let st := g.stage stage
      let j := (s.jobOf g.job).getD {}
      let took := g.take st
      let reserved := took.1.reserve st
      let first := reserved.2.getD 0
      let slots := match st.outEdge with
        | none => []
        | some k => (List.range st.outCount).map fun n =>
            (reserved.1.edge k).slotAt ((first + n) % max 1 (reserved.1.edge k).capacity)
      let cleared := slots.foldl (fun (v : State) a => v.kernelWrite j a 8 0) u
      Completes .stageInstanceStart s fun t =>
        t.launches = s.launches ++ [{ l with
          id := u.nextId, graph := gid, stage := stage, taken := took.2.1, reserve := reserved.2, comp := { c with detres := l.det }
          args := setAt (setAt (setAt l.args 60 (BitVec.ofNat 64 took.2.2)) 61 (BitVec.ofNat 64 first)) 62 (BitVec.ofNat 64 st.started) }]
        ∧ t.graphOf gid = some { reserved.1 with stages := setAt g.stages stage { st with started := st.started + 1 } }
        ∧ t.mem = ((cleared.kernelWrite ((cleared.jobOf l.job).getD {}) l.flagw.toNat 8 0).putComp { c with detres := l.det }).mem)
  -- an instance that is refused takes and reserves no slot (R310)
  ∧ (∀ (s u : State) (gid stage : Nat) (g : Graph) (c : Comp) (e : Cause), s.input = .stageInstanceStart gid stage → s.graphOf gid = some g →
      stage < g.stages.length → g.canStart (g.stage stage) = true → s.newComp g.job = some (c, u) →
      u.launchCheck ((u.jobOf g.job).getD {}) (s.readLaunch ((s.jobOf g.job).getD {}) (g.stage stage).template.toNat) false = .error e →
      Completes .stageInstanceStart s fun t => t.launches = s.launches ∧ ∀ h, t.graphOf gid = some h → h.edges = g.edges ∧ h.stages = g.stages)
  ∧ (∀ (g : Graph) (st : Stage) (k : Nat), st.inEdge = some k → k < g.edges.length → g.canStart st = true →
      let e := (g.edge k).skipped
      let h := (g.take st).1
      e.slot e.ti = .produced ∧ (g.take st).2 = (some e.ti, e.base.toNat + 64 * e.slotsz * e.ti)
      ∧ ((h.edge k).ti = (e.ti + 1) % max 1 e.capacity)
      ∧ ∀ i, (h.edge k).slot i = if i = e.ti then .taken else e.slot i)
  ∧ (∀ (g : Graph) (st : Stage) (k : Nat), st.outEdge = some k → k < g.edges.length → g.canStart st = true →
      let e := g.edge k
      let h := (g.reserve st).1
      st.outCount ≤ e.free ∧ (g.reserve st).2 = some e.ri ∧ (h.edge k).ri = (e.ri + st.outCount) % max 1 e.capacity
      ∧ (∀ i, (h.edge k).slot i = if ∃ n < st.outCount, i = (e.ri + n) % max 1 e.capacity then .reserved else e.slot i)
      ∧ ∀ m, m ≠ k → h.edge m = g.edge m)
  ∧ (∀ (s : State) (lid : Nat) (l : Launch), s.input = .launchEnd lid → s.launchOf lid = some l → l.live = true → s.launchDone l = true → s.memWf →
      Completes .launchEnd s fun t =>
        (∀ x ∈ t.allLaunches, x.id ≠ lid) ∧ (∀ k ∈ t.allJobs, k.id = l.job → (0, l.comp.va) ∈ k.pastRecs)
        ∧ (s.graphOf l.graph = none → (∀ j ∈ s.allJobs, j.cancel = false) → l.staged = [] → l.comp.pa ≠ 0 →
            Memory.readN t.mem (l.comp.pa + 8) 8 = s.timeNs % 2 ^ 64
            ∧ Memory.readN t.mem (l.comp.pa + 6) 1 % 8 = if l.cause.isSome then 3 else if l.cancel then 2 else 1))

/-- R25, R33, R36 to R40, R108, R140, R207, R325, R329: plots leave their cores, come back, move, restart, roll back and start again with the
registers of their checkpoints; a pre-emption writes the plot's context in its area and nothing else; and the runs of a sampled plot
are compared, a third of them deciding.
THE MODEL'S CHOICE: that a rollback discards every uncommitted store and where a checkpoint's copies lie (log entry 40), what a checkpoint
keeps of frames (log entry 47), what stands for the second and the third run (log entry 38), and the layout of a queued operation in a
plot's context (log entry 20) are the model's reading. -/
def Obligations.PlotsLeaveAndReturn : Prop :=
  ∀ (s : State) (pid : Nat),
    (∀ p, s.input = .preemptionSave pid → s.plotOf pid = some p → p.status = .resident → p.preempt = true → s.plotLeft p = true →
      (∀ o ∈ (s.coreOf p.core).seq, o.plot = pid → o.running = false) → (∀ e ∈ s.ejobs, e.plot = pid → s.jobTiles e = []) →
      p.held.length + p.silo.length ≤ p.heldRoom → pid ≠ 0 →
      Completes .preemptionSave s fun t => ∃ q, t.plotOf pid = some q ∧ q.status = .saved ∧ q.silo = [] ∧ q.held = p.held ++ p.silo
        ∧ q.savedOps = (s.coreOf p.core).seq.filter (·.plot = pid) ∧ q.tiles = p.tiles ∧ (∀ o ∈ (t.coreOf p.core).seq, o.plot ≠ pid)
        ∧ t.allFurs = s.allFurs
        -- the plot's context (R329)
        ∧ t.mem = ((s.orFlags p).writePlot q q.savedOps p.ctxPa).mem
        ∧ (p.flags = 0 → p.ctxPa = 0 → t.mem = s.mem)
        ∧ (p.flags = 0 → s.memWf → p.ctxPa ≠ 0 →
            (∀ a, (a < p.ctxPa ∨ p.ctxPa + 4096 + 36864 * p.tiles.length + 73728 * p.bins.length ≤ a) → Memory.byte t.mem a = Memory.byte s.mem a)
            ∧ Memory.readN t.mem p.ctxPa 4 = p.team.toNat ∧ Memory.readN t.mem (p.ctxPa + 4) 1 = p.tiles.length % 256
            ∧ Memory.readN t.mem (p.ctxPa + 5) 1 = p.bins.length % 256))
    ∧ (∀ p core twin, s.input = .plotRestore pid → s.plotOf pid = some p → p.status = .saved → (s.allFurs.map (·.id)).Nodup → 0 ∉ s.allFurs.map (·.id) →
        s.coreBack p (p.roomBack (s.allFurs.filter (·.plot = pid))) p.savedOps.length 0 0 = some (core, twin) →
        Completes .plotRestore s fun t =>
          (∃ q, t.plotOf pid = some q ∧ q.status = .resident ∧ q.core = core ∧ q.twin = twin ∧ q.preempt = false ∧ q.savedOps = [] ∧ q.tiles = p.tiles ∧ q.bins = p.bins
            ∧ q.held = p.held ∧ q.silo = p.silo)
          ∧ t.mem = s.mem
          ∧ ∀ f ∈ s.allFurs, f.plot = pid → f.status = .saved → ∃ g ∈ t.furs, g.id = f.id ∧ g.status = .ready ∧ g.lanes = f.lanes ∧ g.masks = f.masks
              ∧ g.xregs = f.xregs ∧ g.splits = f.merge.splits ∧ g.yields = f.yields)
    ∧ (∀ lid die l, s.input = .plotMoveDie lid die → s.launchOf lid = some l → s.dieLost die = true → 
        (let need := (s.allPlots.filter fun p => p.launch = lid ∧ p.die = die ∧ p.status ≠ .ending).length * l.furrows
         ∃ d < 4, d ≠ die ∧ s.liveCores d ≠ [] ∧ (64 < need ∨ need ≤ s.dieSlots d)) →
        (∀ p ∈ s.allPlots, p.launch = lid → p.die = die → p.granted = false ∧ p.status = .atDie) →
        Completes .plotMoveDie s fun t => (∀ q ∈ t.allPlots, q.launch = lid → q.die ≠ die) ∧ t.mem = s.mem ∧ t.allFurs = s.allFurs
          ∧ t.allPlots.length = s.allPlots.length)
    ∧ (∀ fid, s.input = .regionRestart fid → fid ≠ 0 → s.rets = [] →
        let t0 := s.focusFur fid
        t0.fur.id = fid → t0.fur.status = .ready →
        (t0.fur.region = none → exec .regionRestart s = .next t0.rollback)
        ∧ ∀ r, t0.fur.region = some r →
          (r.restarts < 2 → Completes .regionRestart s fun t =>
            t = { t0 with
              fur := { t0.fur with
                splits := r.splits, masks := r.masks, yields := r.yields, latches := [], watch := List.replicate 4 {}
                region := some { r with restarts := r.restarts + 1 } }
              plot := { t0.plot with silo := t.plot.silo, held := t.plot.held } }
            -- of the furrow's own entries those go that the attempt stored, and those that stood before it are as they were (R108)
            ∧ (let back := fun (l : List SiloEntry) =>
                 l.filterMap fun x => if x.tag == t0.fur.tag && !x.vis then r.own.find? (·.num == x.num) else some x
               t.plot.held = back t0.plot.held ∧ t.plot.silo = back t0.plot.silo))
          ∧ (2 ≤ r.restarts → exec .regionRestart s = .next (t0.charge .coreFault (.core (t0.plot.core - 1))).rollback))
    ∧ (∀ p, s.input = .plotRollback pid → pid ≠ 0 → s.plotOf pid = some p → p.status = .resident → (∀ x ∈ p.eccSeen, p.eccAt.contains x = false) →
        (∀ l, s.launchOf p.launch = some l → l.cancel = false) →
        let frames := (p.check.map (·.frames)).getD []
        Completes .plotRollback s fun t =>
          -- JOIN of the frames that the checkpoint keeps is what it was (R140)
          (frames = [] → t.mem = s.mem)
          ∧ (∀ l j u pa, s.launchOf p.launch = some l → s.jobOf l.job = some j → frames = [u] → s.joinPa j u.n = some pa → s.memWf →
              Memory.readN t.mem pa 4 = u.join % 2 ^ 32 ∧ ∀ a, (a < pa ∨ pa + 4 ≤ a) → Memory.byte t.mem a = Memory.byte s.mem a)
          ∧ (∀ f ∈ t.allFurs, f.plot ≠ pid) ∧ (∀ f ∈ s.allFurs, f.plot ≠ pid → f ∈ t.allFurs)
          ∧ (∀ o ∈ (t.coreOf p.core).seq, o.plot ≠ pid) ∧ (∀ q ∈ (t.coreOf p.core).callq, q.plot ≠ pid)
          ∧ t.plotOf pid = some { p with
              status := .rolledBack, silo := [], held := [], savedRed := [], yokes := [], bars := [], team := 0
              flags := (p.check.map (·.flags)).getD 0, redCount := (p.check.map (·.redCount)).getD []
              eccAt := p.eccSeen, eccSeen := [], runFault := none })
    ∧ (∀ p l core twin, s.input = .plotRelaunch pid → s.plotOf pid = some p → s.launchOf p.launch = some l → p.status = .rolledBack → l.cancel = false →
        (∀ e ∈ s.ejobs, e.plot ≠ pid) →
        (p.check = none → s.coreBack p (l.room (((s.jobOf l.job).getD {}).objAt l.obj).silo) 0 0 p.core = some (core, twin) →
          Completes .plotRelaunch s fun t => ∃ q, t.plotOf pid = some q ∧ q.status = .resident ∧ q.core = core ∧ core ≠ p.core ∧ coreDie core = p.die
            ∧ q.tiles = List.replicate l.tiles {} ∧ q.bins = List.replicate l.bins {} ∧ q.silo = [] ∧ q.held = []
            -- its furrows start anew, with their argument words (R38, R56)
            ∧ ∀ k < l.furrows, ∃ f ∈ t.furs, f.plot = pid ∧ f.logical = BitVec.ofNat 5 k ∧ f.status = .ready ∧ f.budget = l.budget
              ∧ f.xregs = (List.range 64).map (fun j => l.args.getD j 0) ∧ f.lanes = List.replicate 32 {} ∧ f.masks = List.replicate 15 0)
        ∧ (∀ c, p.check = some c →
          s.coreBack p (({ p with tiles := c.tiles, bins := c.bins } : Plot).roomBack (c.furs.map s.fromCheck)) c.ops.length c.queue.length p.core =
            some (core, twin) →
          Completes .plotRelaunch s fun t => ∃ q, t.plotOf pid = some q ∧ q.status = .resident ∧ q.core = core ∧ core ≠ p.core ∧ coreDie core = p.die
            ∧ q.tiles = c.tiles ∧ q.bins = c.bins ∧ q.team = c.team ∧ q.chans = c.chans ∧ q.check = p.check
            ∧ (∀ o ∈ c.ops, o ∈ (t.coreOf core).seq) ∧ t.mem = s.mem
            -- its furrows stand as the checkpoint keeps them (R38, R62)
            ∧ ((c.furs.map (·.id)).Nodup → (∀ f ∈ c.furs, f.id ≠ 0 ∧ ∀ g ∈ s.allFurs, g.id ≠ f.id) →
              ∀ f ∈ c.furs, f.status = .ready → ∃ g ∈ t.allFurs, g.id = f.id ∧ g.plot = f.plot ∧ g.status = .ready ∧ g.lanes = f.lanes ∧ g.masks = f.masks
                ∧ g.xregs = f.xregs ∧ g.xpoison = f.xpoison ∧ g.splits = f.merge.splits ∧ g.yields = f.yields ∧ g.ownFrame = f.ownFrame)))
    -- the second run of a sampled plot (R39, R40): it comes to another end, rolls back, or has caught up again
    ∧ (∀ p, s.plotOf pid = some p → p.sampled = true → p.status = .resident →
        let with_ := fun (x : SecondRun) (y : Option Cause) (t : State) =>
          t = { s with plot := t.plot, plots := t.plots } ∧ t.plotOf pid = some { p with second := x, runFault := y }
        (∀ e, s.input = .secondApart pid e → p.second = .alike → e ≠ p.firstEnd → Completes .cruiseThirdRun s (with_ (.apart e) p.runFault))
        ∧ (s.input = .secondRollback pid → Completes .plotRollback s (with_ .behind p.runFault))
        ∧ (s.input = .secondBack pid → p.second = .behind → Completes .plotRelaunch s (with_ .alike none)))
    -- and a third run decides between them: the core of the one that is outvoted is charged
    ∧ (∀ p e third k3, s.input = .cruiseThirdRun pid third k3 → s.plotOf pid = some p → p.status = .resident → p.sampled = true → p.second = .apart e →
        k3 ≠ p.core → k3 ≠ p.twin → 1 ≤ k3 → coreDie k3 = p.die → 1 ≤ (s.windowOf .coreFault).t →
        let charged := fun (k : Nat) => s.charge .coreFault (.core (k - 1))
        let alike := fun (k : Nat) => (charged k).modPlot pid fun q => { q with second := .alike, runFault := none }
        (∀ k, (EventClass.coreFault, UnitId.core (k - 1), s.timeNs) ∈ (charged k).fleet.events)
        ∧ (third = p.firstEnd → Completes .cruiseThirdRun s (· = alike p.twin))
        ∧ (third ≠ p.firstEnd → third = e →
            (∀ d, e = .stores d → exec .cruiseThirdRun s = .next ((alike p.core).rollPlot pid))
            ∧ ∀ c, e = .fault c → exec .cruiseThirdRun s = .next ((alike p.core).plotFault p none 0 c))
        ∧ (third ≠ p.firstEnd → third ≠ e → exec .cruiseThirdRun s = .next (s.plotFault p none 0 .diverge)))

/-- R51, R203: a load or an atomic returns: its values are written where the furrow's core, context number and generation still
match, and are dropped otherwise; its number is free. -/
def Obligations.Returning : Prop :=
  ∀ p ∈ ([(.loadReturn, Input.loadReturn, false), (.atomicReply, Input.atomicReply, true)] : List (Instr × (Nat → Input) × Bool)),
    ∀ (s : State) (r : Ret), s.input = p.2.1 r.id → r ∈ s.rets → (∀ x ∈ s.rets, x.id = r.id → x = r) → r.atomic = p.2.2 →
      s.fur.id ≠ 0 → r.fur = s.fur.id → (∀ f ∈ s.furs, f.id ≠ s.fur.id) → s.plot.id ≠ 0 → s.fur.plot = s.plot.id →
      let gone : State := { s with rets := s.rets.filter (·.id ≠ r.id) }
      (¬(s.fur.ctx = r.ctx ∧ s.fur.gen = r.gen ∧ s.plot.core = r.core) → Completes p.1 s (· = gone))
      ∧ (s.fur.ctx = r.ctx → s.fur.gen = r.gen → s.plot.core = r.core → ∀ dst sg w vals, r.data = .value dst sg w vals →
        let act := maskOf fun i => (vals.getD i none).isSome
        let v := fun i => wide64 sg w (match vals.getD i none with | some x => ⟨x.1.toNat, x.2⟩ | none => ⟨0, false⟩)
        Completes p.1 s fun t =>
          t = { gone with fur := t.fur }
          ∧ t.fur = { s.fur with lanes := t.fur.lanes, xregs := t.fur.xregs, xpoison := t.fur.xpoison, latches := newLatches s dst act v }
          ∧ (∀ i k, i < 32 → k < 1024 → t.slice i k = newSlice s dst act v i k) ∧ ∀ j, j < 64 → t.xsrc j = newX s dst act v j)

/-- R105, R146, R147, R206, R207: waits end where their words, read at their home slices, or the time meet them; a watch slot
that is met fires. Where they are not met nothing happens. The furrow is taken into the issue stage (`t0`). -/
def Obligations.WaitsEnd : Prop :=
  ∀ (s : State) (fid : Nat),
    let t0 := s.focusFur fid
    let holds := fun (c : Cmp) (w v : Nat) => match c with | .ge => decide (v ≤ w) | .eq => decide (w = v) | .ne => decide (w ≠ v)
    let met := fun (a v : Word) (c : Cmp) => (t0.homeAddr a.toNat).isSome = true ∧ holds c (Memory.readN s.mem (t0.homePa a.toNat) 8) v.toNat = true
    -- what an acquire of the word at `a` may change besides the furrow
    let acquires := fun (sc : BitVec 3) (t : State) =>
      t = { t0 with
        fur := t.fur, plot := { t0.plot with acqAt := t.plot.acqAt }, core := { t0.core with l1 := t.core.l1 }, rdc := t.rdc, checker := t.checker }
      ∧ t0.sameRecords t ∧ t.plot.acqAt = (if 3 ≤ sc.toNat then s.steps else t0.plot.acqAt) ∧ (2 ≤ sc.toNat → t.core.l1 = [])
    -- the furrow has passed its instruction
    let passes := fun (t : State) =>
      t.fur.status = .ready ∧ (t.fur.splits.getD t0.fur.cur {}).pc = t0.fur.npc ∧ t.fur.masks = t0.fur.masks ∧ t.fur.region = t0.fur.region
      ∧ t.fur.yields = t0.fur.yields + (if t0.fur.npc.getLsbD 2 then 0 else 1)
    let one := (t0.fur.splits.filter (·.valid)).length ≤ 1
    (∀ a v c sc at_, s.input = .yieldWReactivate fid → t0.fur.status = .waitStamp a v c sc at_ →
      (¬met a v c → exec .yieldWReactivate s = .next s)
      ∧ (met a v c → t0.scopeOk sc (t0.homePa a.toNat) = true → Completes .yieldWReactivate s fun t =>
          acquires sc t ∧ t.fur = { t0.fur with status := .reactivate, waitFrom := s.steps, waitClk := s.cycles }))
    ∧ (∀ a v c sc, s.input = .waitvSatisfied fid → t0.fur.status = .waitValue a v c sc →
      (¬met a v c → exec .waitvSatisfied s = .next s)
      ∧ (met a v c → t0.scopeOk sc (t0.homePa a.toNat) = true → one → Completes .waitvSatisfied s fun t =>
          acquires sc t ∧ passes t ∧ t.fur.lanes = t0.fur.lanes ∧ t.fur.xregs = t0.fur.xregs ∧ t.fur.watch = t0.fur.watch ∧ t.fur.latches = t0.fur.latches))
    ∧ (∀ xd m, s.input = .waitvSatisfied fid → t0.fur.status = .waitWatch xd m →
      let slot := fun k => t0.fur.watch.getD k {}
      let ready := fun k => m.getLsbD k && (slot k).armed && (slot k).fired
      ((∀ k < 4, ready k = false) → exec .waitvSatisfied s = .next s)
      ∧ ∀ k < 4, ready k = true → (∀ j < k, ready j = false) → t0.scopeOk (slot k).scope (t0.homePa (slot k).addr.toNat) = true → one →
          Completes .waitvSatisfied s fun t => acquires (slot k).scope t ∧ passes t ∧ t.fur.lanes = t0.fur.lanes
            ∧ (∀ j, t.fur.watch.getD j {} = if j = k then {} else slot j)
            ∧ ∀ j, j < 64 → t.xsrc j = if xd = some (BitVec.ofNat 6 j) then ⟨k, false⟩ else t0.xsrc j)
    ∧ (∀ k, s.input = .watchFire fid k → t0.fur.id = fid →
      let w := t0.fur.watch.getD k {}
      ((w.armed = false ∨ w.fired = true ∨ ¬met w.addr w.value w.cmp) → exec .watchFire s = .next s)
      ∧ (w.armed = true → w.fired = false → met w.addr w.value w.cmp → Completes .watchFire s fun t =>
          t = { t0 with fur := { t0.fur with watch := t.fur.watch } }
          ∧ ∀ j, t.fur.watch.getD j {} = if j = k then { w with fired := true } else t0.fur.watch.getD j {}))
    ∧ (∀ due dest, s.input = .waittReady fid → t0.fur.status = .waitTime due dest →
      let now := s.timeNs % 2 ^ 64
      (now < due.toNat → exec .waittReady s = .next s)
      ∧ (due.toNat ≤ now → one →
        (dest = none → Completes .waittReady s fun t => t = { t0 with fur := t.fur } ∧ passes t ∧ t.fur.lanes = t0.fur.lanes ∧ t.fur.xregs = t0.fur.xregs)
        ∧ ∀ o act p, dest = some (o, act, p) → Completes .waittReady s fun t => t = { t0 with fur := t.fur } ∧ passes t
            ∧ (∀ i j, i < 32 → j < 1024 → t.slice i j = newSlice t0 o act (fun _ => ⟨wrap 64 ((now : Int) - due.toNat), p⟩) i j)
            ∧ ∀ j, j < 64 → t.xsrc j = newX t0 o act (fun _ => ⟨wrap 64 ((now : Int) - due.toNat), p⟩) j))

/-- R27, R322, R325, R327, R342: barriers and translations that furrows wait for, trap records that wait for room, and traps that
nobody answers. R43, R331, R333: what follows when the checks of slices, plots, L1, L2 and near memory and far memory find an error.
THE MODEL'S CHOICE: when the services read a queue (log entry 33), that their behaviour is one step (log entry 43), what a rollback
discards (log entry 40), and that a check's finding is an event (log entry 13) are the model's choice. -/
def Obligations.ServicesAnswer : Prop :=
  ∀ (s : State) (fid : Nat),
    let t0 := s.focusFur fid
    (∀ pid p b, s.input = .barTimeout pid → s.plotOf pid = some p → p.bars = [b] → b.since + p.barto ≤ s.cycles → b.fur = fid →
      (s.furOf fid).any (fun f => f.status == .barrier b.n) = true →
      let t1 : State := { t0 with fur := { t0.fur with status := .ready } }
      exec .barTimeout s = t1.takeFault { cause := .bartimeout, lanes := t0.m0, arrived := b.arrived, barId := b.n, yokeJ := 0 }
      ∧ (TrapRoom t1 → t1.plot.holdsFault .bartimeout = false → t1.countsOpen = false →
          (∀ g ∈ t0.furs, g.plot = t0.plot.id →
            g.ctxPa = 0 ∨ g.ctxPa + 24576 ≤ t0.plot.trapq.toNat ∨ t0.plot.trapq.toNat + 64 ≤ g.ctxPa) →
          Completes .barTimeout s fun t => t.trapSeq = s.trapSeq + 1))
    ∧ (∀ va acc e, s.input = .translationWalk fid → t0.fur.id = fid → t0.fur.status = .translate va acc none → t0.job.id ≠ 0 →
      t0.walk t0.job va.toNat = .leaf e → e.allows acc t0.fur.priv = true → t0.core.id = t0.plot.core → t0.core.id ≠ 0 →
      Completes .translationWalk s fun t =>
        t = { t0 with fur := { t0.fur with status := .ready }, core := { t0.core with tlb := t.core.tlb }, cores := t.cores, tcache := t.tcache }
        ∧ t.core.tlb.head? = some e)
    ∧ (∀ va acc, s.input = .translationWalk fid → t0.fur.id = fid → t0.fur.status = .translate va acc none → t0.job.id ≠ 0 →
      t0.walk t0.job va.toNat = .invalid →
      -- misses of a die on one page share a walk
      (∀ e, t0.pendingWalk t0.plot.die t0.job.asid va.toNat = some e →
        Completes .translationWalk s (· = { t0 with fur := { t0.fur with status := .translate va acc (some e) } }))
      ∧ (t0.pendingWalk t0.plot.die t0.job.asid va.toNat = none → let fq := t0.plot.faultq.toNat
      (qHead s.mem fq).full = false → paOk fq = true → paOk (fq + 63) = true →
      let e := (qHead s.mem fq).slot 64
      paOk e = true → paOk (e + 63) = true → Completes .translationWalk s fun t =>
        t = { t0 with fur := { t0.fur with status := .translate va acc (some e) }, mem := t.mem, faultSeq := s.faultSeq + 1 }))
    ∧ (∀ va acc q, s.input = .walkRetry fid → t0.fur.id = fid → t0.fur.status = .translate va acc (some q) → t0.job.id ≠ 0 →
      t0.walk t0.job va.toNat ≠ .poisoned →
      let disp := Memory.readN s.mem (q + 48) 1
      (disp = 0 → s.memWf → Completes .walkRetry s fun t => t.fur = t0.fur
        ∧ Memory.readN t.mem (q + 48) 1 = if ∃ a ∈ acc :: t0.waiters q, (t0.touchPage t0.job.id va.toNat a).isSome = true then 1 else 2)
      ∧ (disp = 1 → ∀ e, t0.walk t0.job va.toNat = .leaf e → e.allows acc t0.fur.priv = true → Completes .walkRetry s fun t =>
          t.fur = { t0.fur with status := .ready } ∧ t.mem = s.mem)
      ∧ (2 ≤ disp → Completes .walkRetry s fun t => t = { t0 with fur := { t0.fur with status := .ready, refused := some (va, acc) } }))
    ∧ (∀ r, s.input = .trapRecordWrite fid → t0.fur.status = .trapFull r →
      (t0.trapsFull = true → Completes .trapRecordWrite s fun t => t = { t0 with mem := t.mem }
        ∧ Memory.readN t.mem (t0.plot.trapq.toNat + 24) 8 = (qHead s.mem t0.plot.trapq.toNat).prod)
      ∧ (TrapRoom t0 → savesPlot r.cause = false → (∀ x ∈ s.rets, x.fur ≠ t0.fur.id) → Completes .trapRecordWrite s fun t =>
          t.trapSeq = s.trapSeq + 1 ∧ (disposition r.cause = .service → Trapped t0 r t)))
    ∧ (∀ f seq c at_ e, s.input = .trapreplyTimeout fid → s.furOf fid = some f → f.status = .trapped seq c at_ e → disposition c = .host →
      (s.timeNs < at_ + 5000000000 → exec .trapreplyTimeout s = .next s)
      ∧ (at_ + 5000000000 ≤ s.timeNs → Completes .trapreplyTimeout s fun t =>
          ∀ p l, s.plotOf f.plot = some p → s.launchOf p.launch = some l → ∀ j ∈ t.allJobs, j.id = l.job → j.faulted ≠ none ∧ j.cancel = true))
    -- a group of a lane: poisoned in that lane, or corrected and counted (R43, R49)
    ∧ (∀ f lane group corrected, s.input = .sliceError fid lane group corrected → s.furOf fid = some f → fid ≠ 0 → f.lanes.length = 32 →
        (s.allFurs.map (·.id)).Nodup → f.status.resident = true → lane < 32 → 16 * group < f.budget →
        (corrected = false → Completes .regionRestart s fun t => t = { s with fur := t.fur, furs := t.furs }
          ∧ (∀ h ∈ s.allFurs, h.id ≠ fid → h ∈ t.allFurs)
          ∧ ∃ g, t.furOf fid = some g ∧ g = { f with lanes := g.lanes }
            ∧ ∀ i < 32, ∀ k < 1024, (g.lanes.getD i {}).read k 4 = (f.lanes.getD i {}).read k 4
              ∧ (g.lanes.getD i {}).poisoned k 4 = (decide (i = lane ∧ k / 16 = group) || (f.lanes.getD i {}).poisoned k 4))
        ∧ (∀ p, corrected = true → s.plotOf f.plot = some p → p.status = .resident →
            exec .regionRestart s = .next (s.charge .coreCorrected (.core (p.core - 1)))))
    -- tiles, bins, harrow records and silos: the plot rolls back; L1: the line is dropped (R331)
    ∧ (∀ pid p, s.input = .plotError pid → s.plotOf pid = some p → p.status = .resident →
        exec .plotRollback s = .next ((s.charge .coreFault (.core (p.core - 1))).rollPlot pid))
    ∧ (∀ core line, s.input = .l1Error core line → core ≠ 0 → Completes .plotRollback s fun t =>
        t = { s with core := t.core, cores := t.cores } ∧ (∀ k, k ≠ core → t.coreOf k = s.coreOf k)
        ∧ t.coreOf core = { s.coreOf core with l1 := (s.coreOf core).l1.filter fun x => x.sector / 2 ≠ line })
    -- memory: the sector is poisoned, and a KIND 2 entry says so; where the channel finds it, with TAGSKIP (R331, R333)
    ∧ (let sick := fun (u : State) (sec unit_ code rest : Nat) =>
         u = { s with mem := u.mem, poisoned := setPoison s.poisoned sec true, faultSeq := u.faultSeq, fleet := u.fleet }
         ∧ ∀ e, e = (qHead s.mem s.faultq.toNat).slot 64 → (qHead s.mem s.faultq.toNat).full = false → s.memWf →
             (∀ a ∈ [s.faultq.toNat, s.faultq.toNat + 63, e, e + 63], paOk a = true) →
             (e + 64 ≤ s.faultq.toNat ∨ s.faultq.toNat + 64 ≤ e) →
             u.faultSeq = s.faultSeq + 1 ∧ Memory.readN u.mem (e + 8) 8 = 64 * sec
             ∧ Memory.readN u.mem e 8 = code + rest + homeDie (64 * sec) * 2 ^ 32 + 127 * 2 ^ 34 + unit_ * 2 ^ 41
       (∀ sec, s.input = .memError sec → paOk (64 * sec) = true → ∃ u, sick u sec (homeSlice (64 * sec)) 0x20 (2 * 2 ^ 8) ∧ u.fleet = s.fleet
          ∧ exec .plotRollback s = .next (u.charge .sliceUncorrectable (.homeSlice (48 * homeDie (64 * sec) + homeSlice (64 * sec)))))
       ∧ ∀ sec ecc cipher tag f, s.input = .farRead sec ecc cipher tag f → paOk (64 * sec) = true →
          let ch := channelOf (64 * sec)
          let keys := keysOf (s.ownerOf sec)
          let good := tag = sectorTag keys.2 sec cipher
          (isNear (64 * sec) = true → exec .plotRollback s = .next s)
          ∧ (isNear (64 * sec) = false →
            (ecc = .uncorrectable → ∃ u, sick u sec (ch % 32) 0x20 (2 * 2 ^ 8 + 2 ^ 12) ∧ u.fleet = s.fleet
              ∧ exec .plotRollback s = .next (u.charge .channelUncorrectable (.channel ch)))
            -- authentic: the data that the ciphertext holds
            ∧ (ecc = .clean → good → cipher = xtsEncrypt keys.1 (BitVec.ofNat 128 sec) (Memory.sector s.mem sec) →
                exec .plotRollback s = .next s)
            ∧ (ecc = .clean → good → cipher ≠ xtsEncrypt keys.1 (BitVec.ofNat 128 sec) (Memory.sector s.mem sec) → s.memWf →
                Completes .plotRollback s fun t => t = { s with mem := t.mem }
                  ∧ Memory.readN t.mem (64 * sec) 64 = (xtsDecrypt keys.1 (BitVec.ofNat 128 sec) cipher).toNat
                  ∧ ∀ a, (a < 64 * sec ∨ 64 * sec + 64 ≤ a) → Memory.byte t.mem a = Memory.byte s.mem a)
            ∧ (ecc = .corrected → good → cipher = xtsEncrypt keys.1 (BitVec.ofNat 128 sec) (Memory.sector s.mem sec) →
                exec .plotRollback s = .next (s.charge .channelCorrected (.channel ch)))
            -- tampered with: poison, a security record, and the end of the job whose key the sector has
            ∧ (ecc ≠ .uncorrectable → ¬good → let o := s.ownerOf sec
                ∃ u, sick u sec (ch % 32) 0x21 (4 * 2 ^ 8 + ((o.map (·.asid.toNat)).getD 0) * 2 ^ 16)
                ∧ u.fleet = { s.fleet with security := s.fleet.security + 1 }
                ∧ (o = none → exec .plotRollback s = .next u)
                ∧ ∀ j, o = some j → ∃ lid x, exec .plotRollback s = .next (u.jobFault j.id lid x .integrity))))

/-- R139, R140, R143, R293, R294: queued furrows are granted in the order of the queue, with what their call or spawn gave them: a callee
the argument block of its frame, a continuation its frame's program counter, masks, x-registers and live slices, a spawned furrow
its x-registers.
THE MODEL'S CHOICE: that the kernel keeps what a continuation is granted is the model's reading (log entry 63). -/
def Obligations.QueuedGrants : Prop :=
  ∀ p ∈ ([(.calleeGrant, Input.calleeGrant, .callee), (.continuationGrant, Input.continuationGrant, .continuation),
      (.spawnedFurrowGrant, Input.spawnedFurrowGrant, .spawned)] : List (Instr × (Nat → Input) × FurKind)),
    ∀ (s : State) (core : Nat) (q : Queued), s.input = p.2.1 core →
      (s.coreOf core).callq.find? (fun q => q.kind == p.2.2 && (s.plotOf q.plot).any (·.status == .resident)) = some q →
      let t0 := s.focusPlot q.plot
      let n := q.budget / 8
      t0.plot.core = core → t0.core.id = core → core ≠ 0 → t0.coreTakes core { units := [q.budget / 64] } = true →
      -- what every furrow granted so has
      let granted := fun (t : State) (f : Furrow) =>
        t.core.callq = t0.core.callq.erase q ∧ f ∈ t.furs ∧ f.plot = t0.plot.id ∧ f.status = .ready ∧ f.kind = p.2.2 ∧ f.logical = q.logical
        ∧ f.budget = q.budget ∧ f.latches = [] ∧ f.lanes.length = 32
      let fresh := fun (f : Furrow) => f.xregs = q.xregs ∧ f.xpoison = q.xpoison ∧ f.masks = List.replicate 15 0
        ∧ f.splits = [{ valid := true, pc := q.pc, mask := q.mask }, {}, {}, {}]
      (p.2.2 = .spawned → q.logical.toNat < t0.launch.furrows →
        Completes p.1 s fun t => ∃ f, granted t f ∧ fresh f ∧ f.lanes = List.replicate 32 {} ∧ f.ownFrame = none)
      ∧ ∀ va pa t1 u, p.2.2 ≠ .spawned → pagesOf furBytes ≤ t0.nearLeft t0.job.slot →
        t0.poolAlloc t0.job.id t0.plot.id t0.plot.die furBytes = some (va, pa, t1) → t1.framePages t0.job core (q.frame.getD 0).toNat = some u →
        (∀ f, u.contSick q f = false) → Completes p.1 s fun t => ∃ f, granted t f ∧ f.ctxPa = pa ∧ f.ctxVa = BitVec.ofNat 64 va ∧
          -- the frame's bytes as the furrow reads them
          let at_ := (q.frame.getD 0).toNat
          let r := fun (off len : Nat) => ({ u with fur := f } : State).view false (at_ + off) len
          -- slice k of lane i in the lanes of a mask, from the live ones of the first `units` units, with the frame's poison (R294)
          let filled := fun (m : Mask) (units : Nat) => ∀ i < 32, ∀ k < 1024,
            let w := r (1024 + 128 * (k / 8) + 4 * i) 4
            let y := (r (17408 + 32 * (k / 8) + i) 1).v
            (f.lanes.getD i {}).read k 4 =
                (if m.getLsbD i = true ∧ k / 8 < units ∧ (r 16 16).v.testBit (k / 8) = true then w.v / 16 ^ (k % 8) % 16 else 0)
            ∧ (f.lanes.getD i {}).poisoned k 4 =
                (m.getLsbD i && decide (k / 8 < units) && (r 16 16).v.testBit (k / 8) && (w.p || y.testBit (k % 8)))
          (p.2.2 = .callee → fresh f ∧ f.ownFrame = q.frame ∧ filled q.mask (min 8 n))
          ∧ (p.2.2 = .continuation → f.ownFrame = q.parent ∧ f.granted = BitVec.ofNat 32 (r 8 4).v
              ∧ f.splits = [{ valid := true, pc := BitVec.ofNat 64 (r 0 8).v, mask := BitVec.ofNat 32 (r 8 4).v }, {}, {}, {}]
              ∧ f.masks = (List.range 15).map (fun k => BitVec.ofNat 32 (r (64 + 4 * k) 4).v)
              ∧ f.xregs = (List.range 64).map (fun k => BitVec.ofNat 64 (r (128 + 8 * k) 8).v)
              ∧ (∀ k < 64, f.xpoison.getLsbD k = ((r 640 8).v.testBit k || (r (128 + 8 * k) 8).p))
              ∧ filled (BitVec.ofNat 32 (r 8 4).v) n)

/-! ### Engines, windows and the sequencer at work -/

/-- R40, R102, R104, R214 to R219, R312, R324: engine jobs start once nothing before them holds them back; they are performed, or fail
with their cause; a performed job writes its status word and then its stamp, and is gone.
THE MODEL'S CHOICE: open destination bytes are free values (log entry 17), what FIRST and OF hold in the cases of log
entry 66, that the second contribution of a launch counts as performed (log entry 78) and FIRST 0 of a hop whose plot is gone (log
entry 61) are the model's reading. -/
def Obligations.EngineJobs : Prop :=
  ∀ (s : State) (e : EJob), s.memWf → e ∈ s.ejobs → (∀ x ∈ s.ejobs, x.id = e.id → x = e) →
    let becomes := fun (g : EJob) (t : State) => t.ejobs = s.ejobs.map fun x => if x.id = e.id then g else x
    let fails := fun (c : BitVec 8) => { e with performed := true, fault := true, cause := c }
    -- a network or collective job that fails leaves its cause in its status and in the fault queue (R324)
    let failed := fun (g : EJob) (t : State) =>
      let fq := ((s.plotOf e.plot).getD {}).faultq.toNat
      let at_ := (qHead s.mem fq).slot 64
      becomes g t ∧ t = { s with ejobs := t.ejobs, mem := t.mem, faultSeq := t.faultSeq }
      ∧ ((qHead s.mem fq).full = false → (∀ a ∈ [fq, fq + 63, at_, at_ + 63], paOk a = true) → (at_ + 64 ≤ fq ∨ fq + 64 ≤ at_) →
          t.faultSeq = s.faultSeq + 1 ∧ Memory.readN t.mem at_ 1 = g.cause.toNat)
    let runs := e.started = true ∧ e.performed = false ∧ s.jobNeeds e = none
    let c := cardParse e.card.toNat
    (s.input = .engineJobStart e.id →
      (s.jobReady e = false → exec .engineJobStart s = .next s)
      ∧ (s.jobReady e = true →
          let g := { e with started := true, sentNs := s.timeNs }
          let net := e.kind = .nwr ∨ e.kind = .nrd
          let known := s.fleet.peers.any fun p => p.1 == BitVec.ofNat 16 c.peer
          ((e.kind.isCopy = true ∨ (net ∧ known = true)) → Completes .engineJobStart s fun t => t = { s with ejobs := t.ejobs } ∧ becomes g t)
          ∧ (net → known = false → (s.jobOf e.job).isSome = true →
              Completes .engineJobStart s (failed { g with performed := true, fault := true, cause := 0x31 }))
          -- the engine discards a second contribution of a launch, logical plot and sequence number (R40)
          ∧ (∀ l, e.kind = .coll → s.launchOf e.launch = some l →
              let key := (((s.plotOf e.plot).map (·.lplot)).getD 0, c.seq)
              (key ∈ l.contrib → Completes .engineJobStart s fun t => t = { s with ejobs := t.ejobs } ∧ becomes { g with performed := true } t)
              ∧ (key ∉ l.contrib → Completes .engineJobStart s fun t =>
                  t = { s with ejobs := t.ejobs, launch := t.launch, launches := t.launches } ∧ becomes g t
                  ∧ (t.launchOf e.launch).map (·.contrib) = some (key :: l.contrib)))))
    ∧ (s.input = .engineStampWrite e.id →
      (e.performed = false → exec .engineStampWrite s = .next s)
      ∧ ∀ j pa, e.performed = true → s.jobNeeds e = none → s.jobOf e.job = some j → e.rollback = false → (e.fault = false ∨ e.kind.isCopy = true) →
          (∀ p, s.plotOf e.plot = some p → p.status ≠ .ending) → s.fleet.draining = [] →
          let t := tplParse e.card.toNat
          let va := if e.kind.isCopy then t.stamp else c.stamp
          let v := if e.kind.isCopy then t.stampV else c.stampV
          let add := if e.kind.isCopy then t.add else c.add
          s.bytesAt j .store va 16 pa → (∀ k < 16, s.fixedByte (pa + k) = 0) → Completes .engineStampWrite s fun u =>
            u = { s with ejobs := s.ejobs.filter (·.id ≠ e.id), mem := u.mem, l2 := u.l2, checker := u.checker }
            ∧ Memory.readN u.mem (pa + 8) 8 = e.fault.toNat + e.oflow.toNat * 2 + e.cause.toNat * 2 ^ 8 + e.first % 2 ^ 32 * 2 ^ 16
            ∧ Memory.readN u.mem pa 8 = (if add then (Memory.readN s.mem pa 8 + v) % 2 ^ 64 else v)
            ∧ (∀ a, (a < pa ∨ pa + 16 ≤ a) → Memory.byte u.mem a = Memory.byte s.mem a)
            ∧ (u.checker.head?.map fun r => (r.line, r.scope, r.remote, r.ptag)) =
                some (pa / 128, if e.kind.isCopy then t.scope else c.scope, false, s.plotTag e.plot))
    ∧ (s.input = .copyComplete e.id → e.kind = .copy → runs → ∀ j d, s.jobOf e.job = some j →
        let t := tplParse e.card.toNat
        ((t.kind = 0 ∧ d = .mem (recParse e.dst.toNat))
          ∨ (t.kind = 1 ∧ ∃ p u, s.plotOf e.plot = some p ∧ p.tiles[t.dtile]? = some u ∧ d = .tile e.plot t.dtile u)) →
        let r := s.copyAll e j t (recParse e.src.toNat) d
        Completes .copyComplete s fun u => becomes { e with
            performed := true, oflow := e.oflow || r.of, rollback := e.rollback || r.sick, fault := r.first.isSome
            cause := (r.first.map fun p => causeCode p.2).getD 0, first := (r.first.map (·.1)).getD 0, old := s.changedBy r.s e } u
          ∧ (r.first = none → t.kind = 0 → u.mem = r.s.mem) ∧ u.allFurs = s.allFurs)
    -- the bytes of a copy between views of one format without block scales: each element of the destination is its element of the
    -- source, and no other byte changes (R214); `pd` and `ps` say where the elements lie in memory
    ∧ (∀ j, s.input = .copyComplete e.id → e.kind = .copy → runs → s.jobOf e.job = some j →
        let t := tplParse e.card.toNat
        let x := recParse e.src.toNat
        let y := recParse e.dst.toNat
        let ext := destExt t x
        let n := ext.foldl (· * ·) 1
        let w := fmtBits x.fmt / 8
        let src := fun (i : Nat) => (x.place (if t.trans then (coords ext i).reverse else coords ext i)).1
        let clean := x.scaled = false ∧ [8, 16, 32, 64].contains (fmtBits x.fmt) = true ∧
          ∀ i < n, ∀ k < w, ∃ a, s.jobPa j .load (src i + k) = some a ∧ s.poisoned.contains (a / 64) = false
        let done := fun (u : State) => ∃ g, becomes g u ∧ g = { e with performed := true, fault := false, cause := 0, first := 0, old := g.old }
        (∀ (pd ps : Nat → Nat), t.kind = 0 → clean → y.fmt = x.fmt → y.scaled = false →
          (∀ u : State, u.poisoned = s.poisoned → (∀ a, (∀ i < n, a < pd i ∨ pd i + w ≤ a) → Memory.byte u.mem a = Memory.byte s.mem a) →
            ∀ i < n, ∀ k < w, u.jobPa j .store ((y.place (coords ext i)).1 + k) = some (pd i + k) ∧ u.jobPa j .load (src i + k) = some (ps i + k)) →
          (∀ i < n, ∀ m < n, (i ≠ m → pd i + w ≤ pd m ∨ pd m + w ≤ pd i) ∧ (pd i + w ≤ ps m ∨ ps m + w ≤ pd i)) →
          (∀ i < n, ∀ k < w, s.fixedByte (pd i + k) = 0) → Completes .copyComplete s fun u => done u ∧ u.poisoned = s.poisoned
            ∧ (∀ i < n, ∀ k < w, Memory.byte u.mem (pd i + k) = Memory.byte s.mem (ps i + k))
            ∧ ∀ a, (∀ i < n, a < pd i ∨ pd i + w ≤ a) → Memory.byte u.mem a = Memory.byte s.mem a)
        -- and into a tile: its elements, and of memory nothing
        ∧ (∀ p z, t.kind = 1 → clean → s.plotOf e.plot = some p → p.tiles[t.dtile]? = some z → tileFmt z = x.fmt → tileScaled z = false →
            tileFits t x (some z) = true → Completes .copyComplete s fun u => done u ∧ u.mem = s.mem ∧ u.poisoned = s.poisoned
              ∧ ∃ q v, u.plotOf e.plot = some q ∧ q.tiles[t.dtile]? = some v ∧ v = { z with bytes := v.bytes }
                ∧ (∀ m, m ≠ t.dtile → q.tiles[m]? = p.tiles[m]?)
                ∧ ∀ i < n, elemBits x.fmt (v.row ((coords ext i).getD 1 0)) ((coords ext i).headD 0) = s.jobRead j (src i) w))
    ∧ (∀ k j, s.input = .relayHop e.id → e.kind = .relay → runs → s.jobOf e.job = some j → e.chain[e.hop]? = some k →
        (s.hopPlot e k = .away → e.broken = false → exec .relayHop s = .next s)
        ∧ (s.hopPlot e k = .gone → e.broken = false → e.fault = false → Completes .relayHop s fun u =>
            becomes { e with
              hop := e.hop + 1, broken := true, performed := decide (e.chain.length ≤ e.hop + 1), fault := true, cause := 0x0C, first := 0 } u
            ∧ u.plots = s.plots ∧ u.plot = s.plot)
        ∧ (e.broken = true → Completes .relayHop s fun u =>
            (∃ g, becomes g u ∧ g.hop = e.hop + 1 ∧ g.broken = true ∧ g.fault = true) ∧ u.plots = s.plots ∧ u.plot = s.plot)
        ∧ (∀ p u, s.hopPlot e k = .here p → e.broken = false → e.fault = false → p.tiles[chainTile k]? = some u →
            tileFits (tplParse e.card.toNat) (recParse e.src.toNat) (some u) = true → s.tileShut p.id (chainTile k) e = false →
            let r := s.copyAll e j (tplParse e.card.toNat) (recParse e.src.toNat) (.tile p.id (chainTile k) u)
            Completes .relayHop s fun u => becomes { e with
              hop := e.hop + 1, performed := decide (e.chain.length ≤ e.hop + 1), oflow := e.oflow || r.of, rollback := e.rollback || r.sick
              fault := r.first.isSome, cause := (r.first.map fun p => causeCode p.2).getD 0, first := (r.first.map (·.1)).getD 0 } u))
    ∧ (∀ agree data j, s.input = .collComplete e.id agree data → e.kind = .coll → runs → s.jobOf e.job = some j →
        (agree = false → Completes .collComplete s (failed (fails 0x30)))
        ∧ (agree = true → s.jobMiss j .load c.local_ c.inBytes = none → s.jobMiss j .store c.local2 c.outBytes = none →
            let ib := fmtBits c.ifmt / 8
            let ob := fmtBits c.outFmt / 8
            -- element i of rank r's source: its own from memory, the others' as they come
            let src := fun (r i : Nat) => if r = c.rank then s.jobRead j (c.local_ + ib * i) ib else ((data.getD r []).getD i 0).toNat % 2 ^ (8 * ib)
            Completes .collComplete s fun u => u = { s with ejobs := u.ejobs, mem := u.mem, l2 := u.l2 }
              ∧ (∃ g, becomes g u ∧ g = { e with performed := true, oflow := g.oflow, fault := false, cause := 0, old := s.changedBy u e })
              ∧ ∀ pa, s.bytesAt j .store c.local2 c.outBytes pa → (∀ k < c.outBytes, s.fixedByte (pa + k) = 0) →
                (∀ a, (a < pa ∨ pa + c.outBytes ≤ a) → Memory.byte u.mem a = Memory.byte s.mem a)
                ∧ ∀ m < c.chunksOut * c.count, let k := m / c.count; let i := m % c.count
                    Memory.readN u.mem (pa + ob * m) ob = (match c.op with
                      | 0 => (reduceElem c src c.rank i).1
                      | 1 => src k i
                      | 2 => (reduceElem c src k i).1
                      | _ => src 0 i) % 2 ^ (8 * ob)))
    ∧ (∀ refused j, s.input = .nwrAck e.id refused → e.kind = .nwr → runs → s.jobOf e.job = some j → s.orderHeld e = false →
        (refused = true → Completes .nwrAck s (failed (fails 0x31)))
        ∧ (refused = false → s.jobMiss j .load c.local_ c.count = none → Completes .nwrAck s fun u =>
            u = { s with ejobs := u.ejobs } ∧ becomes { e with performed := true, old := [] } u))
    ∧ (∀ refused bytes j, s.input = .nrdComplete e.id refused bytes → e.kind = .nrd → runs → s.jobOf e.job = some j → s.orderHeld e = false →
        (refused = true → Completes .nrdComplete s (failed (fails 0x31)))
        ∧ (∀ pa, refused = false → bytes.length = c.count → s.jobMiss j .store c.local_ c.count = none → s.bytesAt j .store c.local_ c.count pa →
            (∀ k < c.count, s.fixedByte (pa + k) = 0) → Completes .nrdComplete s fun u => u = { s with ejobs := u.ejobs, mem := u.mem, l2 := u.l2 } ∧ becomes { e with performed := true, old := s.changedBy u e } u
              ∧ (∀ k < c.count, Memory.byte u.mem (pa + k) = bytes.getD k 0)
              ∧ ∀ a, (a < pa ∨ pa + c.count ≤ a) → Memory.byte u.mem a = Memory.byte s.mem a))
    ∧ ((∃ n, s.input = .transportRetransmit n) → Completes .transportRetransmit s (· = s))
    -- an acknowledgement starts the 50 ms anew; a replay is an event of its unit (R331, R334)
    ∧ (s.input = .transportAck e.id → Completes .transportRetransmit s fun u =>
        u = { s with ejobs := u.ejobs } ∧ becomes { e with sentNs := s.timeNs } u)
    ∧ (∀ n, s.input = .bridgeRetry n → exec .transportRetransmit s = .next (s.charge .bridgeRetry (.bridge n)))
    ∧ (∀ n, s.input = .portFcs n → n < 32 → exec .transportRetransmit s = .next (s.charge .portFcs (.port n)))
    ∧ (s.input = .transportAbandon e.id → (e.kind = .nwr ∨ e.kind = .nrd) →
      let late := e.started = true ∧ e.performed = false ∧ e.sentNs + 50000000 ≤ s.timeNs
      (late → (s.jobOf e.job).isSome = true → Completes .transportAbandon s (failed (fails 0x32)))
      ∧ (¬late → exec .transportAbandon s = .next s))

/-- R319, R219, R104, R212, R213, R220: transfers reach a job's memory only through its windows and are refused otherwise; stores into
the copy aperture latch an index, and start a copy with the address.
THE MODEL'S CHOICE: that narrow aperture stores are collected (log entry 21), how an answer is recorded (log entry 37) and what a
checkpoint at an effect holds (log entry 47) are the model's choice. -/
def Obligations.WindowsAndChannels : Prop :=
  ∀ (s : State), s.memWf →
    let answers := fun (u : State) (x : Transfer) (bad : Bool) (body : List Word) =>
      { u with fleet := { u.fleet with out := u.fleet.out ++
        [{ type := 0, resp := true, rstat := if bad then 0x31 else 0, slot := BitVec.ofNat 32 x.slot, length := BitVec.ofNat 32 (8 * body.length)
           seq := 0, asid := x.asid, tag := 0, body := body }] } }
    -- the window admits the transfer (R319)
    let admits := fun (x : Transfer) (wr : Bool) (n : Nat) (j : Job) =>
      s.jobOfAsid x.asid = some j ∧
      let w := j.windows.getD x.window {}
      w.isOpen = true ∧ x.offset + n ≤ w.len ∧ (if wr then w.wr else w.rd) = true ∧ x.slot = j.slot
      ∧ (if x.isHost then w.host = true else w.any = true ∨ w.peer = x.peer) ∧ (j.live = true ∨ (x.isHost = true ∧ wr = false))
    (∀ x bytes, s.input = .hostWindowWrite x bytes →
      ((∀ j, ¬admits x true bytes.length j) → Completes .hostWindowWrite s (· = answers s x true []))
      ∧ ∀ j pa, admits x true bytes.length j → bytes ≠ [] →
          let va := (j.windows.getD x.window {}).base.toNat + x.offset
          (∀ k < bytes.length, (s.jobPa j .store (va + k)).isSome = true) → s.bytesAt j .store va bytes.length pa → s.jobOf j.id = some j →
          (∀ k < bytes.length, s.fixedByte (pa + k) = 0) →
          Completes .hostWindowWrite s fun t =>
            t = answers { s with mem := t.mem, l2 := t.l2 } x false [] ∧ (∀ k < bytes.length, Memory.byte t.mem (pa + k) = bytes.getD k 0)
            ∧ ∀ a, (a < pa ∨ pa + bytes.length ≤ a) → Memory.byte t.mem a = Memory.byte s.mem a)
    ∧ (∀ x n, s.input = .hostWindowRead x n →
      ((∀ j, ¬admits x false n j) → Completes .hostWindowRead s (· = answers s x true []))
      ∧ ∀ j, admits x false n j → 0 < n →
          let va := (j.windows.getD x.window {}).base.toNat + x.offset
          (∀ k < n, (s.jobPa j .load (va + k)).isSome = true) → s.jobOf j.id = some j →
          Completes .hostWindowRead s (· = answers s x false ((List.range ((n + 7) / 8)).map fun i => BitVec.ofNat 64 (s.jobRead j va n / 2 ^ (64 * i)))))
    ∧ (∀ x bytes off v add, s.input = .nwrTargetWrite x bytes off v add →
      ((∀ j, ¬admits x true bytes.length j) → Completes .nwrTargetWrite s (· = answers s x true []))
      ∧ (∀ u, off = 0xFFFFFFFFFFFFFFFF → s.windowWrite x bytes = some u → Completes .nwrTargetWrite s (· = answers u x false []))
      ∧ (∀ u, off ≠ 0xFFFFFFFFFFFFFFFF → s.windowWrite x bytes = some u → (s.windowAt x true off.toNat 16).isSome = true →
          Completes .nwrTargetWrite s (· = answers (u.remoteStamp x off v add) x false [])))
    -- an aperture store is an engine issue: it closes the region, the plot's entries commit, and a checkpoint stands at it (R220)
    ∧ (s.Focused → s.rets = [] → s.checkBlocked = false → ∀ (ch : BitVec 4) (v : Word), s.plot.chans.length = 16 → (∀ x ∈ s.ejobs, x.id < s.nextId) →
      let old := s.plot.chans.getD ch.toNat {}
      let issued := fun (t : State) =>
        t = { s with
          fur := { s.fur with region := none }
          plot := { s.plot with silo := [], held := [], chans := t.plot.chans, check := t.plot.check }
          core := { s.core with l1 := t.core.l1 }, mem := t.mem, poisoned := t.poisoned, l2 := t.l2, rdc := t.rdc, ejobs := t.ejobs, nextId := t.nextId }
        ∧ ∀ pa, ¬s.inCopies pa → Memory.byte t.mem pa = drained s pa
      (s.input = .copyApertureIndexStore ch v → old.got ≠ 0xFF → Completes .copyApertureIndexStore s fun t =>
          issued t ∧ t.ejobs = s.ejobs ∧ t.nextId = s.nextId ∧ CheckpointedAt s t
          ∧ ∀ k, t.plot.chans.getD k {} = if k = ch.toNat then { old with index := v, valid := true } else s.plot.chans.getD k {})
      ∧ (s.input = .copyApertureStartStore ch v →
        (old.valid = false → exec .copyApertureStartStore s = s.takeFault { cause := .copyflt, lanes := 1, addr := v })
        ∧ let u := s.beforeEffect.setChan ch.toNat fun _ => { old with addr := v, got := 0xFF }
          ∀ e secs, old.valid = true → u.copyJob 0 none ch.toNat old.index.toNat v.toNat = .ok (e, secs) → u.issueStop e = none →
            Completes .copyApertureStartStore s fun t =>
              issued t ∧ t.ejobs = s.ejobs ++ [{ e with id := s.nextId }] ∧ t.nextId = s.nextId + 1
              ∧ (∀ k, t.plot.chans.getD k {} = if k = ch.toNat then { index := old.index } else s.plot.chans.getD k {})
              ∧ ∃ c, t.plot.check = some c ∧ c.furs = (s.allFurs.filter (·.plot = s.plot.id)).map Furrow.kept
                ∧ c.chans = (if e.once then t.plot.chans else s.plot.chans) ∧ c.at_ = if e.once then t.nextId else s.nextId))

/-- R237 to R241, R242, R245, R246, R252, R253, R255: the sequencer runs one step at a time, the oldest operation that is ready; a product's
bins are busy from its start, and take one segment a step; drains, adjoints, row statistics and transposes take one step; a step
that fails its residue check is computed again once, and then the plot rolls back and the core is charged.
THE MODEL'S CHOICE: the flags of a segment with NaN products (log entry 65), that an adjoint takes its chains as it starts (log entry
28), and what a rollback discards (log entry 40) are the model's readings. -/
def Obligations.SequencerSteps : Prop :=
  ∀ (s : State) (core : Nat),
    let seq := (s.coreOf core).seq
    (s.input = .sequencerStep core → s.parkedOps core = [] →
      (seq.any (·.running) = true → exec .sequencerStep s = .next s)
      ∧ (seq.any (·.running) = false → s.pickOp [] seq = none → exec .sequencerStep s = .next s)
      ∧ ∀ o, seq.any (·.running) = false → s.pickOp [] seq = some o →
          let t0 := s.focusPlot o.plot
          ((∀ b a a' tr sa sb m n k, o.kind ≠ .mma b a a' tr sa sb m n k) → (∀ x w dy a a' m n k, o.kind ≠ .dmma x w dy a a' m n k) →
            Completes .sequencerStep s fun t => t = { t0 with core := { t0.core with seq := t.core.seq } }
              -- an adjoint takes its width and its chains as it starts (R252)
              ∧ (∀ l p1 r, o.kind = .prjadj l p1 r → o.started = false → t.core.seq = t0.core.seq.map fun p =>
                  if p.id = o.id then { t0.adjStart o with started := true, running := true } else p)
              ∧ (((∀ l p1 r, o.kind ≠ .prjadj l p1 r) ∨ o.started = true) → t.core.seq = t0.core.seq.map fun p =>
                  if p.id = o.id then { o with started := true, running := true } else p))
          ∧ (∀ b ka kb tr sa sb m n k, o.kind = .mma b (.tile ka) (.tile kb) tr sa sb m n k → o.started = false → o.bins = [b] → b < t0.plot.bins.length →
            Completes .sequencerStep s fun t => t = { t0 with core := { t0.core with seq := t.core.seq }, plot := { t0.plot with bins := t.plot.bins } }
              ∧ t.core.seq = t0.core.seq.map (fun p => if p.id = o.id then { p with started := true, running := true, readA := [], readB := [] } else p)
              ∧ (∀ i, i ≠ b → t.bin i = t0.bin i)
              ∧ ∃ v, t.bin b = some v ∧ v.step = 0 ∧ v.steps = o.steps ∧ v.busy = true ∧ v.parked = false
                ∧ v.elems = (t0.plot.bins.getD b {}).elems)
          -- a step that streams reads its segment's elements as it starts (R238)
          ∧ (∀ g, o.seg = some g → o.started = true → let bytes := streamBytes g.a g.elemsA ++ streamBytes g.b g.elemsB
            (∀ p ∈ bytes, t0.jobMiss t0.job .load p.1 p.2 = none) → (∀ p ∈ bytes, t0.jobSick t0.job p.1 p.2 = []) →
            Completes .sequencerStep s fun t => t = { t0 with core := { t0.core with seq := t.core.seq }, plot := { t0.plot with bins := t.plot.bins } }
              ∧ t.core.seq = (t0.core.seq.map fun p => if p.id = o.id then { p with
                  started := true, running := true, readA := t0.streamRead t0.job g.a g.elemsA, readB := t0.streamRead t0.job g.b g.elemsB } else p)
              ∧ ∀ i, t.bin i = (t0.bin i).map fun v => if i ∈ o.bins then { v with parked := false } else v))
    ∧ (∀ ok o, s.input = .sequencerStepDone core ok → seq.find? (·.running) = some o →
      let t0 := s.focusPlot o.plot
      t0.core.id = core → core ≠ 0 → t0.plot.id ≠ 0 → t0.plot.status = .resident →
      (ok = false → o.retried = false → Completes .sequencerStepDone s fun t => t = { t0 with core := { t0.core with seq := t.core.seq } }
          ∧ t.core.seq = t0.core.seq.map fun p => if p.id = o.id then { p with running := false, retried := true } else p)
      ∧ (ok = false → o.retried = true → exec .sequencerStepDone s = .next ((t0.charge .coreFault (.core (core - 1))).rollPlot o.plot))
      ∧ (∀ b, ok = true → o.kind = .bclr b → b < t0.plot.bins.length → o.steps ≤ o.step + 1 → Completes .sequencerStepDone s fun t =>
          t = { t0 with core := { t0.core with seq := t0.core.seq.filter (·.id ≠ o.id) }, plot := { t0.plot with bins := t.plot.bins } }
          ∧ (∀ i, i ≠ b → t.bin i = t0.bin i)
          ∧ ∃ v, t.bin b = some v ∧ v.elems = [] ∧ v.step = 0 ∧ v.steps = 0 ∧ v.link = 0 ∧ v.busy = (t0.plot.bins.getD b {}).busy)
      -- a product's segment (R81, R82, R237, R239): `a` and `b` are the elements of its operands, from tiles or as the step read them
      ∧ (let adds := fun (bin m n k0 k1 : Nat) (p : Option Nat × Option Nat) (a b : Nat → Nat → Machine.Num) (step steps : Nat) =>
           let r := productStep (t0.plot.bins.getD bin {}) m n k0 k1 p.1 p.2 a b
           Completes .sequencerStepDone s fun t =>
             t = { t0 with core := { t0.core with seq := t.core.seq }, plot := { t0.plot with bins := t.plot.bins, flags := t0.plot.flags ||| r.2 } }
             ∧ t.bin bin = some { r.1 with step := step + 1, busy := decide (step + 1 < steps) } ∧ (∀ i, i ≠ bin → t.bin i = t0.bin i)
             ∧ t.core.seq = (if o.steps ≤ o.step + 1 then t0.core.seq.filter (·.id ≠ o.id) else t0.core.seq.map fun p => if p.id = o.id then
                 { p with step := p.step + 1, running := false, retried := false, readA := [], readB := [] } else p)
         let el := fun (x : MatOp) (rd : List (Nat × Nat × Nat × Nat)) (r c : Nat) =>
           match x with
           | .tile k => ((t0.tile k).getD {}).num r c
           | .stream _ w => let y := recParse w.toNat
             match rd.find? fun e => e.1 == r && e.2.1 == c with
             | some e => if y.scaled then scaleNum (decodeNum y.fmt e.2.2.1) e.2.2.2 else decodeNum y.fmt e.2.2.1
             | none => .zero false false
         (∀ b x y tr sa sb m n k, ok = true → o.kind = .mma b x y tr sa sb m n k → b < t0.plot.bins.length →
           let ps := matParts sa sb
           let k0 := 32 * (o.step / ps.length)
           adds b m n k0 (min k (k0 + 32)) (ps.getD (o.step % ps.length) (none, none)) (el x o.readA)
             (fun q j => if tr then el y o.readB j q else el y o.readB q j) o.step o.steps)
         ∧ ∀ bx bw dy x w m n kin, ok = true → o.kind = .dmma bx bw dy x w m n kin → bx < t0.plot.bins.length → bw < t0.plot.bins.length →
           let first := (n + 31) / 32
           let g := o.step - first
           (o.step < first → adds bx m kin (32 * o.step) (min n (32 * o.step + 32)) (none, none) (el dy o.readA) (fun q j => el w o.readB j q) o.step first)
           ∧ (first ≤ o.step → adds bw kin n (32 * g) (min m (32 * g + 32)) (none, none) (fun i q => el x o.readA q i) (el dy o.readB) g ((m + 31) / 32)))
      -- operations of one step (R245, R246, R252, R253, R255)
      ∧ (ok = true → o.steps = 1 → o.step = 0 → o.bins.Nodup → (∀ n ∈ o.bins, n < t0.plot.bins.length) → o.tiles.Nodup →
          (∀ k ∈ o.tiles, k < t0.plot.tiles.length) → (∀ b ∈ t0.plot.bins, swf (0 : BitVec 32) b.elems = true ∧ swf (0 : BitVec 256) b.recs = true) →
          (∀ u ∈ t0.plot.tiles, swf (0 : Byte) u.bytes = true ∧ swf (0x7F : Byte) u.scales = true) →
          let bins := t0.chainBins o.bins
          let u := (t0.tile (o.tiles.headD 0)).getD {}
          let rows := tileRows u
          let ends := fun (t : State) => t = { t0 with
            fur := t.fur, furs := t.furs, core := { t0.core with seq := t0.core.seq.filter (·.id ≠ o.id) }
            plot := { t0.plot with tiles := t.plot.tiles, bins := t.plot.bins, flags := t.plot.flags } }
          (∀ sel len given p1 p2 rnd dst, o.kind = .drain sel len given p1 p2 rnd dst →
            let res := fun r => drainRow sel (chainRow bins r len) (num32 p1.toNat) (num32 p2.toNat) given (chainRec bins r)
            Completes .sequencerStepDone s fun t => ends t
              ∧ Narrowed t0 rnd o.off ((List.range rows).map fun r => (res r).1) o.tiles
                  (fun b => t0.plot.flags.getLsbD b || (List.range rows).any fun r => (res r).2.2.getLsbD b) t
              ∧ (∀ n, n ∉ o.bins → t.bin n = t0.bin n)
              -- every bin of the chain: its place in it, and the records of its rows
              ∧ (∀ (j n : Nat), o.bins[j]? = some n → ∃ v, t.bin n = some v ∧ v = { t0.plot.bins.getD n {} with recs := v.recs, link := j }
                ∧ ∀ r < 128, if r < rows then v.record r = (res r).2.1.pack j
                    else ∀ b < 256, (v.record r).getLsbD b = (decide (b ≠ 78) && ((t0.plot.bins.getD n {}).record r).getLsbD b))
              -- the support sizes of four rows a lane, and the end of the wait for them
              ∧ (dst = .none → o.listed = [] → t.allFurs = t0.allFurs)
              ∧ ∀ st w g m, dst = .slice st w → (o.listed.map (·.1)).Nodup → (g.id, m) ∈ o.listed → g ∈ t0.allFurs → (t0.allFurs.map (·.id)).Nodup →
                  g.id ≠ 0 → g.lanes.length = 32 → codeBits w = 64 → st.toNat + 16 ≤ 1024 → ∃ h ∈ t.allFurs, h.id = g.id
                    ∧ h.status = (if g.status = .counts then .ready else g.status) ∧ h.xregs = g.xregs ∧ h.masks = g.masks ∧ h.splits = g.splits
                    ∧ ∀ i < 32, m.getLsbD i = true → ∀ q < 4, (h.lanes.getD i {}).read (st.toNat + 4 * q) 16 =
                        (recUnpack (((t.bin (o.bins.headD 0)).getD {}).record (4 * i + q))).count % 2 ^ 16)
          ∧ (∀ len p1 rnd, o.kind = .prjadj len p1 rnd →
            let nt := max 1 (tileCols u)
            let res := fun (r : Nat) =>
              let h := chainRec bins r
              if h.valid = false ∨ (num32 h.tau).isNaN = true then (List.replicate len canonNaN, flNV)
              else
                let x := adjRow h (chainRow bins r h.len)
                  ((List.range h.len).map fun c => ((t0.tile (o.tiles2.getD (c / nt) 0)).getD {}).num r (c % nt)) (num32 p1.toNat)
                (x.1 ++ List.replicate (len - h.len) (Machine.Num.zero false false), x.2)
            Completes .sequencerStepDone s fun t => ends t ∧ t.allFurs = t0.allFurs ∧ t.plot.bins = t0.plot.bins
              ∧ Narrowed t0 rnd o.off ((List.range rows).map fun r => (res r).1) o.tiles
                  (fun b => t0.plot.flags.getLsbD b || (List.range rows).any fun r => (res r).2.getLsbD b) t)
          ∧ (∀ mode len p1, o.kind = .prjsum mode len p1 → Completes .sequencerStepDone s fun t =>
              ends t ∧ t.allFurs = t0.allFurs ∧ t.plot.tiles = t0.plot.tiles ∧ t.plot.flags = t0.plot.flags ∧ (∀ n, n ∉ o.bins → t.bin n = t0.bin n)
              ∧ ∀ n ∈ o.bins, ∃ v, t.bin n = some v ∧ v = { t0.plot.bins.getD n {} with recs := v.recs }
                ∧ ∀ r < 128,
                    let x := chainRow bins r len
                    let h := sumRow mode x (num32 p1.toNat) (chainRec bins r)
                    let mine := recUnpack ((t0.plot.bins.getD n {}).record r)
                    v.record r = ({ mine with
                      valid := false
                      tau := if badRow x = true ∨ mode = 0 ∨ mode = 2 then h.tau else mine.tau
                      aux := if badRow x = true ∨ mode ≠ 2 then h.aux else mine.aux
                      count := if badRow x = true ∨ mode < 2 then h.count else mine.count } : HRec).pack 0)
          ∧ ∀ d k z y, o.kind = .ttrans d k → d < t0.plot.tiles.length → t0.tile d = some z → t0.tile k = some y → tileFmt z = tileFmt y →
              [8, 16, 32].contains (fmtBits (tileFmt y)) = true → tileScaled z = tileScaled y → tileRows z = tileCols y → tileCols z = tileRows y →
              Completes .sequencerStepDone s fun t =>
                ends t ∧ t.allFurs = t0.allFurs ∧ t.plot.bins = t0.plot.bins ∧ t.plot.flags = t0.plot.flags ∧ (∀ n, n ≠ d → t.tile n = t0.tile n)
                ∧ ∃ v, t.tile d = some v ∧ v = { z with bytes := v.bytes, scales := v.scales }
                  ∧ ∀ r < tileRows z, ∀ c < tileCols z, elemBits (tileFmt y) (v.row r) c = elemBits (tileFmt y) (y.row c) r
                    ∧ (tileScaled y = true → v.scale (r / 32) (c / 32) = y.scale (c / 32) (r / 32))))

/-! ### Decoding, steps, and what holds of every state -/

/-- R114: how a fetched word is decoded, by its frame bits, and the words of a few instructions (R116 to R121). A continuation as a
first word, and a W word without its continuation, are ILLEGAL at the first word's address. -/
def Obligations.DecodeWords : Prop :=
  (∀ (half1 : Bool) (w0 w1 : Word),
    (w0.extractLsb' 62 2 = 0 →
      decodeFrame half1 w0 w1 = .ofExcept 4 (decodeHalf half1 (if half1 then w0.extractLsb' 32 32 else w0.extractLsb' 0 32)))
    ∧ (w0.extractLsb' 62 2 = 1 → decodeFrame half1 w0 w1 = .ofExcept 8 (decodeS w0))
    ∧ (w0.extractLsb' 62 2 = 2 → w1.extractLsb' 62 2 = 3 → decodeFrame half1 w0 w1 = .ofExcept 16 (decodeW w0 w1))
    ∧ (w0.extractLsb' 62 2 = 2 → w1.extractLsb' 62 2 ≠ 3 → decodeFrame half1 w0 w1 = .bad .noContinuation)
    ∧ (w0.extractLsb' 62 2 = 3 → decodeFrame half1 w0 w1 = .bad .continuation))
  ∧ (∀ (s u : State) (w0 w1 : Word), s.Issues u → u.fur.overdue = false → u.wordAt (u.split.pc &&& ~~~7#64) w0 →
      (w0.extractLsb' 62 2 = 3 ∨ (w0.extractLsb' 62 2 = 2 ∧ u.wordAt ((u.split.pc &&& ~~~7#64) + 8) w1 ∧ w1.extractLsb' 62 2 ≠ 3)) →
      ∃ r, step s = onNext State.tick (onNext (s.counted ·) (({ u with input := .reservedOpcode r } : State).takeFault { cause := .illegal })))
  -- add.i32 s16:32, s0:32, l2 under m3
  ∧ decodeS (0b01#2 ++ 0x080#10 ++ 3#4 ++ 26#5 ++ 0#1 ++ (0#1 ++ 16#10 ++ 5#3) ++ (0#1 ++ 0#10 ++ 5#3) ++ (0b100#3 ++ 0#8 ++ 1#3) : BitVec 64) =
      .ok (.addInt { guard := 3, fmt := 26, a := .slice 16 5, b := .slice 0 5, c := .latch 1 })
  -- brdec by -2 words, x7
  ∧ decodeS (0b01#2 ++ 0x005#10 ++ 0#4 ++ 0#5 ++ 0#1 ++ 0x3FFE#14 ++ (0b101#3 ++ 7#6 ++ 0#2 ++ 0#3) ++ 0#14 : BitVec 64) =
      .ok (.brdec { a := .raw 0x3FFE, b := .xreg 7 0 0 })
  -- ld.n64 s0:64, [x4 + 8]
  ∧ decodeS (0b01#2 ++ 0x280#10 ++ 0#4 ++ 29#5 ++ 0#1 ++ (0#1 ++ 0#10 ++ 7#3) ++ (0b101#3 ++ 4#6 ++ 0#2 ++ 0#3) ++ (0b110#3 ++ 8#11) : BitVec 64) =
      .ok (.ld { fmt := 29, a := .slice 0 7, b := .xreg 4 0 0, c := .imm 8 })
  -- trap 512, the kernel call that maps a page
  ∧ decodeS (0b01#2 ++ 0x381#10 ++ 0#4 ++ 0#5 ++ 0#1 ++ 0#14 ++ 0#14 ++ (0b110#3 ++ 512#11) : BitVec 64) = .ok .kmap
  -- mad.n32 s8:32, s0:32, s16:32, lane under m1, in two words
  ∧ decodeW (0b10#2 ++ 0x480#12 ++ (0#1 ++ 8#10 ++ 5#3) ++ 1#4 ++ 0#4 ++ 27#5 ++ 0#5 ++ 0#4 ++ 0#3 ++ 0#3 ++ 0#3 ++ 0#3 ++ 0#2 : BitVec 64)
      (0b11#2 ++ 0#1 ++ 0#1 ++ 0#1 ++ 0#3 ++ (0#1 ++ 0#10 ++ 5#3) ++ (0#1 ++ 16#10 ++ 5#3) ++ (0b111#3 ++ 1#3 ++ 0#8) ++ 0#14 : BitVec 64) =
      .ok (.mad { wide := true, guard := 1, fmt := 27, a := .slice 8 5, b := .slice 0 5, c := .slice 16 5, d := .lane })
  -- half 1: add.i32 of slices 256 + 4 and 8, 32 bits each
  ∧ decodeHalf true (0x04#7 ++ 2#3 ++ (1#1 ++ 4#8 ++ 2#2) ++ (0#1 ++ 8#8 ++ 2#2) : BitVec 32) =
      .ok (.pAddI32 { half := true, guard := 2, dst := ⟨true, 4, 2⟩, src := ⟨false, 8, 2⟩ })

/-- R112, R116 to R122, R125: the code of every well-formed instruction decodes to that instruction, with every operand at every
value that its encoding admits. -/
def Obligations.DecodeEncode : Prop :=
  ∀ (i : Instr) (c : Code), i.wellFormed = true → encode i = some c → decodeCode c = .ok i

/-- R21, R26, R27, R32, R112: when the bytes at the program counter of the split that issues are the code of an instruction, the step is
that instruction's meaning, with the address of the next frame or half known to it (`npc`); after it come pass counts and merges
(`boundaryOf`) and the wait counts of the quadrant (`counted`), and time passes (`tick`, log entry 2). Only the deadline comes
first. An event's step is its meaning.
THE MODEL'S CHOICE: which furrow or event moves (log entry 1), how much time passes (log entry 2), and a hint at the deadline (log entry
80) are the model's own. -/
def Obligations.StepRunsDecoded : Prop :=
  (∀ (s u : State) (c : Code) (i : Instr), s.Issues u → u.holdsCode c → decodeCode c = .ok i →
    (u.fur.overdue = false ∨ deadlineExempt i = true) →
    step s = onNext State.tick (onNext (s.counted ·) (onNext (·.boundaryOf u.fur)
      (exec i { u with fur := { u.fur with npc := u.split.pc + BitVec.ofNat 64 c.len } }))))
  ∧ (∀ (s : State) (i : Instr) (x : Input) (rest : List Turn), s.agenda = .event i x :: rest →
    step s = onNext State.tick (exec i { s with agenda := rest, input := x }))
  ∧ (∀ t : State, t.tick = { t.mapCores fun c => { c with idle := c.idle + Config.elapsedClocks t.steps * t.stalledQuads c.id } with
      timeNs := t.timeNs + Config.elapsedNs t.steps, cycles := t.cycles + Config.elapsedClocks t.steps, turn := t.turn + 1, steps := t.steps + 1 })
  -- a boundary at which no two splits meet changes pass counts only
  ∧ ∀ (t : State) (f : Furrow), t.fur.splits.length = 4 →
      (∀ j < 4, ∀ k < j, ¬((t.fur.splits.getD k {}).valid = true ∧ (t.fur.splits.getD j {}).valid = true ∧
        (t.fur.splits.getD k {}).pc = (t.fur.splits.getD j {}).pc)) →
      t.boundaryOf f = { t with fur := { t.fur with splits := (t.boundaryOf f).fur.splits } }
      ∧ ∀ k, { (t.boundaryOf f).fur.splits.getD k {} with pass := 0 } = { t.fur.splits.getD k {} with pass := 0 }

/-- Physical memory (R320) keeps its canonical form in every step, whatever runs: the form is the model's own.
THE MODEL'S CHOICE: the list form of memory and what an unlisted byte reads as are the model's own (log entry 3). -/
def Obligations.StepKeepsMemory : Prop :=
  ∀ s t : State, s.memWf → step s = .next t → t.memWf

/-- R222 to R226: no word of a program changes the queues' addresses, the fleet's counts, the clock, the tenants' slots, the
configuration store or a zone's entry in a furrow without privilege, and none makes a furrow privileged.
THE MODEL'S CHOICE: that a kernel call is one step is the model's choice (log entry 10). -/
def Obligations.PrivilegeGuards : Prop :=
  ∀ (i : Instr) (s t : State), (encode i).isSome = true → s.fur.priv = false → exec i s = .next t →
    t.trapq = s.trapq ∧ t.faultq = s.faultq ∧ t.cruise = s.cruise ∧ t.barto = s.barto ∧ t.clock = s.clock
    ∧ t.fleet.slots = s.fleet.slots ∧ t.fleet.store = s.fleet.store ∧ (∀ z, (t.zone z).entry = (s.zone z).entry)
    ∧ ∀ f ∈ t.allFurs, f.priv = true → ∃ g ∈ s.allFurs, g.id = f.id ∧ g.priv = true

/-- R4, R315, R334, R340, R348, R350: what reset leaves (the values that the spec gives). -/
def Obligations.ResetState : Prop :=
  State.reset.memWf ∧ State.reset.timeNs = 0 ∧ State.reset.clock.state = .free ∧ State.reset.cruise = 10 ∧ State.reset.barto = 1048576
  ∧ State.reset.fleet.slots = [] ∧ State.reset.jobs = [] ∧ State.reset.job.live = false ∧ State.reset.launches = [] ∧ State.reset.plots = [] ∧ State.reset.furs = []
  ∧ State.reset.zones.length = 96 ∧ (∀ z < 96, (State.reset.zone z).entry = 0x3014195F3C00002A ∧ (State.reset.zone z).step = 10)
  ∧ State.reset.fleet.windows = [⟨.coreFault, 3, 86400000000000⟩, ⟨.coreCorrected, 64, 3600000000000⟩,
    ⟨.sliceUncorrectable, 2, 86400000000000⟩, ⟨.channelUncorrectable, 4, 86400000000000⟩, ⟨.channelCorrected, 1024, 3600000000000⟩,
    ⟨.bridgeRetry, 10000, 1000000000⟩, ⟨.portFcs, 1000, 1000000000⟩, ⟨.sensorImplausible, 3, 3600000000000⟩]
end

