-- ==== Sys2Proof/Laws/Mem.lean ====
section
/-! SUPPORT. Laws of the canonical sparse lists and of physical memory: reading after writing, and every operation keeps
the canonical form. -/

namespace Sys2Proof.Machine

/-- A list whose keys all lie above `a` has nothing at `a`. -/
theorem sget_of_lt {α : Type} {d : α} {a : Nat} {l : List (Nat × α)} (h : ∀ p ∈ l, a < p.1) : sget d l a = d := by
  cases l with
  | nil => rfl
  | cons q rest =>
    have hq := h q (by simp)
    simp only [sget]
    rw [if_neg (by omega), if_pos hq]

section sparse
variable {α : Type} [DecidableEq α] {d : α}

theorem swf_cons {k : Nat} {v : α} {rest : List (Nat × α)} :
    swf d ((k, v) :: rest) = true ↔ v ≠ d ∧ (∀ p ∈ rest, k < p.1) ∧ swf d rest = true := by
  simp [swf, and_assoc]

/-- What a set leaves below a bound that was there. -/
theorem lt_of_mem_sset {k a : Nat} {v : α} {l : List (Nat × α)} (hl : ∀ p ∈ l, k < p.1) (ha : k < a) :
    ∀ p ∈ sset d l a v, k < p.1 := by
  induction l with
  | nil => intro p hp; by_cases hv : v = d <;> simp_all [sset]
  | cons q rest ih =>
    obtain ⟨j, w⟩ := q
    have hq : k < j := hl (j, w) (by simp)
    have ih := ih (fun p hp => hl p (by simp [hp]))
    intro p hp
    simp only [sset] at hp
    split at hp
    · split at hp
      · exact hl p hp
      · rcases List.mem_cons.1 hp with rfl | h
        · exact ha
        · exact hl p h
    · split at hp
      · split at hp
        · exact hl p (by simp [hp])
        · rcases List.mem_cons.1 hp with rfl | h
          · exact ha
          · exact hl p (by simp [h])
      · rcases List.mem_cons.1 hp with rfl | h
        · exact hq
        · exact ih p h

/-- A set keeps the canonical form. -/
theorem swf_sset {a : Nat} {v : α} {l : List (Nat × α)} (h : swf d l = true) : swf d (sset d l a v) = true := by
  induction l with
  | nil => by_cases hv : v = d <;> simp [sset, hv, swf]
  | cons q rest ih =>
    obtain ⟨k, w⟩ := q
    obtain ⟨hw, hk, hr⟩ := swf_cons.1 h
    simp only [sset]
    split
    · split
      · exact h
      · next hlt hv =>
        refine swf_cons.2 ⟨hv, ?_, h⟩
        intro p hp
        rcases List.mem_cons.1 hp with rfl | hp
        · exact hlt
        · exact lt_trans hlt (hk p hp)
    · split
      · next hlt he =>
        subst he
        split
        · exact hr
        · next hv => exact swf_cons.2 ⟨hv, hk, hr⟩
      · next hlt he =>
        exact swf_cons.2 ⟨hw, lt_of_mem_sset hk (by omega), ih hr⟩

/-- A set gives its key the new value and leaves every other key alone. -/
theorem sget_sset {a b : Nat} {v : α} {l : List (Nat × α)} (h : swf d l = true) :
    sget d (sset d l a v) b = if b = a then v else sget d l b := by
  induction l with
  | nil => by_cases hv : v = d <;> by_cases hb : b = a <;> simp [sset, sget, hv, hb]
  | cons q rest ih =>
    obtain ⟨k, w⟩ := q
    obtain ⟨hw, hk, hr⟩ := swf_cons.1 h
    have ih := ih hr
    by_cases hak : a < k
    · by_cases hv : v = d
      · simp only [sset, if_pos hak, if_pos hv]
        by_cases hb : b = a
        · subst hb hv; simp [sget, hak, Nat.ne_of_lt hak]
        · simp [hb]
      · simp only [sset, if_pos hak, if_neg hv]
        by_cases hb : b = a
        · simp [sget, hb]
        · by_cases hba : b < a
          · simp [sget, hb, hba, show b ≠ k by omega, show b < k by omega]
          · simp [sget, hb, hba]
    · by_cases he : a = k
      · subst he
        by_cases hv : v = d
        · simp only [sset, lt_irrefl, if_false, if_true, if_pos hv]
          by_cases hb : b = a
          · subst hb; simp [hv, sget_of_lt hk]
          · by_cases hba : b < a
            · simp [hb, sget, hba, sget_of_lt fun p hp => lt_trans hba (hk p hp)]
            · simp [hb, sget, hba]
        · simp only [sset, lt_irrefl, if_false, if_true, if_neg hv]
          by_cases hb : b = a <;> simp [sget, hb]
      · simp only [sset, if_neg hak, if_neg he, sget, ih]
        by_cases hb : b = a
        · simp [hb, he, show ¬ a < k by omega]
        · simp [hb]

theorem swf_filter {l : List (Nat × α)} (p : Nat × α → Bool) (h : swf d l = true) : swf d (l.filter p) = true := by
  induction l with
  | nil => rfl
  | cons q rest ih =>
    obtain ⟨k, w⟩ := q
    obtain ⟨hw, hk, hr⟩ := swf_cons.1 h
    by_cases hp : p (k, w) = true
    · rw [List.filter_cons_of_pos hp]
      exact swf_cons.2 ⟨hw, fun x hx => hk x (List.mem_filter.1 hx).1, ih hr⟩
    · rw [List.filter_cons_of_neg hp]; exact ih hr

theorem swf_append {l m : List (Nat × α)} (hl : swf d l = true) (hm : swf d m = true)
    (h : ∀ p ∈ l, ∀ q ∈ m, p.1 < q.1) : swf d (l ++ m) = true := by
  induction l with
  | nil => exact hm
  | cons q rest ih =>
    obtain ⟨k, w⟩ := q
    obtain ⟨hw, hk, hr⟩ := swf_cons.1 hl
    refine swf_cons.2 ⟨hw, ?_, ih hr fun p hp => h p (by simp [hp])⟩
    intro p hp
    rcases List.mem_append.1 hp with hp | hp
    · exact hk p hp
    · exact h (k, w) (by simp) p hp

end sparse

/-! ### Physical memory -/

@[simp] theorem Memory.wf_setByte {m : Memory} {a : Nat} {v : Byte} (h : Memory.wf m = true) :
    Memory.wf (Memory.setByte m a v) = true := swf_sset h

theorem Memory.byte_setByte {m : Memory} (h : Memory.wf m = true) (a b : Nat) (v : Byte) :
    Memory.byte (Memory.setByte m a v) b = if b = a then v else Memory.byte m b := sget_sset h

@[simp] theorem Memory.wf_writeN {m : Memory} {a n v : Nat} (h : Memory.wf m = true) :
    Memory.wf (Memory.writeN m a n v) = true := by
  induction n generalizing m a v with
  | zero => exact h
  | succ n ih => exact ih (Memory.wf_setByte h)

@[simp] theorem Memory.wf_writeMasked {m : Memory} {a k v n : Nat} (h : Memory.wf m = true) :
    Memory.wf (Memory.writeMasked m a k v n) = true := by
  induction n generalizing m a k v with
  | zero => exact h
  | succ n ih => simp only [Memory.writeMasked]; split <;> exact ih (by simp [h])

/-- A little-endian write, byte by byte; every other byte is as before. -/
theorem Memory.byte_writeN {m : Memory} (h : Memory.wf m = true) (a n v b : Nat) :
    Memory.byte (Memory.writeN m a n v) b =
      if a ≤ b ∧ b < a + n then BitVec.ofNat 8 (v / 256 ^ (b - a)) else Memory.byte m b := by
  induction n generalizing m a v with
  | zero => rw [if_neg (by omega)]; rfl
  | succ n ih =>
    rw [Memory.writeN, ih (Memory.wf_setByte h), Memory.byte_setByte h]
    by_cases hb : b = a
    · subst hb; simp
    · by_cases hr : a + 1 ≤ b ∧ b < a + 1 + n
      · rw [if_pos hr, if_pos (by omega), show b - a = (b - (a + 1)) + 1 by omega, pow_succ', Nat.div_div_eq_div_mul]
      · rw [if_neg hr, if_neg hb, if_neg (by omega)]

/-- A masked write, byte by byte. -/
theorem Memory.byte_writeMasked {m : Memory} (h : Memory.wf m = true) (a k v n b : Nat) :
    Memory.byte (Memory.writeMasked m a k v n) b =
      if a ≤ b ∧ b < a + n ∧ k.testBit (b - a) then BitVec.ofNat 8 (v / 256 ^ (b - a)) else Memory.byte m b := by
  induction n generalizing m a k v with
  | zero => rw [if_neg (by omega)]; rfl
  | succ n ih =>
    have hw : Memory.wf (if k % 2 = 1 then Memory.setByte m a (BitVec.ofNat 8 v) else m) = true := by
      split <;> simp [h]
    rw [Memory.writeMasked, ih hw]
    by_cases hb : b = a
    · subst hb
      by_cases hk : k % 2 = 1 <;> simp [hk, Memory.byte_setByte h, Nat.testBit_zero, show ¬ b + 1 ≤ b by omega]
    · have hbyte : Memory.byte (if k % 2 = 1 then Memory.setByte m a (BitVec.ofNat 8 v) else m) b = Memory.byte m b := by
        split <;> simp [Memory.byte_setByte h, hb]
      rw [hbyte]
      by_cases hr : a + 1 ≤ b ∧ b < a + 1 + n
      · have e : b - a = (b - (a + 1)) + 1 := by omega
        have ht : k.testBit (b - a) = (k / 2).testBit (b - (a + 1)) := by rw [e, Nat.testBit_succ]
        have hv : v / 256 ^ (b - a) = v / 256 / 256 ^ (b - (a + 1)) := by
          rw [e, pow_succ', Nat.div_div_eq_div_mul]
        rw [ht, hv]
        simp only [show a + 1 ≤ b from hr.1, show b < a + 1 + n from hr.2, show a ≤ b by omega, show b < a + (n + 1) by omega, true_and]
      · rw [if_neg (fun hx => hr ⟨hx.1, hx.2.1⟩), if_neg (fun hx => hr (by omega))]

theorem Memory.readN_lt (m : Memory) (a n : Nat) : Memory.readN m a n < 256 ^ n := by
  induction n generalizing a with
  | zero => simp [Memory.readN]
  | succ n ih =>
    have h1 := ih (a + 1)
    have h2 := (Memory.byte m a).isLt
    rw [Memory.readN, pow_succ']
    omega

/-- Equal bytes give equal numbers. -/
theorem Memory.readN_congr {m m' : Memory} {a n : Nat} (h : ∀ i < n, Memory.byte m (a + i) = Memory.byte m' (a + i)) :
    Memory.readN m a n = Memory.readN m' a n := by
  induction n generalizing a with
  | zero => rfl
  | succ n ih =>
    have h0 := h 0 (by omega)
    rw [Memory.readN, Memory.readN, ih fun i hi => by simpa [add_assoc, add_comm 1] using h (i + 1) (by omega)]
    simpa using congrArg _ h0

/-- Reading back a little-endian write. -/
theorem Memory.readN_writeN {m : Memory} (h : Memory.wf m = true) (a n v : Nat) :
    Memory.readN (Memory.writeN m a n v) a n = v % 256 ^ n := by
  induction n generalizing m a v with
  | zero => simp [Memory.readN, Nat.mod_one]
  | succ n ih =>
    rw [Memory.readN, Memory.byte_writeN h]
    have hx : Memory.readN (Memory.writeN m a (n + 1) v) (a + 1) n = v / 256 % 256 ^ n := by
      rw [Memory.writeN]; exact ih (Memory.wf_setByte h) (a + 1) (v / 256)
    rw [hx]
    simp only [le_refl, Nat.lt_add_right_iff_pos, Nat.succ_pos, and_self, if_true, Nat.sub_self, pow_zero, Nat.div_one,
      BitVec.toNat_ofNat, pow_succ' 256 n]
    rw [Nat.mod_mul]

/-- Reading where a write does not reach. -/
theorem Memory.readN_writeN_of_disjoint {m : Memory} (h : Memory.wf m = true) {a n v b k : Nat}
    (hd : b + k ≤ a ∨ a + n ≤ b) : Memory.readN (Memory.writeN m a n v) b k = Memory.readN m b k :=
  Memory.readN_congr fun i hi => by rw [Memory.byte_writeN h, if_neg (by omega)]

/-- Whatever cells are listed, what `risingCells` keeps is in canonical form and in its range. -/
theorem risingCells_spec {hi lo : Nat} {l : List Host.Cell} :
    swf memFill (risingCells hi lo l) = true ∧ ∀ c ∈ risingCells hi lo l, lo ≤ c.1 ∧ c.1 < hi := by
  induction l generalizing lo with
  | nil => simp [risingCells, swf]
  | cons c rest ih =>
    simp only [risingCells]
    split
    · next h =>
      obtain ⟨hw, hr⟩ := ih (lo := c.1 + 1)
      refine ⟨swf_cons.2 ⟨h.2.2, fun p hp => by have := (hr p hp).1; omega, hw⟩, ?_⟩
      intro x hx
      rcases List.mem_cons.1 hx with rfl | hx
      · exact ⟨h.1, h.2.1⟩
      · have := hr x hx; exact ⟨by omega, this.2⟩
    · exact ih

@[simp] theorem Memory.wf_splice {m : Memory} {lo n : Nat} {cells : List Host.Cell} (h : Memory.wf m = true) :
    Memory.wf (Memory.splice m lo n cells) = true := by
  obtain ⟨hw, hr⟩ := risingCells_spec (hi := lo + n) (lo := lo) (l := cells)
  refine swf_append (swf_append (swf_filter _ h) hw ?_) (swf_filter _ h) ?_
  · intro p hp q hq
    have h1 : p.1 < lo := by simpa using (List.mem_filter.1 hp).2
    exact lt_of_lt_of_le h1 (hr q hq).1
  · intro p hp q hq
    have h2 : lo + n ≤ q.1 := by simpa using (List.mem_filter.1 hq).2
    rcases List.mem_append.1 hp with hp | hp
    · have h1 : p.1 < lo := by simpa using (List.mem_filter.1 hp).2
      omega
    · have := (hr p hp).2; omega

@[simp] theorem Memory.wf_writeBytes {m : Memory} {a : Nat} {bs : List Byte} (h : Memory.wf m = true) :
    Memory.wf (Memory.writeBytes m a bs) = true := Memory.wf_splice h

end Sys2Proof.Machine
end

