-- ==== Sys2Proof/Laws/State.lean ====
section
/-! SUPPORT. One lemma per field of the state and per update of one of its parts. -/

namespace Sys2Proof.Machine

/-! ### `setFur` -/

@[simp] theorem State.setFur_fur (s : State) (f : Furrow) : (s.setFur f).fur = f := rfl
@[simp] theorem State.setFur_plot (s : State) (f : Furrow) : (s.setFur f).plot = s.plot := rfl
@[simp] theorem State.setFur_launch (s : State) (f : Furrow) : (s.setFur f).launch = s.launch := rfl
@[simp] theorem State.setFur_job (s : State) (f : Furrow) : (s.setFur f).job = s.job := rfl
@[simp] theorem State.setFur_core (s : State) (f : Furrow) : (s.setFur f).core = s.core := rfl
@[simp] theorem State.setFur_furs (s : State) (f : Furrow) : (s.setFur f).furs = s.furs := rfl
@[simp] theorem State.setFur_plots (s : State) (f : Furrow) : (s.setFur f).plots = s.plots := rfl
@[simp] theorem State.setFur_launches (s : State) (f : Furrow) : (s.setFur f).launches = s.launches := rfl
@[simp] theorem State.setFur_jobs (s : State) (f : Furrow) : (s.setFur f).jobs = s.jobs := rfl
@[simp] theorem State.setFur_cores (s : State) (f : Furrow) : (s.setFur f).cores = s.cores := rfl
@[simp] theorem State.setFur_graphs (s : State) (f : Furrow) : (s.setFur f).graphs = s.graphs := rfl
@[simp] theorem State.setFur_seasons (s : State) (f : Furrow) : (s.setFur f).seasons = s.seasons := rfl
@[simp] theorem State.setFur_mem (s : State) (f : Furrow) : (s.setFur f).mem = s.mem := rfl
@[simp] theorem State.setFur_poisoned (s : State) (f : Furrow) : (s.setFur f).poisoned = s.poisoned := rfl
@[simp] theorem State.setFur_l2 (s : State) (f : Furrow) : (s.setFur f).l2 = s.l2 := rfl
@[simp] theorem State.setFur_checker (s : State) (f : Furrow) : (s.setFur f).checker = s.checker := rfl
@[simp] theorem State.setFur_rdc (s : State) (f : Furrow) : (s.setFur f).rdc = s.rdc := rfl
@[simp] theorem State.setFur_tcache (s : State) (f : Furrow) : (s.setFur f).tcache = s.tcache := rfl
@[simp] theorem State.setFur_rets (s : State) (f : Furrow) : (s.setFur f).rets = s.rets := rfl
@[simp] theorem State.setFur_ejobs (s : State) (f : Furrow) : (s.setFur f).ejobs = s.ejobs := rfl
@[simp] theorem State.setFur_pend (s : State) (f : Furrow) : (s.setFur f).pend = s.pend := rfl
@[simp] theorem State.setFur_rebalanced (s : State) (f : Furrow) : (s.setFur f).rebalanced = s.rebalanced := rfl
@[simp] theorem State.setFur_trapq (s : State) (f : Furrow) : (s.setFur f).trapq = s.trapq := rfl
@[simp] theorem State.setFur_faultq (s : State) (f : Furrow) : (s.setFur f).faultq = s.faultq := rfl
@[simp] theorem State.setFur_trapSeq (s : State) (f : Furrow) : (s.setFur f).trapSeq = s.trapSeq := rfl
@[simp] theorem State.setFur_faultSeq (s : State) (f : Furrow) : (s.setFur f).faultSeq = s.faultSeq := rfl
@[simp] theorem State.setFur_barto (s : State) (f : Furrow) : (s.setFur f).barto = s.barto := rfl
@[simp] theorem State.setFur_cruise (s : State) (f : Furrow) : (s.setFur f).cruise = s.cruise := rfl
@[simp] theorem State.setFur_timeNs (s : State) (f : Furrow) : (s.setFur f).timeNs = s.timeNs := rfl
@[simp] theorem State.setFur_cycles (s : State) (f : Furrow) : (s.setFur f).cycles = s.cycles := rfl
@[simp] theorem State.setFur_zones (s : State) (f : Furrow) : (s.setFur f).zones = s.zones := rfl
@[simp] theorem State.setFur_clock (s : State) (f : Furrow) : (s.setFur f).clock = s.clock := rfl
@[simp] theorem State.setFur_fleet (s : State) (f : Furrow) : (s.setFur f).fleet = s.fleet := rfl
@[simp] theorem State.setFur_nextFrame (s : State) (f : Furrow) : (s.setFur f).nextFrame = s.nextFrame := rfl
@[simp] theorem State.setFur_freed (s : State) (f : Furrow) : (s.setFur f).freed = s.freed := rfl
@[simp] theorem State.setFur_ptags (s : State) (f : Furrow) : (s.setFur f).ptags = s.ptags := rfl
@[simp] theorem State.setFur_nextId (s : State) (f : Furrow) : (s.setFur f).nextId = s.nextId := rfl
@[simp] theorem State.setFur_input (s : State) (f : Furrow) : (s.setFur f).input = s.input := rfl
@[simp] theorem State.setFur_agenda (s : State) (f : Furrow) : (s.setFur f).agenda = s.agenda := rfl
@[simp] theorem State.setFur_turn (s : State) (f : Furrow) : (s.setFur f).turn = s.turn := rfl
@[simp] theorem State.setFur_steps (s : State) (f : Furrow) : (s.setFur f).steps = s.steps := rfl
@[simp] theorem State.setFur_setFur (s : State) (f f' : Furrow) : (s.setFur f).setFur f' = s.setFur f' := rfl

/-! ### `setPlot` -/

@[simp] theorem State.setPlot_fur (s : State) (p : Plot) : (s.setPlot p).fur = s.fur := rfl
@[simp] theorem State.setPlot_plot (s : State) (p : Plot) : (s.setPlot p).plot = p := rfl
@[simp] theorem State.setPlot_launch (s : State) (p : Plot) : (s.setPlot p).launch = s.launch := rfl
@[simp] theorem State.setPlot_job (s : State) (p : Plot) : (s.setPlot p).job = s.job := rfl
@[simp] theorem State.setPlot_core (s : State) (p : Plot) : (s.setPlot p).core = s.core := rfl
@[simp] theorem State.setPlot_furs (s : State) (p : Plot) : (s.setPlot p).furs = s.furs := rfl
@[simp] theorem State.setPlot_plots (s : State) (p : Plot) : (s.setPlot p).plots = s.plots := rfl
@[simp] theorem State.setPlot_launches (s : State) (p : Plot) : (s.setPlot p).launches = s.launches := rfl
@[simp] theorem State.setPlot_jobs (s : State) (p : Plot) : (s.setPlot p).jobs = s.jobs := rfl
@[simp] theorem State.setPlot_cores (s : State) (p : Plot) : (s.setPlot p).cores = s.cores := rfl
@[simp] theorem State.setPlot_graphs (s : State) (p : Plot) : (s.setPlot p).graphs = s.graphs := rfl
@[simp] theorem State.setPlot_seasons (s : State) (p : Plot) : (s.setPlot p).seasons = s.seasons := rfl
@[simp] theorem State.setPlot_mem (s : State) (p : Plot) : (s.setPlot p).mem = s.mem := rfl
@[simp] theorem State.setPlot_poisoned (s : State) (p : Plot) : (s.setPlot p).poisoned = s.poisoned := rfl
@[simp] theorem State.setPlot_l2 (s : State) (p : Plot) : (s.setPlot p).l2 = s.l2 := rfl
@[simp] theorem State.setPlot_checker (s : State) (p : Plot) : (s.setPlot p).checker = s.checker := rfl
@[simp] theorem State.setPlot_rdc (s : State) (p : Plot) : (s.setPlot p).rdc = s.rdc := rfl
@[simp] theorem State.setPlot_tcache (s : State) (p : Plot) : (s.setPlot p).tcache = s.tcache := rfl
@[simp] theorem State.setPlot_rets (s : State) (p : Plot) : (s.setPlot p).rets = s.rets := rfl
@[simp] theorem State.setPlot_ejobs (s : State) (p : Plot) : (s.setPlot p).ejobs = s.ejobs := rfl
@[simp] theorem State.setPlot_pend (s : State) (p : Plot) : (s.setPlot p).pend = s.pend := rfl
@[simp] theorem State.setPlot_rebalanced (s : State) (p : Plot) : (s.setPlot p).rebalanced = s.rebalanced := rfl
@[simp] theorem State.setPlot_trapq (s : State) (p : Plot) : (s.setPlot p).trapq = s.trapq := rfl
@[simp] theorem State.setPlot_faultq (s : State) (p : Plot) : (s.setPlot p).faultq = s.faultq := rfl
@[simp] theorem State.setPlot_trapSeq (s : State) (p : Plot) : (s.setPlot p).trapSeq = s.trapSeq := rfl
@[simp] theorem State.setPlot_faultSeq (s : State) (p : Plot) : (s.setPlot p).faultSeq = s.faultSeq := rfl
@[simp] theorem State.setPlot_barto (s : State) (p : Plot) : (s.setPlot p).barto = s.barto := rfl
@[simp] theorem State.setPlot_cruise (s : State) (p : Plot) : (s.setPlot p).cruise = s.cruise := rfl
@[simp] theorem State.setPlot_timeNs (s : State) (p : Plot) : (s.setPlot p).timeNs = s.timeNs := rfl
@[simp] theorem State.setPlot_cycles (s : State) (p : Plot) : (s.setPlot p).cycles = s.cycles := rfl
@[simp] theorem State.setPlot_zones (s : State) (p : Plot) : (s.setPlot p).zones = s.zones := rfl
@[simp] theorem State.setPlot_clock (s : State) (p : Plot) : (s.setPlot p).clock = s.clock := rfl
@[simp] theorem State.setPlot_fleet (s : State) (p : Plot) : (s.setPlot p).fleet = s.fleet := rfl
@[simp] theorem State.setPlot_nextFrame (s : State) (p : Plot) : (s.setPlot p).nextFrame = s.nextFrame := rfl
@[simp] theorem State.setPlot_freed (s : State) (p : Plot) : (s.setPlot p).freed = s.freed := rfl
@[simp] theorem State.setPlot_ptags (s : State) (p : Plot) : (s.setPlot p).ptags = s.ptags := rfl
@[simp] theorem State.setPlot_nextId (s : State) (p : Plot) : (s.setPlot p).nextId = s.nextId := rfl
@[simp] theorem State.setPlot_input (s : State) (p : Plot) : (s.setPlot p).input = s.input := rfl
@[simp] theorem State.setPlot_agenda (s : State) (p : Plot) : (s.setPlot p).agenda = s.agenda := rfl
@[simp] theorem State.setPlot_turn (s : State) (p : Plot) : (s.setPlot p).turn = s.turn := rfl
@[simp] theorem State.setPlot_steps (s : State) (p : Plot) : (s.setPlot p).steps = s.steps := rfl
@[simp] theorem State.setPlot_setPlot (s : State) (p p' : Plot) : (s.setPlot p).setPlot p' = s.setPlot p' := rfl

/-! ### `setCore` -/

@[simp] theorem State.setCore_fur (s : State) (c : Core) : (s.setCore c).fur = s.fur := rfl
@[simp] theorem State.setCore_plot (s : State) (c : Core) : (s.setCore c).plot = s.plot := rfl
@[simp] theorem State.setCore_launch (s : State) (c : Core) : (s.setCore c).launch = s.launch := rfl
@[simp] theorem State.setCore_job (s : State) (c : Core) : (s.setCore c).job = s.job := rfl
@[simp] theorem State.setCore_core (s : State) (c : Core) : (s.setCore c).core = c := rfl
@[simp] theorem State.setCore_furs (s : State) (c : Core) : (s.setCore c).furs = s.furs := rfl
@[simp] theorem State.setCore_plots (s : State) (c : Core) : (s.setCore c).plots = s.plots := rfl
@[simp] theorem State.setCore_launches (s : State) (c : Core) : (s.setCore c).launches = s.launches := rfl
@[simp] theorem State.setCore_jobs (s : State) (c : Core) : (s.setCore c).jobs = s.jobs := rfl
@[simp] theorem State.setCore_cores (s : State) (c : Core) : (s.setCore c).cores = s.cores := rfl
@[simp] theorem State.setCore_graphs (s : State) (c : Core) : (s.setCore c).graphs = s.graphs := rfl
@[simp] theorem State.setCore_seasons (s : State) (c : Core) : (s.setCore c).seasons = s.seasons := rfl
@[simp] theorem State.setCore_mem (s : State) (c : Core) : (s.setCore c).mem = s.mem := rfl
@[simp] theorem State.setCore_poisoned (s : State) (c : Core) : (s.setCore c).poisoned = s.poisoned := rfl
@[simp] theorem State.setCore_l2 (s : State) (c : Core) : (s.setCore c).l2 = s.l2 := rfl
@[simp] theorem State.setCore_checker (s : State) (c : Core) : (s.setCore c).checker = s.checker := rfl
@[simp] theorem State.setCore_rdc (s : State) (c : Core) : (s.setCore c).rdc = s.rdc := rfl
@[simp] theorem State.setCore_tcache (s : State) (c : Core) : (s.setCore c).tcache = s.tcache := rfl
@[simp] theorem State.setCore_rets (s : State) (c : Core) : (s.setCore c).rets = s.rets := rfl
@[simp] theorem State.setCore_ejobs (s : State) (c : Core) : (s.setCore c).ejobs = s.ejobs := rfl
@[simp] theorem State.setCore_pend (s : State) (c : Core) : (s.setCore c).pend = s.pend := rfl
@[simp] theorem State.setCore_rebalanced (s : State) (c : Core) : (s.setCore c).rebalanced = s.rebalanced := rfl
@[simp] theorem State.setCore_trapq (s : State) (c : Core) : (s.setCore c).trapq = s.trapq := rfl
@[simp] theorem State.setCore_faultq (s : State) (c : Core) : (s.setCore c).faultq = s.faultq := rfl
@[simp] theorem State.setCore_trapSeq (s : State) (c : Core) : (s.setCore c).trapSeq = s.trapSeq := rfl
@[simp] theorem State.setCore_faultSeq (s : State) (c : Core) : (s.setCore c).faultSeq = s.faultSeq := rfl
@[simp] theorem State.setCore_barto (s : State) (c : Core) : (s.setCore c).barto = s.barto := rfl
@[simp] theorem State.setCore_cruise (s : State) (c : Core) : (s.setCore c).cruise = s.cruise := rfl
@[simp] theorem State.setCore_timeNs (s : State) (c : Core) : (s.setCore c).timeNs = s.timeNs := rfl
@[simp] theorem State.setCore_cycles (s : State) (c : Core) : (s.setCore c).cycles = s.cycles := rfl
@[simp] theorem State.setCore_zones (s : State) (c : Core) : (s.setCore c).zones = s.zones := rfl
@[simp] theorem State.setCore_clock (s : State) (c : Core) : (s.setCore c).clock = s.clock := rfl
@[simp] theorem State.setCore_fleet (s : State) (c : Core) : (s.setCore c).fleet = s.fleet := rfl
@[simp] theorem State.setCore_nextFrame (s : State) (c : Core) : (s.setCore c).nextFrame = s.nextFrame := rfl
@[simp] theorem State.setCore_freed (s : State) (c : Core) : (s.setCore c).freed = s.freed := rfl
@[simp] theorem State.setCore_ptags (s : State) (c : Core) : (s.setCore c).ptags = s.ptags := rfl
@[simp] theorem State.setCore_nextId (s : State) (c : Core) : (s.setCore c).nextId = s.nextId := rfl
@[simp] theorem State.setCore_input (s : State) (c : Core) : (s.setCore c).input = s.input := rfl
@[simp] theorem State.setCore_agenda (s : State) (c : Core) : (s.setCore c).agenda = s.agenda := rfl
@[simp] theorem State.setCore_turn (s : State) (c : Core) : (s.setCore c).turn = s.turn := rfl
@[simp] theorem State.setCore_steps (s : State) (c : Core) : (s.setCore c).steps = s.steps := rfl
@[simp] theorem State.setCore_setCore (s : State) (c c' : Core) : (s.setCore c).setCore c' = s.setCore c' := rfl

/-! ### `setJob` -/

@[simp] theorem State.setJob_fur (s : State) (j : Job) : (s.setJob j).fur = s.fur := rfl
@[simp] theorem State.setJob_plot (s : State) (j : Job) : (s.setJob j).plot = s.plot := rfl
@[simp] theorem State.setJob_launch (s : State) (j : Job) : (s.setJob j).launch = s.launch := rfl
@[simp] theorem State.setJob_job (s : State) (j : Job) : (s.setJob j).job = j := rfl
@[simp] theorem State.setJob_core (s : State) (j : Job) : (s.setJob j).core = s.core := rfl
@[simp] theorem State.setJob_furs (s : State) (j : Job) : (s.setJob j).furs = s.furs := rfl
@[simp] theorem State.setJob_plots (s : State) (j : Job) : (s.setJob j).plots = s.plots := rfl
@[simp] theorem State.setJob_launches (s : State) (j : Job) : (s.setJob j).launches = s.launches := rfl
@[simp] theorem State.setJob_jobs (s : State) (j : Job) : (s.setJob j).jobs = s.jobs := rfl
@[simp] theorem State.setJob_cores (s : State) (j : Job) : (s.setJob j).cores = s.cores := rfl
@[simp] theorem State.setJob_graphs (s : State) (j : Job) : (s.setJob j).graphs = s.graphs := rfl
@[simp] theorem State.setJob_seasons (s : State) (j : Job) : (s.setJob j).seasons = s.seasons := rfl
@[simp] theorem State.setJob_mem (s : State) (j : Job) : (s.setJob j).mem = s.mem := rfl
@[simp] theorem State.setJob_poisoned (s : State) (j : Job) : (s.setJob j).poisoned = s.poisoned := rfl
@[simp] theorem State.setJob_l2 (s : State) (j : Job) : (s.setJob j).l2 = s.l2 := rfl
@[simp] theorem State.setJob_checker (s : State) (j : Job) : (s.setJob j).checker = s.checker := rfl
@[simp] theorem State.setJob_rdc (s : State) (j : Job) : (s.setJob j).rdc = s.rdc := rfl
@[simp] theorem State.setJob_tcache (s : State) (j : Job) : (s.setJob j).tcache = s.tcache := rfl
@[simp] theorem State.setJob_rets (s : State) (j : Job) : (s.setJob j).rets = s.rets := rfl
@[simp] theorem State.setJob_ejobs (s : State) (j : Job) : (s.setJob j).ejobs = s.ejobs := rfl
@[simp] theorem State.setJob_pend (s : State) (j : Job) : (s.setJob j).pend = s.pend := rfl
@[simp] theorem State.setJob_rebalanced (s : State) (j : Job) : (s.setJob j).rebalanced = s.rebalanced := rfl
@[simp] theorem State.setJob_trapq (s : State) (j : Job) : (s.setJob j).trapq = s.trapq := rfl
@[simp] theorem State.setJob_faultq (s : State) (j : Job) : (s.setJob j).faultq = s.faultq := rfl
@[simp] theorem State.setJob_trapSeq (s : State) (j : Job) : (s.setJob j).trapSeq = s.trapSeq := rfl
@[simp] theorem State.setJob_faultSeq (s : State) (j : Job) : (s.setJob j).faultSeq = s.faultSeq := rfl
@[simp] theorem State.setJob_barto (s : State) (j : Job) : (s.setJob j).barto = s.barto := rfl
@[simp] theorem State.setJob_cruise (s : State) (j : Job) : (s.setJob j).cruise = s.cruise := rfl
@[simp] theorem State.setJob_timeNs (s : State) (j : Job) : (s.setJob j).timeNs = s.timeNs := rfl
@[simp] theorem State.setJob_cycles (s : State) (j : Job) : (s.setJob j).cycles = s.cycles := rfl
@[simp] theorem State.setJob_zones (s : State) (j : Job) : (s.setJob j).zones = s.zones := rfl
@[simp] theorem State.setJob_clock (s : State) (j : Job) : (s.setJob j).clock = s.clock := rfl
@[simp] theorem State.setJob_fleet (s : State) (j : Job) : (s.setJob j).fleet = s.fleet := rfl
@[simp] theorem State.setJob_nextFrame (s : State) (j : Job) : (s.setJob j).nextFrame = s.nextFrame := rfl
@[simp] theorem State.setJob_freed (s : State) (j : Job) : (s.setJob j).freed = s.freed := rfl
@[simp] theorem State.setJob_ptags (s : State) (j : Job) : (s.setJob j).ptags = s.ptags := rfl
@[simp] theorem State.setJob_nextId (s : State) (j : Job) : (s.setJob j).nextId = s.nextId := rfl
@[simp] theorem State.setJob_input (s : State) (j : Job) : (s.setJob j).input = s.input := rfl
@[simp] theorem State.setJob_agenda (s : State) (j : Job) : (s.setJob j).agenda = s.agenda := rfl
@[simp] theorem State.setJob_turn (s : State) (j : Job) : (s.setJob j).turn = s.turn := rfl
@[simp] theorem State.setJob_steps (s : State) (j : Job) : (s.setJob j).steps = s.steps := rfl
@[simp] theorem State.setJob_setJob (s : State) (j j' : Job) : (s.setJob j).setJob j' = s.setJob j' := rfl

/-! ### `setLaunch` -/

@[simp] theorem State.setLaunch_fur (s : State) (l : Launch) : (s.setLaunch l).fur = s.fur := rfl
@[simp] theorem State.setLaunch_plot (s : State) (l : Launch) : (s.setLaunch l).plot = s.plot := rfl
@[simp] theorem State.setLaunch_launch (s : State) (l : Launch) : (s.setLaunch l).launch = l := rfl
@[simp] theorem State.setLaunch_job (s : State) (l : Launch) : (s.setLaunch l).job = s.job := rfl
@[simp] theorem State.setLaunch_core (s : State) (l : Launch) : (s.setLaunch l).core = s.core := rfl
@[simp] theorem State.setLaunch_furs (s : State) (l : Launch) : (s.setLaunch l).furs = s.furs := rfl
@[simp] theorem State.setLaunch_plots (s : State) (l : Launch) : (s.setLaunch l).plots = s.plots := rfl
@[simp] theorem State.setLaunch_launches (s : State) (l : Launch) : (s.setLaunch l).launches = s.launches := rfl
@[simp] theorem State.setLaunch_jobs (s : State) (l : Launch) : (s.setLaunch l).jobs = s.jobs := rfl
@[simp] theorem State.setLaunch_cores (s : State) (l : Launch) : (s.setLaunch l).cores = s.cores := rfl
@[simp] theorem State.setLaunch_graphs (s : State) (l : Launch) : (s.setLaunch l).graphs = s.graphs := rfl
@[simp] theorem State.setLaunch_seasons (s : State) (l : Launch) : (s.setLaunch l).seasons = s.seasons := rfl
@[simp] theorem State.setLaunch_mem (s : State) (l : Launch) : (s.setLaunch l).mem = s.mem := rfl
@[simp] theorem State.setLaunch_poisoned (s : State) (l : Launch) : (s.setLaunch l).poisoned = s.poisoned := rfl
@[simp] theorem State.setLaunch_l2 (s : State) (l : Launch) : (s.setLaunch l).l2 = s.l2 := rfl
@[simp] theorem State.setLaunch_checker (s : State) (l : Launch) : (s.setLaunch l).checker = s.checker := rfl
@[simp] theorem State.setLaunch_rdc (s : State) (l : Launch) : (s.setLaunch l).rdc = s.rdc := rfl
@[simp] theorem State.setLaunch_tcache (s : State) (l : Launch) : (s.setLaunch l).tcache = s.tcache := rfl
@[simp] theorem State.setLaunch_rets (s : State) (l : Launch) : (s.setLaunch l).rets = s.rets := rfl
@[simp] theorem State.setLaunch_ejobs (s : State) (l : Launch) : (s.setLaunch l).ejobs = s.ejobs := rfl
@[simp] theorem State.setLaunch_pend (s : State) (l : Launch) : (s.setLaunch l).pend = s.pend := rfl
@[simp] theorem State.setLaunch_rebalanced (s : State) (l : Launch) : (s.setLaunch l).rebalanced = s.rebalanced := rfl
@[simp] theorem State.setLaunch_trapq (s : State) (l : Launch) : (s.setLaunch l).trapq = s.trapq := rfl
@[simp] theorem State.setLaunch_faultq (s : State) (l : Launch) : (s.setLaunch l).faultq = s.faultq := rfl
@[simp] theorem State.setLaunch_trapSeq (s : State) (l : Launch) : (s.setLaunch l).trapSeq = s.trapSeq := rfl
@[simp] theorem State.setLaunch_faultSeq (s : State) (l : Launch) : (s.setLaunch l).faultSeq = s.faultSeq := rfl
@[simp] theorem State.setLaunch_barto (s : State) (l : Launch) : (s.setLaunch l).barto = s.barto := rfl
@[simp] theorem State.setLaunch_cruise (s : State) (l : Launch) : (s.setLaunch l).cruise = s.cruise := rfl
@[simp] theorem State.setLaunch_timeNs (s : State) (l : Launch) : (s.setLaunch l).timeNs = s.timeNs := rfl
@[simp] theorem State.setLaunch_cycles (s : State) (l : Launch) : (s.setLaunch l).cycles = s.cycles := rfl
@[simp] theorem State.setLaunch_zones (s : State) (l : Launch) : (s.setLaunch l).zones = s.zones := rfl
@[simp] theorem State.setLaunch_clock (s : State) (l : Launch) : (s.setLaunch l).clock = s.clock := rfl
@[simp] theorem State.setLaunch_fleet (s : State) (l : Launch) : (s.setLaunch l).fleet = s.fleet := rfl
@[simp] theorem State.setLaunch_nextFrame (s : State) (l : Launch) : (s.setLaunch l).nextFrame = s.nextFrame := rfl
@[simp] theorem State.setLaunch_freed (s : State) (l : Launch) : (s.setLaunch l).freed = s.freed := rfl
@[simp] theorem State.setLaunch_ptags (s : State) (l : Launch) : (s.setLaunch l).ptags = s.ptags := rfl
@[simp] theorem State.setLaunch_nextId (s : State) (l : Launch) : (s.setLaunch l).nextId = s.nextId := rfl
@[simp] theorem State.setLaunch_input (s : State) (l : Launch) : (s.setLaunch l).input = s.input := rfl
@[simp] theorem State.setLaunch_agenda (s : State) (l : Launch) : (s.setLaunch l).agenda = s.agenda := rfl
@[simp] theorem State.setLaunch_turn (s : State) (l : Launch) : (s.setLaunch l).turn = s.turn := rfl
@[simp] theorem State.setLaunch_steps (s : State) (l : Launch) : (s.setLaunch l).steps = s.steps := rfl
@[simp] theorem State.setLaunch_setLaunch (s : State) (l l' : Launch) : (s.setLaunch l).setLaunch l' = s.setLaunch l' := rfl

/-! ### `setMem` -/

@[simp] theorem State.setMem_fur (s : State) (m : List Host.Cell) : (s.setMem m).fur = s.fur := rfl
@[simp] theorem State.setMem_plot (s : State) (m : List Host.Cell) : (s.setMem m).plot = s.plot := rfl
@[simp] theorem State.setMem_launch (s : State) (m : List Host.Cell) : (s.setMem m).launch = s.launch := rfl
@[simp] theorem State.setMem_job (s : State) (m : List Host.Cell) : (s.setMem m).job = s.job := rfl
@[simp] theorem State.setMem_core (s : State) (m : List Host.Cell) : (s.setMem m).core = s.core := rfl
@[simp] theorem State.setMem_furs (s : State) (m : List Host.Cell) : (s.setMem m).furs = s.furs := rfl
@[simp] theorem State.setMem_plots (s : State) (m : List Host.Cell) : (s.setMem m).plots = s.plots := rfl
@[simp] theorem State.setMem_launches (s : State) (m : List Host.Cell) : (s.setMem m).launches = s.launches := rfl
@[simp] theorem State.setMem_jobs (s : State) (m : List Host.Cell) : (s.setMem m).jobs = s.jobs := rfl
@[simp] theorem State.setMem_cores (s : State) (m : List Host.Cell) : (s.setMem m).cores = s.cores := rfl
@[simp] theorem State.setMem_graphs (s : State) (m : List Host.Cell) : (s.setMem m).graphs = s.graphs := rfl
@[simp] theorem State.setMem_seasons (s : State) (m : List Host.Cell) : (s.setMem m).seasons = s.seasons := rfl
@[simp] theorem State.setMem_mem (s : State) (m : List Host.Cell) : (s.setMem m).mem = m := rfl
@[simp] theorem State.setMem_poisoned (s : State) (m : List Host.Cell) : (s.setMem m).poisoned = s.poisoned := rfl
@[simp] theorem State.setMem_l2 (s : State) (m : List Host.Cell) : (s.setMem m).l2 = s.l2 := rfl
@[simp] theorem State.setMem_checker (s : State) (m : List Host.Cell) : (s.setMem m).checker = s.checker := rfl
@[simp] theorem State.setMem_rdc (s : State) (m : List Host.Cell) : (s.setMem m).rdc = s.rdc := rfl
@[simp] theorem State.setMem_tcache (s : State) (m : List Host.Cell) : (s.setMem m).tcache = s.tcache := rfl
@[simp] theorem State.setMem_rets (s : State) (m : List Host.Cell) : (s.setMem m).rets = s.rets := rfl
@[simp] theorem State.setMem_ejobs (s : State) (m : List Host.Cell) : (s.setMem m).ejobs = s.ejobs := rfl
@[simp] theorem State.setMem_pend (s : State) (m : List Host.Cell) : (s.setMem m).pend = s.pend := rfl
@[simp] theorem State.setMem_rebalanced (s : State) (m : List Host.Cell) : (s.setMem m).rebalanced = s.rebalanced := rfl
@[simp] theorem State.setMem_trapq (s : State) (m : List Host.Cell) : (s.setMem m).trapq = s.trapq := rfl
@[simp] theorem State.setMem_faultq (s : State) (m : List Host.Cell) : (s.setMem m).faultq = s.faultq := rfl
@[simp] theorem State.setMem_trapSeq (s : State) (m : List Host.Cell) : (s.setMem m).trapSeq = s.trapSeq := rfl
@[simp] theorem State.setMem_faultSeq (s : State) (m : List Host.Cell) : (s.setMem m).faultSeq = s.faultSeq := rfl
@[simp] theorem State.setMem_barto (s : State) (m : List Host.Cell) : (s.setMem m).barto = s.barto := rfl
@[simp] theorem State.setMem_cruise (s : State) (m : List Host.Cell) : (s.setMem m).cruise = s.cruise := rfl
@[simp] theorem State.setMem_timeNs (s : State) (m : List Host.Cell) : (s.setMem m).timeNs = s.timeNs := rfl
@[simp] theorem State.setMem_cycles (s : State) (m : List Host.Cell) : (s.setMem m).cycles = s.cycles := rfl
@[simp] theorem State.setMem_zones (s : State) (m : List Host.Cell) : (s.setMem m).zones = s.zones := rfl
@[simp] theorem State.setMem_clock (s : State) (m : List Host.Cell) : (s.setMem m).clock = s.clock := rfl
@[simp] theorem State.setMem_fleet (s : State) (m : List Host.Cell) : (s.setMem m).fleet = s.fleet := rfl
@[simp] theorem State.setMem_nextFrame (s : State) (m : List Host.Cell) : (s.setMem m).nextFrame = s.nextFrame := rfl
@[simp] theorem State.setMem_freed (s : State) (m : List Host.Cell) : (s.setMem m).freed = s.freed := rfl
@[simp] theorem State.setMem_ptags (s : State) (m : List Host.Cell) : (s.setMem m).ptags = s.ptags := rfl
@[simp] theorem State.setMem_nextId (s : State) (m : List Host.Cell) : (s.setMem m).nextId = s.nextId := rfl
@[simp] theorem State.setMem_input (s : State) (m : List Host.Cell) : (s.setMem m).input = s.input := rfl
@[simp] theorem State.setMem_agenda (s : State) (m : List Host.Cell) : (s.setMem m).agenda = s.agenda := rfl
@[simp] theorem State.setMem_turn (s : State) (m : List Host.Cell) : (s.setMem m).turn = s.turn := rfl
@[simp] theorem State.setMem_steps (s : State) (m : List Host.Cell) : (s.setMem m).steps = s.steps := rfl
@[simp] theorem State.setMem_setMem (s : State) (m m' : List Host.Cell) : (s.setMem m).setMem m' = s.setMem m' := rfl

end Sys2Proof.Machine
end

