-- ==== Sys2Proof/Laws/Keeps.lean ====
section
/-! SUPPORT. What the shared operations leave alone: units and messages change no memory, and every operation that writes
memory keeps its canonical form. -/

namespace Sys2Proof.Machine

variable {s : State}

/-! ### Operations that leave memory as it is -/

@[simp] theorem mapFurs_mem (g : Furrow → Furrow) : (s.mapFurs g).mem = s.mem := rfl
@[simp] theorem mapPlots_mem (g : Plot → Plot) : (s.mapPlots g).mem = s.mem := rfl
@[simp] theorem mapLaunches_mem (g : Launch → Launch) : (s.mapLaunches g).mem = s.mem := rfl
@[simp] theorem mapJobs_mem (g : Job → Job) : (s.mapJobs g).mem = s.mem := rfl
@[simp] theorem mapCores_mem (g : Core → Core) : (s.mapCores g).mem = s.mem := rfl
@[simp] theorem modFur_mem (k : Nat) (g : Furrow → Furrow) : (s.modFur k g).mem = s.mem := rfl
@[simp] theorem modPlot_mem (k : Nat) (g : Plot → Plot) : (s.modPlot k g).mem = s.mem := rfl
@[simp] theorem modLaunch_mem (k : Nat) (g : Launch → Launch) : (s.modLaunch k g).mem = s.mem := rfl
@[simp] theorem modJob_mem (k : Nat) (g : Job → Job) : (s.modJob k g).mem = s.mem := rfl
@[simp] theorem modCore_mem (k : Nat) (g : Core → Core) : (s.modCore k g).mem = s.mem := by
  unfold State.modCore; split <;> rfl
@[simp] theorem modGraph_mem (k : Nat) (g : Graph → Graph) : (s.modGraph k g).mem = s.mem := rfl
@[simp] theorem modSeason_mem (k : Nat) (g : Season → Season) : (s.modSeason k g).mem = s.mem := rfl
@[simp] theorem modEJob_mem (k : Nat) (g : EJob → EJob) : (s.modEJob k g).mem = s.mem := rfl
@[simp] theorem unload_mem : s.unload.mem = s.mem := rfl
@[simp] theorem focusPlot_mem (k : Nat) : (s.focusPlot k).mem = s.mem := rfl
@[simp] theorem focusFur_mem (k : Nat) : (s.focusFur k).mem = s.mem := rfl
@[simp] theorem send_mem (t : BitVec 8) (k : Nat) (a : BitVec 16) (b : List Word) : (s.send t k a b).mem = s.mem := rfl
@[simp] theorem respond_mem (t : BitVec 8) (r k : Nat) (a : BitVec 16) (b : List Word) : (s.respond t r k a b).mem = s.mem := rfl
@[simp] theorem setMask_mem (k : Nat) (act bits : Mask) : (s.setMask k act bits).mem = s.mem := by
  unfold State.setMask; rfl
@[simp] theorem setPc_mem (pc : Word) : (s.setPc pc).mem = s.mem := rfl
@[simp] theorem count_mem : s.count.mem = s.mem := rfl
@[simp] theorem advance_mem : s.advance.mem = s.mem := rfl
@[simp] theorem jump_mem (pc : Word) : (s.jump pc).mem = s.mem := rfl
@[simp] theorem setX_mem (k : Nat) (v : Src) : (s.setX k v).mem = s.mem := rfl
@[simp] theorem pushLatch_mem (act : Mask) (v : Nat → Src) : (s.pushLatch act v).mem = s.mem := rfl
@[simp] theorem setSlices_mem (a b : Nat) (act : Mask) (v : Nat → Src) : (s.setSlices a b act v).mem = s.mem := rfl
@[simp] theorem emptyLatch_mem : s.emptyLatch.mem = s.mem := rfl
@[simp] theorem endRegion_mem : s.endRegion.mem = s.mem := rfl
@[simp] theorem disarm_mem : s.disarm.mem = s.mem := rfl
@[simp] theorem unhold_mem : s.unhold.mem = s.mem := rfl
@[simp] theorem fillSector_mem (k : Nat) : (s.fillSector k).mem = s.mem := by
  unfold State.fillSector; dsimp only; repeat' split
  all_goals rfl
@[simp] theorem fillAll_mem (l : List Nat) : (s.fillAll l).mem = s.mem := by
  unfold State.fillAll
  generalize l.flatMap lineOf = k
  induction k generalizing s with
  | nil => rfl
  | cons x k ih => simp [ih]
@[simp] theorem putPart_mem (vis : Bool) (va pa n v : Nat) (p : Bool) : (s.putPart vis va pa n v p).mem = s.mem := rfl
@[simp] theorem putStore_mem (vis : Bool) (va n v : Nat) (p : Bool) : (s.putStore vis va n v p).mem = s.mem := by
  unfold State.putStore; dsimp only; split <;> rfl
@[simp] theorem showAll_mem : s.showAll.mem = s.mem := rfl
@[simp] theorem syncOps_mem (a b : Nat) (m : Mask) : (s.syncOps a b m).mem = s.mem := by simp [State.syncOps]
@[simp] theorem refresh_mem (sc : BitVec 3) : (s.refresh sc).mem = s.mem := by unfold State.refresh; split <;> rfl
@[simp] theorem dropCopies_mem (l : List Nat) : (s.dropCopies l).mem = s.mem := rfl
@[simp] theorem addRecord_mem (r : CheckRec) : (s.addRecord r).mem = s.mem := rfl
@[simp] theorem dirty_mem (k : Nat) : (s.dirty k).mem = s.mem := by unfold State.dirty; split <;> rfl
@[simp] theorem touchCopies_mem (a b c d n v : Nat) (p : Bool) : (s.touchCopies a b c d n v p).mem = s.mem := by
  unfold State.touchCopies; dsimp only; split <;> simp
@[simp] theorem dropTlb_mem (p : TlbEntry → Bool) : (s.dropTlb p).mem = s.mem := rfl
@[simp] theorem release_mem (f : Furrow) : (s.release f).mem = s.mem := rfl
@[simp] theorem deliverRet_mem (r : Ret) : (s.deliverRet r).mem = s.mem := by unfold State.deliverRet; dsimp only; split <;> rfl
@[simp] theorem deliverWhere_mem (p : Nat → Bool) : (s.deliverWhere p).mem = s.mem := by
  unfold State.deliverWhere
  generalize s.rets.filter _ = l
  induction l generalizing s with
  | nil => rfl
  | cons x l ih => simp [List.foldl_cons, ih]
@[simp] theorem noteEffect_mem : s.noteEffect.mem = s.mem := by simp [State.noteEffect, State.noteFur]
@[simp] theorem afterEffect_mem : s.afterEffect.mem = s.mem := by simp [State.afterEffect]
@[simp] theorem useRecord_mem (k : Nat) : (s.useRecord k).mem = s.mem := by unfold State.useRecord; split <;> rfl
@[simp] theorem destroyJob_mem (k : Nat) : (s.destroyJob k).mem = s.mem := by
  unfold State.destroyJob; split <;> simp

/-! ### Operations that write memory and keep its form -/

@[simp] theorem setMem_memWf {m : List Host.Cell} : (s.setMem m).memWf ↔ Memory.wf m = true := Iff.rfl
theorem memWf_of_mem {t : State} (h : s.memWf) (e : t.mem = s.mem) : t.memWf := by unfold State.memWf; rw [e]; exact h

/-- A fold of an operation that keeps the form keeps it. -/
theorem memWf_foldl {α : Type} {g : State → α → State} (hg : ∀ t x, t.memWf → (g t x).memWf) (l : List α) :
    ∀ t : State, t.memWf → (l.foldl g t).memWf := by
  induction l with
  | nil => exact fun _ h => h
  | cons x l ih => exact fun t h => ih _ (hg t x h)

theorem putComp_memWf (c : Comp) (h : s.memWf) : (s.putComp c).memWf := by
  unfold State.putComp; split
  · exact h
  · exact Memory.wf_writeN (Memory.wf_writeN h)
theorem clearDetres_memWf (h : s.memWf) : s.clearDetres.memWf := by
  unfold State.clearDetres; split
  · exact putComp_memWf _ h
  · exact h
theorem keepFixed_wf {m : Memory} (sec : Nat) (h : Memory.wf m = true) : Memory.wf (s.keepFixed sec m) = true := by
  unfold State.keepFixed; split
  · exact h
  · generalize List.range 64 = l
    induction l generalizing m with
    | nil => exact h
    | cons k l ih => exact ih (Memory.wf_setByte h)
theorem commitEntry_memWf (a b : Nat) (e : SiloEntry) (h : s.memWf) : (s.commitEntry a b e).memWf := by
  have : (s.commitEntry a b e).mem =
      (s.dirty e.sector).keepFixed e.sector (Memory.writeMasked s.mem (64 * e.sector) e.mask.toNat e.data.toNat 64) := by
    unfold State.commitEntry; dsimp only; rw [apply_ite State.mem]; simp
  unfold State.memWf; rw [this]; exact keepFixed_wf _ (Memory.wf_writeMasked h)
theorem commitPlot_memWf (p : Plot) (h : s.memWf) : (s.commitPlot p).memWf := by
  exact memWf_of_mem (memWf_foldl (fun t e ht => commitEntry_memWf (s := t) _ _ e ht) p.entries s h) rfl
theorem commitWhere_memWf (p : SiloEntry → Bool) (h : s.memWf) : (s.commitWhere p).memWf := by
  exact memWf_of_mem (memWf_foldl (fun t e ht => commitEntry_memWf (s := t) _ _ e ht) _ s h) rfl
theorem writePart_memWf (c d pa n v : Nat) (p : Bool) (h : s.memWf) : (s.writePart c d pa n v p).memWf := by
  unfold State.writePart; dsimp only
  unfold State.memWf; rw [touchCopies_mem]
  exact keepFixed_wf _ (Memory.wf_writeN (by rw [dirty_mem]; exact h))
theorem writeHome_memWf (c d pa pa2 n v : Nat) (p : Bool) (h : s.memWf) : (s.writeHome c d pa pa2 n v p).memWf := by
  unfold State.writeHome; dsimp only
  split
  · exact writePart_memWf _ _ _ _ _ _ (writePart_memWf _ _ _ _ _ _ h)
  · exact writePart_memWf _ _ _ _ _ _ h
theorem applyRed_memWf (e : RedEntry) (h : s.memWf) : (s.applyRed e).memWf := writeHome_memWf _ _ _ _ _ _ _ h
theorem performRed_memWf (p : Plot) (e : RedEntry) (h : s.memWf) : (s.performRed p e).memWf := by
  unfold State.performRed; split
  · exact h
  · exact memWf_of_mem (writeHome_memWf p.core p.die e.pa e.pa (fmtBits e.fmt / 8)
      (atomFn e.fmt (AtomOp.ofCode e.op) e.rnd (Memory.readN s.mem e.pa (fmtBits e.fmt / 8)) e.val.toNat 0) false h) (by simp)
theorem clearDetresOf_memWf (k : Nat) (h : s.memWf) : (s.clearDetresOf k).memWf := by
  unfold State.clearDetresOf; repeat' split
  · exact h
  · exact putComp_memWf _ h
  · exact h
@[simp] theorem stageSome_mem (c k : Nat) : (s.stageSome c k).mem = s.mem := by
  unfold State.stageSome; split <;> simp
theorem stagePlot_memWf (c k : Nat) (h : s.memWf) : (s.stagePlot c k).memWf := by
  unfold State.stagePlot; split
  · exact h
  · dsimp only; split
    · exact memWf_of_mem h (by simp)
    exact clearDetresOf_memWf _ (memWf_foldl (fun t e ht => performRed_memWf (s := t) _ e ht) _ _ (memWf_of_mem h (by simp)))
theorem scrub_memWf (pa n : Nat) (h : s.memWf) : (s.scrub pa n).memWf := Memory.wf_splice h
theorem frameIn_memWf {d c : Nat} {near : Bool} {n a : Nat} {t : State} (h : s.memWf) (e : s.frameIn d near c n = some (a, t)) :
    t.memWf := by
  have key : ∀ (u : State) (pa : Nat), u.memWf → some (pa, u.scrub pa n) = some (a, t) → t.memWf := by
    intro u pa hu e; cases e; exact scrub_memWf _ _ hu
  unfold State.frameIn at e; dsimp only at e
  repeat' split at e
  all_goals first | exact key _ _ (memWf_of_mem h (by rfl)) e | cases e
theorem allocFrame_memWf {d : Nat} {near : Bool} {n a : Nat} {t : State} (h : s.memWf) (e : s.allocFrame d near n = some (a, t)) :
    t.memWf := by
  unfold State.allocFrame at e
  split at e
  · exact frameIn_memWf h e
  · obtain ⟨c, _, e⟩ := List.exists_of_findSome?_eq_some e
    split at e
    · cases e
    · exact frameIn_memWf h e
theorem setLeaf_memWf (va l entry k table : Nat) (h : s.memWf) : (s.setLeaf va l entry k table).memWf := by
  induction k generalizing s table with
  | zero => exact Memory.wf_writeN h
  | succ n ih =>
    unfold State.setLeaf; dsimp only
    split
    · exact Memory.wf_writeN h
    · split
      · exact ih _ h
      · split
        · exact h
        · rename_i t s1 e
          exact ih _ (Memory.wf_writeN (allocFrame_memWf h e))
theorem mapLeaf_memWf (j : Job) (va pa : Nat) (r w x p : Bool) (h : s.memWf) : (s.mapLeaf j va pa r w x p).memWf :=
  setLeaf_memWf _ _ _ _ _ h
theorem touchPage_memWf {jid va : Nat} {acc : Access} {t : State} (h : s.memWf) (e : s.touchPage jid va acc = some t) : t.memWf := by
  unfold State.touchPage at e; dsimp only at e
  split at e
  · cases e
  · split at e
    · cases e
    · cases acc <;> dsimp only at e <;> split at e
      all_goals first
        | cases e
        | (split at e
           · split at e
             · cases e; exact h
             · cases e
           · cases e
           · split at e
             · cases e
             · rename_i pa s1 ha
               cases e
               split at ha
               · exact memWf_of_mem (mapLeaf_memWf _ _ _ _ _ _ _ (allocFrame_memWf h ha)) rfl
               · cases ha)
theorem touchRange_memWf (jid va : Nat) (acc : Access) (k : Nat) (h : s.memWf) : (s.touchRange jid va acc k).memWf := by
  induction k generalizing s va with
  | zero => exact h
  | succ k ih =>
    unfold State.touchRange; dsimp only
    apply ih
    split
    · split
      · exact h
      · cases e : s.touchPage jid va acc with
        | none => exact h
        | some t => exact touchPage_memWf h e
    · exact h
theorem poolAlloc_memWf {jid plot die n va pa : Nat} {t : State} (h : s.memWf) (e : s.poolAlloc jid plot die n = some (va, pa, t)) :
    t.memWf := by
  unfold State.poolAlloc at e; dsimp only at e
  repeat' split at e
  all_goals first
    | cases e
      exact memWf_foldl (fun t _ ht => mapLeaf_memWf (s := t) _ _ _ _ _ _ _ ht) _ _ (allocFrame_memWf h (by assumption))
    | cases e
theorem freeArea_memWf (j : Job) (a : Area) (h : s.memWf) : (s.freeArea j a).memWf :=
  memWf_foldl (fun t _ ht => setLeaf_memWf (s := t) _ _ _ _ _ ht) (List.range a.pages) s h
theorem freeAreas_memWf (jid pid : Nat) (h : s.memWf) : (s.freeAreas jid pid).memWf := by
  unfold State.freeAreas; split
  · exact h
  · exact memWf_of_mem (memWf_foldl (fun t a ht => freeArea_memWf (s := t) _ a ht) _ s h) rfl
theorem newComp_memWf {jid : Nat} {c : Comp} {t : State} (h : s.memWf) (e : s.newComp jid = some (c, t)) : t.memWf := by
  unfold State.newComp at e; dsimp only at e
  split at e
  · cases e
  · rename_i j _
    rw [Option.map_eq_some_iff] at e
    obtain ⟨⟨va, pa, u⟩, hp, e⟩ := e
    cases e
    split at hp
    · exact memWf_of_mem (poolAlloc_memWf h hp) rfl
    · rw [Option.map_eq_some_iff] at hp
      obtain ⟨a, _, e⟩ := hp
      cases e; exact h
theorem pushEntry_memWf {at_ w : Nat} {l : List (Nat × Nat × Nat)} {t : State} (h : s.memWf) (e : s.pushEntry at_ w l = some t) :
    t.memWf := by
  unfold State.pushEntry at e; dsimp only at e
  split at e
  · cases e; exact Memory.wf_writeN (Memory.wf_splice h)
  · cases e
theorem serve_memWf (at_ : Nat) (h : s.memWf) : (s.serve at_).memWf := Memory.wf_writeN h
theorem pushFault_memWf (r : FaultRec) (h : s.memWf) : (s.pushFault r).memWf := by
  unfold State.pushFault; dsimp only
  split
  · exact serve_memWf _ (Memory.wf_writeN h)
  · split
    · rename_i e; exact memWf_of_mem (pushEntry_memWf h e) rfl
    · exact h
theorem writeUnits_wf {m : Memory} (f : Furrow) (l : BitVec 128) (h : Memory.wf m = true) : Memory.wf (f.writeUnits l m) = true := by
  unfold Furrow.writeUnits
  generalize List.flatMap _ _ = k
  induction k generalizing m with
  | nil => exact h
  | cons x k ih => exact ih (Memory.wf_writeN (Memory.wf_writeN h))
theorem saveContext_memWf (f : Furrow) (live : Option (BitVec 128)) (h : s.memWf) : (s.saveContext f live).memWf := by
  unfold State.saveContext; split
  · exact h
  · split
    · exact Memory.wf_splice h
    · exact writeUnits_wf _ _ (Memory.wf_splice h)
theorem writePlot_memWf (p : Plot) (l : List SeqOp) (k : Nat) (h : s.memWf) : (s.writePlot p l k).memWf := by
  unfold State.writePlot; split
  · exact h
  · exact Memory.wf_splice h
theorem writeCheck_memWf (p : Plot) (c : Checkpoint) (h : s.memWf) : (s.writeCheck p c).memWf :=
  memWf_foldl (fun t _ ht => saveContext_memWf (s := t) _ _ ht) _ _ (writePlot_memWf _ _ _ h)
/-- A checkpoint keeps the form of memory. -/
theorem checkpoint_memWf (h : s.memWf) : s.checkpoint.memWf := by
  unfold State.checkpoint
  exact writeCheck_memWf _ _ (memWf_of_mem (commitPlot_memWf s.plot h) (by simp))
theorem beforeEffect_memWf (h : s.memWf) : s.beforeEffect.memWf := checkpoint_memWf h
theorem markReturned_memWf (e k : Nat) (h : s.memWf) : (s.markReturned e k).memWf := by
  unfold State.markReturned; split
  · exact Memory.wf_writeN h
  · exact h
theorem settleSeason_memWf (k : Nat) (h : s.memWf) : (s.settleSeason k).memWf := by
  unfold State.settleSeason; repeat' split
  · exact h
  · exact h
  · dsimp only; split
    · exact putComp_memWf _ h
    · exact putComp_memWf _ (putComp_memWf _ h)
theorem settleJob_memWf (k : Nat) (h : s.memWf) : (s.settleJob k).memWf := by
  unfold State.settleJob; split
  · exact h
  · split
    · exact h
    · dsimp only
      split <;> split <;> simp only [State.memWf, respond_mem, destroyJob_mem, send_mem] <;> exact putComp_memWf _ h
theorem settleGraph_memWf (k : Nat) (h : s.memWf) : (s.settleGraph k).memWf := by
  unfold State.settleGraph; split
  · exact h
  · dsimp only; split
    · apply settleSeason_memWf
      split
      · exact putComp_memWf _ h
      · exact putComp_memWf _ (putComp_memWf _ h)
    · exact h
theorem orFlags_memWf (p : Plot) (h : s.memWf) : (s.orFlags p).memWf := by
  unfold State.orFlags; repeat' split
  all_goals first | exact h | exact Memory.wf_writeN h
theorem commitFlags_memWf (h : s.memWf) : s.commitFlags.memWf := orFlags_memWf _ (commitPlot_memWf _ h)
theorem boundary_memWf (sc : BitVec 3) (h : s.memWf) : (s.boundary sc).memWf := by
  unfold State.boundary; split
  · exact h
  · exact h
  · exact commitFlags_memWf h
theorem settlePlot_memWf (k : Nat) (h : s.memWf) : (s.settlePlot k).memWf := by
  unfold State.settlePlot
  split
  · exact h
  · rename_i p _
    split
    · exact h
    · rename_i l _
      dsimp only
      by_cases h1 : (p.status != .ending || s.ejobs.any (·.plot = k)) = true
      · rw [if_pos h1]; exact h
      · rw [if_neg h1]
        by_cases h2 : (!l.cancel && (s.commitBlocked p || p.runsApart || (s.coreOf p.core).seq.any (·.plot = k))) = true
        · rw [if_pos h2]; exact h
        · rw [if_neg h2]
          refine memWf_of_mem (freeAreas_memWf l.job k (putComp_memWf (l.comp.countOne l.cancel) (?_ : State.memWf _))) rfl
          refine memWf_of_mem (orFlags_memWf p (s := if l.cancel = true then s else (s.commitPlot p).stagePlot p.core k) ?_) (by simp)
          split
          · exact h
          · exact stagePlot_memWf _ _ (commitPlot_memWf _ h)
theorem plotEnd_memWf (k : Nat) (h : s.memWf) : (s.plotEnd k).memWf := by
  unfold State.plotEnd; repeat' split
  · exact h
  · exact settlePlot_memWf _ h
  · exact h
theorem endFur_memWf (k : Nat) (h : s.memWf) : (s.endFur k).memWf := by
  unfold State.endFur; split
  · exact h
  · exact plotEnd_memWf _ h
theorem endWaiting_memWf (k : Nat) (h : s.memWf) : (s.endWaiting k).memWf := by
  unfold State.endWaiting; repeat' split
  · exact h
  · exact h
  · exact endFur_memWf _ (markReturned_memWf _ _ h)
  · exact endFur_memWf _ h
theorem waitOr_memWf (h : s.memWf) : s.waitOr.memWf := by
  unfold State.waitOr; repeat' split
  all_goals first | exact h | exact endFur_memWf _ h
theorem elementFault_memWf (e : EJob) (va n k : Nat) (c : BitVec 8) (h : s.memWf) : (s.elementFault e va n k c).memWf := pushFault_memWf _ h
theorem abandon_memWf (e : EJob) (h : s.memWf) : (s.abandon e).memWf := by
  unfold State.abandon; dsimp only; split
  · exact elementFault_memWf _ _ _ _ _ (memWf_of_mem h rfl)
  · exact memWf_of_mem h rfl
theorem cancelLaunches_memWf (p : Launch → Bool) (h : s.memWf) : (s.cancelLaunches p).memWf := by
  unfold State.cancelLaunches
  refine memWf_foldl (fun t k ht => plotEnd_memWf (s := t) k ht) _ _ ?_
  refine memWf_foldl (fun t k ht => endWaiting_memWf (s := t) k ht) _ _ ?_
  refine memWf_of_mem (memWf_foldl (fun t e ht => abandon_memWf (s := t) e ht) _ _ ?_) (mapCores_mem _)
  exact memWf_of_mem h (mapLaunches_mem _)
theorem cancelGraphs_memWf (p : Graph → Bool) (h : s.memWf) : (s.cancelGraphs p).memWf := by
  unfold State.cancelGraphs
  refine memWf_foldl (fun t k ht => settleGraph_memWf (s := t) k ht) _ _ ?_
  refine cancelLaunches_memWf _ ?_
  exact memWf_of_mem h rfl
theorem cancelSeasons_memWf (p : Season → Bool) (h : s.memWf) : (s.cancelSeasons p).memWf := by
  unfold State.cancelSeasons
  refine cancelGraphs_memWf _ ?_
  exact memWf_of_mem h rfl
theorem cancelJob_memWf (k : Nat) (h : s.memWf) : (s.cancelJob k).memWf := by
  unfold State.cancelJob
  refine settleJob_memWf _ (cancelSeasons_memWf _ ?_)
  exact memWf_of_mem h (modJob_mem _ _)
theorem endJob_memWf (j l : Nat) (c : Cause) (h : s.memWf) : (s.endJob j l c).memWf := by
  unfold State.endJob
  refine cancelJob_memWf j ?_
  unfold State.memWf
  rw [modSeason_mem, modGraph_mem, modLaunch_mem, modJob_mem]
  exact h
theorem returnTrap_memWf (f e k : Nat) (h : s.memWf) : (s.returnTrap f e k).memWf := by
  unfold State.returnTrap
  exact memWf_of_mem (markReturned_memWf e k h) (modFur_mem _ _)
theorem endTrapped_memWf (f : Furrow) (h : s.memWf) : (s.endTrapped f).memWf := by
  unfold State.endTrapped; split
  · refine endJob_memWf _ _ _ ?_
    exact memWf_of_mem h (modJob_mem _ _)
  · exact h
theorem jobFault_memWf (j l : Nat) (x : Source) (c : Cause) (h : s.memWf) : (s.jobFault j l x c).memWf := by
  unfold State.jobFault; dsimp only
  have h0 : (if (qHead s.mem (x.queue.getD s.trapq.toNat)).full = true then s.serve (x.queue.getD s.trapq.toNat) else s).memWf := by
    split
    · exact serve_memWf _ h
    · exact h
  revert h0
  generalize (if (qHead s.mem (x.queue.getD s.trapq.toNat)).full = true then s.serve (x.queue.getD s.trapq.toNat) else s) = u
  intro h0
  split
  · exact endJob_memWf _ _ _ h0
  · rename_i e
    exact endJob_memWf _ _ _ (memWf_of_mem (pushEntry_memWf h0 e) (modJob_mem _ _))
theorem plotFault_memWf (p : Plot) (x : Option Source) (a : Nat) (c : Cause) (h : s.memWf) : (s.plotFault p x a c).memWf := jobFault_memWf _ _ _ _ h
theorem settlePend_memWf (h : s.memWf) : s.settlePend.memWf := by
  unfold State.settlePend
  refine memWf_foldl (fun t x ht => ?_) _ _ (memWf_of_mem h rfl)
  split
  · exact plotFault_memWf _ _ _ _ ht
  · exact ht
theorem restoreJoin_memWf (k : Nat) (u : FrameUse) (h : s.memWf) : (State.restoreJoin k s u).memWf := by
  unfold State.restoreJoin; split
  · exact Memory.wf_writeN h
  · exact h
theorem rollPlotFrom_memWf (k : Nat) (x : Option Source) (h : s.memWf) : (s.rollPlotFrom k x).memWf := by
  unfold State.rollPlotFrom; split
  · exact h
  · split
    · exact plotFault_memWf _ _ _ _ h
    · dsimp only
      have key : ∀ (l : List FrameUse) (j : Nat) (t u : State), t.memWf → u.mem = (l.foldl (State.restoreJoin j) t).mem → u.memWf :=
        fun l j t u ht e => memWf_of_mem (memWf_foldl (fun t x ht => restoreJoin_memWf (s := t) _ x ht) l t ht) e
      split
      · exact plotEnd_memWf _ (key _ _ _ _ (memWf_of_mem h (by simp only [modLaunch_mem, modCore_mem, modPlot_mem])) rfl)
      · exact key _ _ _ _ (memWf_of_mem h (by simp only [modLaunch_mem, modCore_mem, modPlot_mem])) rfl
theorem rollPlot_memWf (k : Nat) (h : s.memWf) : (s.rollPlot k).memWf := rollPlotFrom_memWf _ _ h
theorem rollback_memWf (h : s.memWf) : s.rollback.memWf := rollPlot_memWf _ h
@[simp] theorem notePoison_mem (l : List Nat) : (s.notePoison l).mem = s.mem := by unfold State.notePoison; split <;> rfl
theorem growHeld_memWf {t : State} (h : s.memWf) (e : s.growHeld = some t) : t.memWf := by
  unfold State.growHeld at e
  split at e
  · cases e
  · rw [Option.map_eq_some_iff] at e
    obtain ⟨⟨va, pa, u⟩, hr, e⟩ := e
    cases e; exact memWf_of_mem (poolAlloc_memWf h hr) rfl
theorem growFor_memWf {n k : Nat} {t : State} (h : s.memWf) (e : State.growFor n k s = some t) : t.memWf := by
  induction k generalizing s with
  | zero =>
    unfold State.growFor at e; split at e
    · cases e; exact h
    · cases e
  | succ k ih =>
    unfold State.growFor at e; split at e
    · cases e; exact h
    · rw [Option.bind_eq_some_iff] at e
      obtain ⟨u, hu, e⟩ := e
      exact ih (growHeld_memWf h hu) e
theorem makeRoom_memWf (t : State) (h : s.memWf) : (s.makeRoom t).memWf := by
  unfold State.makeRoom; split
  · exact h
  · cases e : State.growFor t.plot.held.length 64 s with
    | none => exact checkpoint_memWf h
    | some u => exact growFor_memWf h e
/-- A store of an instruction keeps the form of memory, with what finds it room. -/
theorem putRoom_memWf {vis : Bool} {x : Nat × Nat × Nat × Bool} {t : State} (h : s.memWf) (e : s.putRoom vis x = .ok t) : t.memWf := by
  unfold State.putRoom at e; dsimp only at e
  split at e
  · cases e
  · cases e; exact memWf_of_mem (makeRoom_memWf (s.putStore vis x.1 x.2.1 x.2.2.1 x.2.2.2) h) (by simp)
theorem putRooms_memWf {vis : Bool} {l : List (Nat × Nat × Nat × Bool)} {t : State} (h : s.memWf) (e : State.putRooms vis s l = .ok t) : t.memWf := by
  induction l generalizing s with
  | nil => cases e; exact h
  | cons x l ih =>
    unfold State.putRooms at e; split at e
    · cases e
    · rename_i u hu; exact ih (putRoom_memWf h hu) e

/-! ### Taking a fault, and the stops of an instruction -/

theorem saveTrap_memWf (c : Cause) (h : s.memWf) : (s.saveTrap c).memWf := by
  unfold State.saveTrap; dsimp only
  split
  · exact memWf_foldl (fun t f ht => saveContext_memWf (s := t) f none ht) _ _ (saveContext_memWf _ _ (memWf_of_mem h (by simp)))
  · exact saveContext_memWf _ _ (memWf_of_mem h (by simp))
/-- Taking a precise fault keeps the form of memory. -/
theorem writeTrap_memWf {r : TrapRec} {t : State} (h : s.memWf) (e : s.writeTrap r = .next t) : t.memWf := by
  unfold State.writeTrap at e; dsimp only at e
  split at e
  · cases e
  · rename_i u hp
    have hu : u.memWf := pushEntry_memWf (saveTrap_memWf _ h) hp
    split at e
    · cases e
      refine endJob_memWf _ _ _ ?_
      split <;> exact memWf_of_mem hu rfl
    · cases e; exact hu
    · cases e; exact hu
theorem takeFault_memWf {r : TrapRec} {t : State} (h : s.memWf) (e : s.takeFault r = .next t) : t.memWf := by
  unfold State.takeFault at e; dsimp only at e
  repeat' split at e
  · cases e; exact h
  · cases e; exact h
  · cases e; exact waitOr_memWf h
  · exact writeTrap_memWf h e
theorem stop_memWf {x : Stop} {t : State} (h : s.memWf) (e : s.stop x = .next t) : t.memWf := by
  unfold State.stop at e
  split at e
  · exact takeFault_memWf h e
  · cases e; exact rollback_memWf h
  · cases e; exact rollback_memWf (memWf_of_mem h (by simp))
  · cases e; exact h
  · cases e; exact h
  · cases e; exact waitOr_memWf h
/-- An instruction keeps the form of memory where its effect does. -/
theorem guarded_memWf {chk : Option Stop} {body t : State} (h : s.memWf) (hb : body.memWf) (e : guarded chk s body = .next t) : t.memWf := by
  unfold guarded at e
  split at e
  · cases e; exact hb
  · exact stop_memWf h e
theorem guardedOut_memWf {chk : Option Stop} {body : Out} {t : State} (h : s.memWf) (hb : ∀ u, body = .next u → u.memWf)
    (e : guardedOut chk s body = .next t) : t.memWf := by
  unfold guardedOut at e
  split at e
  · exact hb t e
  · exact stop_memWf h e

end Sys2Proof.Machine
end

