-- ==== Sys2Proof/Laws/PerInstr.lean ====
section
/-! SUPPORT. Per instruction: the code of a well-formed instruction carries the frame bits that fetch goes by (R114). -/

namespace Sys2Proof.Laws.Encoding

open Sys2Proof

/-- Bits [63:62] of the words of an instruction: 01 in an S word, 10 and 11 in the two of a W frame, and 00 where a P half is
the upper one of its word. An event has no code. -/
def Statement (i : Instr) : Prop :=
  i.wellFormed = true →
    match encode i with
    | some (.half h v) => h = true → v.extractLsb' 30 2 = 0
    | some (.one w) => w.extractLsb' 62 2 = 1
    | some (.two w0 w1) => w0.extractLsb' 62 2 = 2 ∧ w1.extractLsb' 62 2 = 3
    | none => True

theorem extract_append_of_le {n m : Nat} (x : BitVec n) (y : BitVec m) (lo k : Nat) (h : m ≤ lo) :
    (x ++ y).extractLsb' lo k = x.extractLsb' (lo - m) k := by
  ext i hi
  simp only [BitVec.getElem_extractLsb', BitVec.getLsbD_append]
  rw [if_neg (by omega)]
  congr 1
  omega

theorem frame_s (op : Nat) (f : Args) : (encodeS op f).extractLsb' 62 2 = 1 := by
  unfold encodeS
  repeat refine (extract_append_of_le _ _ _ _ (by decide)).trans ?_
  decide
theorem frame_w0 (op : Nat) (f : Args) : (encodeW0 op f).extractLsb' 62 2 = 2 := by
  unfold encodeW0
  repeat refine (extract_append_of_le _ _ _ _ (by decide)).trans ?_
  decide
theorem frame_w1 (f : Args) : (encodeW1 f).extractLsb' 62 2 = 3 := by
  unfold encodeW1
  repeat refine (extract_append_of_le _ _ _ _ (by decide)).trans ?_
  decide
theorem frame_half (op : BitVec 7) (p : PArgs) (h : op.extractLsb' 5 2 = 0) : (pArgsBits op p).extractLsb' 30 2 = 0 := by
  unfold pArgsBits
  repeat refine (extract_append_of_le _ _ _ _ (by decide)).trans ?_
  exact h
theorem frame_imm (op : BitVec 7) (p : PImm) (h : op.extractLsb' 5 2 = 0) : (pImmBits op p).extractLsb' 30 2 = 0 := by
  unfold pImmBits
  repeat refine (extract_append_of_le _ _ _ _ (by decide)).trans ?_
  exact h
theorem frame_nop (g : BitVec 3) : (1#7 ++ g ++ 0#22 : BitVec 32).extractLsb' 30 2 = 0 := by
  repeat refine (extract_append_of_le _ _ _ _ (by decide)).trans ?_
  decide

theorem of_word {i : Instr} {op : Nat} {f : Args} (h : i.opArgs = some (op, f)) : Statement i := by
  intro _
  unfold encode
  rw [h]
  by_cases w : f.wide = true
  · simp only [w, if_true]; exact ⟨frame_w0 op f, frame_w1 f⟩
  · simp only [w]; exact frame_s op f

/-! One lemma per constructor. -/

theorem br (f : Args) : Statement (.br f) := of_word rfl
theorem brall (f : Args) : Statement (.brall f) := of_word rfl
theorem brany (f : Args) : Statement (.brany f) := of_word rfl
theorem brnone (f : Args) : Statement (.brnone f) := of_word rfl
theorem brd (f : Args) : Statement (.brd f) := of_word rfl
theorem brdec (f : Args) : Statement (.brdec f) := of_word rfl
theorem jmp (f : Args) : Statement (.jmp f) := of_word rfl
theorem jmpd (f : Args) : Statement (.jmpd f) := of_word rfl
theorem call (f : Args) : Statement (.call f) := of_word rfl
theorem calli (f : Args) : Statement (.calli f) := of_word rfl
theorem calliBudget (f : Args) : Statement (.calliBudget f) := of_word rfl
theorem spawn (f : Args) : Statement (.spawn f) := of_word rfl
theorem yieldW (f : Args) : Statement (.yieldW f) := of_word rfl
theorem yieldWWide (f : Args) : Statement (.yieldWWide f) := of_word rfl
theorem waitt (f : Args) : Statement (.waitt f) := of_word rfl
theorem waittD (f : Args) : Statement (.waittD f) := of_word rfl
theorem bar (f : Args) : Statement (.bar f) := of_word rfl
theorem cancel (f : Args) : Statement (.cancel f) := of_word rfl
theorem addInt (f : Args) : Statement (.addInt f) := of_word rfl
theorem subInt (f : Args) : Statement (.subInt f) := of_word rfl
theorem mulInt (f : Args) : Statement (.mulInt f) := of_word rfl
theorem mulh (f : Args) : Statement (.mulh f) := of_word rfl
theorem minInt (f : Args) : Statement (.minInt f) := of_word rfl
theorem maxInt (f : Args) : Statement (.maxInt f) := of_word rfl
theorem absInt (f : Args) : Statement (.absInt f) := of_word rfl
theorem negInt (f : Args) : Statement (.negInt f) := of_word rfl
theorem adds (f : Args) : Statement (.adds f) := of_word rfl
theorem subs (f : Args) : Statement (.subs f) := of_word rfl
theorem muls (f : Args) : Statement (.muls f) := of_word rfl
theorem and (f : Args) : Statement (.and f) := of_word rfl
theorem or (f : Args) : Statement (.or f) := of_word rfl
theorem xor (f : Args) : Statement (.xor f) := of_word rfl
theorem andn (f : Args) : Statement (.andn f) := of_word rfl
theorem not (f : Args) : Statement (.not f) := of_word rfl
theorem shl (f : Args) : Statement (.shl f) := of_word rfl
theorem shr (f : Args) : Statement (.shr f) := of_word rfl
theorem sar (f : Args) : Statement (.sar f) := of_word rfl
theorem rotl (f : Args) : Statement (.rotl f) := of_word rfl
theorem rotr (f : Args) : Statement (.rotr f) := of_word rfl
theorem popc (f : Args) : Statement (.popc f) := of_word rfl
theorem clz (f : Args) : Statement (.clz f) := of_word rfl
theorem ctz (f : Args) : Statement (.ctz f) := of_word rfl
theorem mov (f : Args) : Statement (.mov f) := of_word rfl
theorem ext (f : Args) : Statement (.ext f) := of_word rfl
theorem ins (f : Args) : Statement (.ins f) := of_word rfl
theorem mad (f : Args) : Statement (.mad f) := of_word rfl
theorem bfx (f : Args) : Statement (.bfx f) := of_word rfl
theorem sel (f : Args) : Statement (.sel f) := of_word rfl
theorem bfi (f : Args) : Statement (.bfi f) := of_word rfl
theorem cmpEqInt (f : Args) : Statement (.cmpEqInt f) := of_word rfl
theorem cmpNeInt (f : Args) : Statement (.cmpNeInt f) := of_word rfl
theorem cmpLtInt (f : Args) : Statement (.cmpLtInt f) := of_word rfl
theorem cmpLeInt (f : Args) : Statement (.cmpLeInt f) := of_word rfl
theorem cmpGtInt (f : Args) : Statement (.cmpGtInt f) := of_word rfl
theorem cmpGeInt (f : Args) : Statement (.cmpGeInt f) := of_word rfl
theorem ixa (k : BitVec 3) (f : Args) : Statement (.ixa k f) := of_word rfl
theorem xadd (f : Args) : Statement (.xadd f) := of_word rfl
theorem xsub (f : Args) : Statement (.xsub f) := of_word rfl
theorem xmul (f : Args) : Statement (.xmul f) := of_word rfl
theorem xand (f : Args) : Statement (.xand f) := of_word rfl
theorem xior (f : Args) : Statement (.xior f) := of_word rfl
theorem xshl (f : Args) : Statement (.xshl f) := of_word rfl
theorem xshr (f : Args) : Statement (.xshr f) := of_word rfl
theorem xmov (f : Args) : Statement (.xmov f) := of_word rfl
theorem lea (f : Args) : Statement (.lea f) := of_word rfl
theorem mulhi (f : Args) : Statement (.mulhi f) := of_word rfl
theorem brev (f : Args) : Statement (.brev f) := of_word rfl
theorem divInt (f : Args) : Statement (.divInt f) := of_word rfl
theorem mand (f : Args) : Statement (.mand f) := of_word rfl
theorem mor (f : Args) : Statement (.mor f) := of_word rfl
theorem mxor (f : Args) : Statement (.mxor f) := of_word rfl
theorem mandn (f : Args) : Statement (.mandn f) := of_word rfl
theorem mnot (f : Args) : Statement (.mnot f) := of_word rfl
theorem mmov (f : Args) : Statement (.mmov f) := of_word rfl
theorem mset (f : Args) : Statement (.mset f) := of_word rfl
theorem mget (f : Args) : Statement (.mget f) := of_word rfl
theorem mpopc (f : Args) : Statement (.mpopc f) := of_word rfl
theorem mffs (f : Args) : Statement (.mffs f) := of_word rfl
theorem shflIdx (f : Args) : Statement (.shflIdx f) := of_word rfl
theorem shflUp (f : Args) : Statement (.shflUp f) := of_word rfl
theorem shflDown (f : Args) : Statement (.shflDown f) := of_word rfl
theorem shflXor (f : Args) : Statement (.shflXor f) := of_word rfl
theorem shfe (f : Args) : Statement (.shfe f) := of_word rfl
theorem permB (f : Args) : Statement (.permB f) := of_word rfl
theorem permN (f : Args) : Statement (.permN f) := of_word rfl
theorem lut (f : Args) : Statement (.lut f) := of_word rfl
theorem reduceAdd (f : Args) : Statement (.reduceAdd f) := of_word rfl
theorem reduceMin (f : Args) : Statement (.reduceMin f) := of_word rfl
theorem reduceMax (f : Args) : Statement (.reduceMax f) := of_word rfl
theorem reduceAnd (f : Args) : Statement (.reduceAnd f) := of_word rfl
theorem reduceOr (f : Args) : Statement (.reduceOr f) := of_word rfl
theorem reduceXor (f : Args) : Statement (.reduceXor f) := of_word rfl
theorem scanAdd (f : Args) : Statement (.scanAdd f) := of_word rfl
theorem scanMin (f : Args) : Statement (.scanMin f) := of_word rfl
theorem scanMax (f : Args) : Statement (.scanMax f) := of_word rfl
theorem scanAnd (f : Args) : Statement (.scanAnd f) := of_word rfl
theorem scanOr (f : Args) : Statement (.scanOr f) := of_word rfl
theorem scanXor (f : Args) : Statement (.scanXor f) := of_word rfl
theorem compact (f : Args) : Statement (.compact f) := of_word rfl
theorem addFloat (f : Args) : Statement (.addFloat f) := of_word rfl
theorem subFloat (f : Args) : Statement (.subFloat f) := of_word rfl
theorem mulFloat (f : Args) : Statement (.mulFloat f) := of_word rfl
theorem minFloat (f : Args) : Statement (.minFloat f) := of_word rfl
theorem maxFloat (f : Args) : Statement (.maxFloat f) := of_word rfl
theorem minp (f : Args) : Statement (.minp f) := of_word rfl
theorem maxp (f : Args) : Statement (.maxp f) := of_word rfl
theorem absFloat (f : Args) : Statement (.absFloat f) := of_word rfl
theorem negFloat (f : Args) : Statement (.negFloat f) := of_word rfl
theorem sgn (f : Args) : Statement (.sgn f) := of_word rfl
theorem rint (f : Args) : Statement (.rint f) := of_word rfl
theorem fma (f : Args) : Statement (.fma f) := of_word rfl
theorem fms (f : Args) : Statement (.fms f) := of_word rfl
theorem fnma (f : Args) : Statement (.fnma f) := of_word rfl
theorem fnms (f : Args) : Statement (.fnms f) := of_word rfl
theorem cmpEqFloat (f : Args) : Statement (.cmpEqFloat f) := of_word rfl
theorem cmpNeFloat (f : Args) : Statement (.cmpNeFloat f) := of_word rfl
theorem cmpLtFloat (f : Args) : Statement (.cmpLtFloat f) := of_word rfl
theorem cmpLeFloat (f : Args) : Statement (.cmpLeFloat f) := of_word rfl
theorem cmpGtFloat (f : Args) : Statement (.cmpGtFloat f) := of_word rfl
theorem cmpGeFloat (f : Args) : Statement (.cmpGeFloat f) := of_word rfl
theorem cmpUn (f : Args) : Statement (.cmpUn f) := of_word rfl
theorem cmpOrd (f : Args) : Statement (.cmpOrd f) := of_word rfl
theorem fclass (f : Args) : Statement (.fclass f) := of_word rfl
theorem ftest (f : Args) : Statement (.ftest f) := of_word rfl
theorem dot (f : Args) : Statement (.dot f) := of_word rfl
theorem dota (f : Args) : Statement (.dota f) := of_word rfl
theorem exp2 (f : Args) : Statement (.exp2 f) := of_word rfl
theorem log2 (f : Args) : Statement (.log2 f) := of_word rfl
theorem rcp (f : Args) : Statement (.rcp f) := of_word rfl
theorem rsqrt (f : Args) : Statement (.rsqrt f) := of_word rfl
theorem sinpi (f : Args) : Statement (.sinpi f) := of_word rfl
theorem cospi (f : Args) : Statement (.cospi f) := of_word rfl
theorem tanh (f : Args) : Statement (.tanh f) := of_word rfl
theorem divFloat (f : Args) : Statement (.divFloat f) := of_word rfl
theorem sqrt (f : Args) : Statement (.sqrt f) := of_word rfl
theorem cvt (src : BitVec 5) (f : Args) : Statement (.cvt src f) := of_word rfl
theorem cvtx (f : Args) : Statement (.cvtx f) := of_word rfl
theorem esel (f : Args) : Statement (.esel f) := of_word rfl
theorem zipLo (f : Args) : Statement (.zipLo f) := of_word rfl
theorem zipHi (f : Args) : Statement (.zipHi f) := of_word rfl
theorem unzipEv (f : Args) : Statement (.unzipEv f) := of_word rfl
theorem unzipOd (f : Args) : Statement (.unzipOd f) := of_word rfl
theorem pk6 (f : Args) : Statement (.pk6 f) := of_word rfl
theorem upk6 (f : Args) : Statement (.upk6 f) := of_word rfl
theorem rngLo (f : Args) : Statement (.rngLo f) := of_word rfl
theorem rngHi (f : Args) : Statement (.rngHi f) := of_word rfl
theorem rngu (f : Args) : Statement (.rngu f) := of_word rfl
theorem rnguOc (f : Args) : Statement (.rnguOc f) := of_word rfl
theorem rngkLo (f : Args) : Statement (.rngkLo f) := of_word rfl
theorem rngkHi (f : Args) : Statement (.rngkHi f) := of_word rfl
theorem rngku (f : Args) : Statement (.rngku f) := of_word rfl
theorem rngkuOc (f : Args) : Statement (.rngkuOc f) := of_word rfl
theorem rcpa (f : Args) : Statement (.rcpa f) := of_word rfl
theorem ld (f : Args) : Statement (.ld f) := of_word rfl
theorem st (f : Args) : Statement (.st f) := of_word rfl
theorem gath (f : Args) : Statement (.gath f) := of_word rfl
theorem scat (f : Args) : Statement (.scat f) := of_word rfl
theorem pref (f : Args) : Statement (.pref f) := of_word rfl
theorem phase (sc : BitVec 3) (f : Args) : Statement (.phase sc f) := of_word rfl
theorem phaseK (sc : BitVec 3) (f : Args) : Statement (.phaseK sc f) := of_word rfl
theorem fence (sc : BitVec 3) (f : Args) : Statement (.fence sc f) := of_word rfl
theorem discard (f : Args) : Statement (.discard f) := of_word rfl
theorem spill (f : Args) : Statement (.spill f) := of_word rfl
theorem fill (f : Args) : Statement (.fill f) := of_word rfl
theorem atomAddRet (f : Args) : Statement (.atomAddRet f) := of_word rfl
theorem atomMinRet (f : Args) : Statement (.atomMinRet f) := of_word rfl
theorem atomMaxRet (f : Args) : Statement (.atomMaxRet f) := of_word rfl
theorem atomAndRet (f : Args) : Statement (.atomAndRet f) := of_word rfl
theorem atomOrRet (f : Args) : Statement (.atomOrRet f) := of_word rfl
theorem atomXorRet (f : Args) : Statement (.atomXorRet f) := of_word rfl
theorem atomXchg (f : Args) : Statement (.atomXchg f) := of_word rfl
theorem atomAdd (f : Args) : Statement (.atomAdd f) := of_word rfl
theorem atomMin (f : Args) : Statement (.atomMin f) := of_word rfl
theorem atomMax (f : Args) : Statement (.atomMax f) := of_word rfl
theorem atomAnd (f : Args) : Statement (.atomAnd f) := of_word rfl
theorem atomOr (f : Args) : Statement (.atomOr f) := of_word rfl
theorem atomXor (f : Args) : Statement (.atomXor f) := of_word rfl
theorem atomCas (f : Args) : Statement (.atomCas f) := of_word rfl
theorem atomwinc (f : Args) : Statement (.atomwinc f) := of_word rfl
theorem waitv (f : Args) : Statement (.waitv f) := of_word rfl
theorem watch (f : Args) : Statement (.watch f) := of_word rfl
theorem waitvW (f : Args) : Statement (.waitvW f) := of_word rfl
theorem shape (f : Args) : Statement (.shape f) := of_word rfl
theorem trec (f : Args) : Statement (.trec f) := of_word rfl
theorem cpy (f : Args) : Statement (.cpy f) := of_word rfl
theorem cpym (f : Args) : Statement (.cpym f) := of_word rfl
theorem coll (f : Args) : Statement (.coll f) := of_word rfl
theorem nwr (f : Args) : Statement (.nwr f) := of_word rfl
theorem nrd (f : Args) : Statement (.nrd f) := of_word rfl
theorem mfs (f : Args) : Statement (.mfs f) := of_word rfl
theorem trap (f : Args) : Statement (.trap f) := of_word rfl
theorem tret (f : Args) : Statement (.tret f) := of_word rfl
theorem mts (f : Args) : Statement (.mts f) := of_word rfl
theorem sluice (f : Args) : Statement (.sluice f) := of_word rfl
theorem xlinvVa (f : Args) : Statement (.xlinvVa f) := of_word rfl
theorem xlinvAsid (f : Args) : Statement (.xlinvAsid f) := of_word rfl
theorem xlinvAll (f : Args) : Statement (.xlinvAll f) := of_word rfl
theorem xlsync (f : Args) : Statement (.xlsync f) := of_word rfl
theorem tcfg (f : Args) : Statement (.tcfg f) := of_word rfl
theorem team (f : Args) : Statement (.team f) := of_word rfl
theorem bclr (f : Args) : Statement (.bclr f) := of_word rfl
theorem mma (f : Args) : Statement (.mma f) := of_word rfl
theorem mmat (f : Args) : Statement (.mmat f) := of_word rfl
theorem dmma (f : Args) : Statement (.dmma f) := of_word rfl
theorem dmmaStreamed (f : Args) : Statement (.dmmaStreamed f) := of_word rfl
theorem bget (f : Args) : Statement (.bget f) := of_word rfl
theorem bset (f : Args) : Statement (.bset f) := of_word rfl
theorem tget (f : Args) : Statement (.tget f) := of_word rfl
theorem tset (f : Args) : Statement (.tset f) := of_word rfl
theorem drain (f : Args) : Statement (.drain f) := of_word rfl
theorem prjsum (f : Args) : Statement (.prjsum f) := of_word rfl
theorem prjadj (f : Args) : Statement (.prjadj f) := of_word rfl
theorem mma16 (f : Args) : Statement (.mma16 f) := of_word rfl
theorem ttrans (f : Args) : Statement (.ttrans f) := of_word rfl
theorem pNop (h : Bool) (g : BitVec 3) : Statement (.pNop h g) := fun _ _ => frame_nop g
theorem pMovN32 (p : PArgs) : Statement (.pMovN32 p) := fun _ _ => frame_half _ p rfl
theorem pMovN64 (p : PArgs) : Statement (.pMovN64 p) := fun _ _ => frame_half _ p rfl
theorem pAddI32 (p : PArgs) : Statement (.pAddI32 p) := fun _ _ => frame_half _ p rfl
theorem pAddI64 (p : PArgs) : Statement (.pAddI64 p) := fun _ _ => frame_half _ p rfl
theorem pSubI32 (p : PArgs) : Statement (.pSubI32 p) := fun _ _ => frame_half _ p rfl
theorem pSubI64 (p : PArgs) : Statement (.pSubI64 p) := fun _ _ => frame_half _ p rfl
theorem pMulI32 (p : PArgs) : Statement (.pMulI32 p) := fun _ _ => frame_half _ p rfl
theorem pAndN64 (p : PArgs) : Statement (.pAndN64 p) := fun _ _ => frame_half _ p rfl
theorem pOrN64 (p : PArgs) : Statement (.pOrN64 p) := fun _ _ => frame_half _ p rfl
theorem pXorN64 (p : PArgs) : Statement (.pXorN64 p) := fun _ _ => frame_half _ p rfl
theorem pAddI32Imm (p : PImm) : Statement (.pAddI32Imm p) := fun _ _ => frame_imm _ p rfl
theorem pShlN32Imm (p : PImm) : Statement (.pShlN32Imm p) := fun _ _ => frame_imm _ p rfl
theorem pShrN32Imm (p : PImm) : Statement (.pShrN32Imm p) := fun _ _ => frame_imm _ p rfl
theorem pSarI32Imm (p : PImm) : Statement (.pSarI32Imm p) := fun _ _ => frame_imm _ p rfl
theorem pAddF32 (p : PArgs) : Statement (.pAddF32 p) := fun _ _ => frame_half _ p rfl
theorem pSubF32 (p : PArgs) : Statement (.pSubF32 p) := fun _ _ => frame_half _ p rfl
theorem pMulF32 (p : PArgs) : Statement (.pMulF32 p) := fun _ _ => frame_half _ p rfl
theorem pMaxF32 (p : PArgs) : Statement (.pMaxF32 p) := fun _ _ => frame_half _ p rfl
theorem pMinF32 (p : PArgs) : Statement (.pMinF32 p) := fun _ _ => frame_half _ p rfl
theorem pMovN8 (p : PArgs) : Statement (.pMovN8 p) := fun _ _ => frame_half _ p rfl
theorem pMovN16 (p : PArgs) : Statement (.pMovN16 p) := fun _ _ => frame_half _ p rfl
theorem pAddI16 (p : PArgs) : Statement (.pAddI16 p) := fun _ _ => frame_half _ p rfl
theorem pAddF64 (p : PArgs) : Statement (.pAddF64 p) := fun w h => absurd w (by simp [Instr.wellFormed, Instr.halfOk, h])
theorem pMulF64 (p : PArgs) : Statement (.pMulF64 p) := fun w h => absurd w (by simp [Instr.wellFormed, Instr.halfOk, h])
theorem pAddBf16 (p : PArgs) : Statement (.pAddBf16 p) := fun w h => absurd w (by simp [Instr.wellFormed, Instr.halfOk, h])
theorem pMulBf16 (p : PArgs) : Statement (.pMulBf16 p) := fun w h => absurd w (by simp [Instr.wellFormed, Instr.halfOk, h])
theorem pAddF16 (p : PArgs) : Statement (.pAddF16 p) := fun w h => absurd w (by simp [Instr.wellFormed, Instr.halfOk, h])
theorem pMulF16 (p : PArgs) : Statement (.pMulF16 p) := fun w h => absurd w (by simp [Instr.wellFormed, Instr.halfOk, h])
theorem pMovI32Imm (p : PImm) : Statement (.pMovI32Imm p) := fun w h => absurd w (by simp [Instr.wellFormed, Instr.halfOk, h])
theorem powerOn : Statement .powerOn := fun _ => trivial
theorem dieReset : Statement .dieReset := fun _ => trivial
theorem portLinkTrain : Statement .portLinkTrain := fun _ => trivial
theorem unsupportedFlowRefuse : Statement .unsupportedFlowRefuse := fun _ => trivial
theorem slotset : Statement .slotset := fun _ => trivial
theorem jobnew : Statement .jobnew := fun _ => trivial
theorem jobdel : Statement .jobdel := fun _ => trivial
theorem load : Statement .load := fun _ => trivial
theorem launch : Statement .launch := fun _ => trivial
theorem cancelCommand : Statement .cancelCommand := fun _ => trivial
theorem preempt : Statement .preempt := fun _ => trivial
theorem winopen : Statement .winopen := fun _ => trivial
theorem winclose : Statement .winclose := fun _ => trivial
theorem trapreply : Statement .trapreply := fun _ => trivial
theorem query : Statement .query := fun _ => trivial
theorem quote : Statement .quote := fun _ => trivial
theorem season : Statement .season := fun _ => trivial
theorem updsvc : Statement .updsvc := fun _ => trivial
theorem updsvcOldTimeout : Statement .updsvcOldTimeout := fun _ => trivial
theorem updkern : Statement .updkern := fun _ => trivial
theorem kernelSwap : Statement .kernelSwap := fun _ => trivial
theorem retire : Statement .retire := fun _ => trivial
theorem thresh : Statement .thresh := fun _ => trivial
theorem clockcfg : Statement .clockcfg := fun _ => trivial
theorem provision : Statement .provision := fun _ => trivial
theorem zdrain : Statement .zdrain := fun _ => trivial
theorem zfill : Statement .zfill := fun _ => trivial
theorem recal : Statement .recal := fun _ => trivial
theorem recalSuspendEnd : Statement .recalSuspendEnd := fun _ => trivial
theorem hostWindowWrite : Statement .hostWindowWrite := fun _ => trivial
theorem hostWindowRead : Statement .hostWindowRead := fun _ => trivial
theorem ptpSyncReceive : Statement .ptpSyncReceive := fun _ => trivial
theorem clockFreeTimeout : Statement .clockFreeTimeout := fun _ => trivial
theorem clockHoldover : Statement .clockHoldover := fun _ => trivial
theorem clockReacquire : Statement .clockReacquire := fun _ => trivial
theorem headDispatch : Statement .headDispatch := fun _ => trivial
theorem dieDispatchPlace : Statement .dieDispatchPlace := fun _ => trivial
theorem furrowSwap : Statement .furrowSwap := fun _ => trivial
theorem graphRebalance : Statement .graphRebalance := fun _ => trivial
theorem stageInstanceStart : Statement .stageInstanceStart := fun _ => trivial
theorem launchEnd : Statement .launchEnd := fun _ => trivial
theorem preemptionSave : Statement .preemptionSave := fun _ => trivial
theorem plotRestore : Statement .plotRestore := fun _ => trivial
theorem plotMoveDie : Statement .plotMoveDie := fun _ => trivial
theorem regionRestart : Statement .regionRestart := fun _ => trivial
theorem plotRollback : Statement .plotRollback := fun _ => trivial
theorem plotRelaunch : Statement .plotRelaunch := fun _ => trivial
theorem cruiseThirdRun : Statement .cruiseThirdRun := fun _ => trivial
theorem loadReturn : Statement .loadReturn := fun _ => trivial
theorem atomicReply : Statement .atomicReply := fun _ => trivial
theorem yieldWReactivate : Statement .yieldWReactivate := fun _ => trivial
theorem waitvSatisfied : Statement .waitvSatisfied := fun _ => trivial
theorem watchFire : Statement .watchFire := fun _ => trivial
theorem waittReady : Statement .waittReady := fun _ => trivial
theorem barTimeout : Statement .barTimeout := fun _ => trivial
theorem calleeGrant : Statement .calleeGrant := fun _ => trivial
theorem continuationGrant : Statement .continuationGrant := fun _ => trivial
theorem spawnedFurrowGrant : Statement .spawnedFurrowGrant := fun _ => trivial
theorem translationWalk : Statement .translationWalk := fun _ => trivial
theorem walkRetry : Statement .walkRetry := fun _ => trivial
theorem trapRecordWrite : Statement .trapRecordWrite := fun _ => trivial
theorem trapreplyTimeout : Statement .trapreplyTimeout := fun _ => trivial
theorem engineJobStart : Statement .engineJobStart := fun _ => trivial
theorem engineStampWrite : Statement .engineStampWrite := fun _ => trivial
theorem copyComplete : Statement .copyComplete := fun _ => trivial
theorem relayHop : Statement .relayHop := fun _ => trivial
theorem copyApertureIndexStore : Statement .copyApertureIndexStore := fun _ => trivial
theorem copyApertureStartStore : Statement .copyApertureStartStore := fun _ => trivial
theorem collComplete : Statement .collComplete := fun _ => trivial
theorem nwrTargetWrite : Statement .nwrTargetWrite := fun _ => trivial
theorem nwrAck : Statement .nwrAck := fun _ => trivial
theorem nrdComplete : Statement .nrdComplete := fun _ => trivial
theorem transportRetransmit : Statement .transportRetransmit := fun _ => trivial
theorem transportAbandon : Statement .transportAbandon := fun _ => trivial
theorem sequencerStep : Statement .sequencerStep := fun _ => trivial
theorem sequencerStepDone : Statement .sequencerStepDone := fun _ => trivial
theorem sluiceSettle : Statement .sluiceSettle := fun _ => trivial
theorem zoneSample : Statement .zoneSample := fun _ => trivial
theorem sensorResponseStep : Statement .sensorResponseStep := fun _ => trivial
theorem drainDownStep : Statement .drainDownStep := fun _ => trivial
theorem powerSample : Statement .powerSample := fun _ => trivial
theorem kmap : Statement .kmap := of_word rfl
theorem kunmap : Statement .kunmap := of_word rfl
theorem kmove : Statement .kmove := of_word rfl
theorem kend : Statement .kend := of_word rfl
theorem kevent : Statement .kevent := of_word rfl
theorem kretire : Statement .kretire := of_word rfl
theorem ret : Statement .ret := of_word rfl
theorem exit : Statement .exit := of_word rfl
theorem endAll : Statement .endAll := of_word rfl
theorem yield : Statement .yield := of_word rfl
theorem region : Statement .region := of_word rfl
theorem flushred : Statement .flushred := of_word rfl
theorem nop : Statement .nop := of_word rfl
theorem hreuse : Statement .hreuse := of_word rfl
theorem hlikely : Statement .hlikely := of_word rfl
theorem powerOff : Statement .powerOff := fun _ => trivial
theorem fusedMinimumRaise : Statement .fusedMinimumRaise := fun _ => trivial
theorem reservedOpcode : Statement .reservedOpcode := fun _ => trivial

end Sys2Proof.Laws.Encoding
end

