-- ==== Sys2Proof/Laws/Regs.lean ====
section
/-! SUPPORT. Laws of the registers of the issuing furrow: reading after writing, and what each shared operation that
writes a result, a mask or an x-register can do. -/

namespace Sys2Proof.Machine

/-! ### Lists with a default -/

@[simp] theorem getD_putAt {α : Type} (d : α) (l : List α) (i j : Nat) (v : α) :
    (putAt d l i v).getD j d = if j = i then v else l.getD j d := by
  induction l generalizing i j with
  | nil =>
    induction i generalizing j with
    | zero => cases j <;> simp [putAt]
    | succ n ih => cases j with
      | zero => simp [putAt]
      | succ j => simpa [putAt] using ih j
  | cons x rest ih =>
    cases i with
    | zero => cases j <;> simp [putAt]
    | succ n => cases j with
      | zero => simp [putAt]
      | succ j => simpa [putAt] using ih n j

@[simp] theorem getD_padTo {α : Type} (d : α) (n : Nat) (l : List α) (j : Nat) : (padTo d n l).getD j d = l.getD j d := by
  simp only [padTo, List.getD_eq_getElem?_getD, List.getElem?_append]
  split
  · rfl
  · next h =>
    rw [List.getElem?_eq_none (Nat.le_of_not_lt h)]
    by_cases hj : j - l.length < n - l.length <;> simp [hj]

theorem length_padTo {α : Type} (d : α) (n : Nat) (l : List α) : n ≤ (padTo d n l).length := by
  simp [padTo]; omega

theorem getElem?_mapIdxFrom {α β : Type} (g : Nat → α → β) (k : Nat) (l : List α) (j : Nat) :
    (mapIdxFrom g k l)[j]? = l[j]?.map (g (k + j)) := by
  induction l generalizing k j with
  | nil => simp [mapIdxFrom]
  | cons x rest ih =>
    cases j with
    | zero => simp [mapIdxFrom]
    | succ j => simp [mapIdxFrom, ih, Nat.add_assoc, Nat.add_comm 1]

theorem getD_mapIdxFrom {α β : Type} (g : Nat → α → β) (l : List α) (j : Nat) (d : α) (e : β) (h : j < l.length) :
    (mapIdxFrom g 0 l).getD j e = g j (l.getD j d) := by
  simp [List.getD_eq_getElem?_getD, getElem?_mapIdxFrom, h]

/-! ### Slices -/

theorem testBit_read (l : Lane) (st n j : Nat) : (l.read st n).testBit j = (decide (j < n) && l.data.getLsbD (4 * st + j)) := by
  simp [Lane.read, Nat.testBit_mod_two_pow, Nat.testBit_div_two_pow, BitVec.testBit_toNat, Nat.add_comm]

theorem codeBits_mod4 (c : BitVec 3) : codeBits c % 4 = 0 := by
  have : c.toNat < 8 := c.isLt
  unfold codeBits
  split <;> rfl

/-- One slice of a lane after a write of `bits` bits at slice `st`. -/
theorem read_write (l : Lane) (st bits : Nat) (x : Src) (k : Nat) (hk : k < 1024) (hb : bits % 4 = 0) :
    (l.write st bits x).read k 4 = if st ≤ k ∧ k < st + bits / 4 then x.v / 16 ^ (k - st) % 16 else l.read k 4 := by
  apply Nat.eq_of_testBit_eq
  intro j
  have h16 : x.v / 16 ^ (k - st) % 16 = x.v / 2 ^ (4 * (k - st)) % 2 ^ 4 := by rw [Nat.pow_mul]; norm_num
  rw [testBit_read]
  by_cases hj : j < 4
  · have hp : 4 * k + j < 4096 := by omega
    simp only [Lane.write, BitVec.getLsbD_or, BitVec.getLsbD_and, BitVec.getLsbD_not, BitVec.getLsbD_ofNat, hp, decide_true,
      Bool.true_and, Nat.testBit_mul_two_pow, Nat.testBit_two_pow_sub_one, Nat.testBit_mod_two_pow]
    by_cases hr : st ≤ k ∧ k < st + bits / 4
    · rw [if_pos hr, h16, Nat.testBit_mod_two_pow, Nat.testBit_div_two_pow]
      have e : 4 * k + j - 4 * st = 4 * (k - st) + j := by omega
      have c1 : 4 * st ≤ 4 * k + j := by omega
      have c2 : 4 * (k - st) + j < bits := by omega
      rw [e]
      simp [c1, c2, hj, Nat.add_comm j]
    · rw [if_neg hr, testBit_read]
      by_cases c1 : 4 * st ≤ 4 * k + j
      · have c2 : ¬ 4 * k + j - 4 * st < bits := by omega
        simp [c1, c2, hj]
      · simp [c1, hj]
  · have hl : (if st ≤ k ∧ k < st + bits / 4 then x.v / 16 ^ (k - st) % 16 else l.read k 4) < 2 ^ j := by
      have : 2 ^ 4 ≤ 2 ^ j := Nat.pow_le_pow_right (by omega) (by omega)
      split
      · have := Nat.mod_lt (x.v / 16 ^ (k - st)) (show 16 > 0 by omega); omega
      · have : l.read k 4 < 2 ^ 4 := Nat.mod_lt _ (by decide)
        omega
    rw [Nat.testBit_lt_two_pow hl]
    simp [hj]

theorem poisoned_eq (l : Lane) (k : Nat) : l.poisoned k 4 = l.poison.getLsbD k := by
  simp only [Lane.poisoned, show (4 + 3) / 4 = 1 from rfl, pow_one, BitVec.getLsbD, Nat.testBit_eq_decide_div_mod_eq]
  rcases Nat.mod_two_eq_zero_or_one (l.poison.toNat / 2 ^ k) with h | h <;> simp [h]

/-- One poison bit of a lane after a write. -/
theorem poisoned_write (l : Lane) (st bits : Nat) (x : Src) (k : Nat) (hk : k < 1024) (hb : bits % 4 = 0) :
    (l.write st bits x).poisoned k 4 = if st ≤ k ∧ k < st + bits / 4 then x.p else l.poisoned k 4 := by
  have e : (bits + 3) / 4 = bits / 4 := by omega
  rw [poisoned_eq, poisoned_eq]
  simp only [Lane.write, e]
  have hm : (BitVec.ofNat 1024 ((2 ^ (bits / 4) - 1) * 2 ^ st)).getLsbD k = (decide (st ≤ k) && decide (k - st < bits / 4)) := by
    simp only [BitVec.getLsbD_ofNat, hk, decide_true, Bool.true_and, Nat.testBit_mul_two_pow, Nat.testBit_two_pow_sub_one]
  have hr : (decide (st ≤ k) && decide (k - st < bits / 4)) = decide (st ≤ k ∧ k < st + bits / 4) := by
    rw [Bool.eq_iff_iff]; simp; omega
  rw [hr] at hm
  cases hx : x.p
  · simp only [Bool.false_eq_true, if_false, BitVec.getLsbD_and, BitVec.getLsbD_not, hk, decide_true, Bool.true_and, hm]
    by_cases h : st ≤ k ∧ k < st + bits / 4 <;> simp [h]
  · simp only [if_true, BitVec.getLsbD_or, hm]
    by_cases h : st ≤ k ∧ k < st + bits / 4 <;> simp [h]

/-- The lanes after a write of slices. -/
theorem setSlices_lane (f : Furrow) (st bits : Nat) (act : Mask) (v : Nat → Src) (i : Nat) (hi : i < 32) :
    (f.setSlices st bits act v).lanes.getD i {} =
      if act.getLsbD i then (f.lanes.getD i {}).write st bits (v i) else f.lanes.getD i {} := by
  have h := length_padTo ({} : Lane) 32 f.lanes
  rw [Furrow.setSlices]
  simp only
  rw [getD_mapIdxFrom _ _ _ {} _ (by omega), getD_padTo]

/-! ### What a written result does -/

section
variable (s : State)

theorem slice_of_lanes {s t : State} {i k : Nat} (h : t.fur.lanes.getD i {} = s.fur.lanes.getD i {}) : t.slice i k = s.slice i k := by
  simp only [State.slice, State.lane, h]

theorem mask_of_eq {s t : State} {j : Nat} (hm : t.fur.masks = s.fur.masks) (hj : 1 ≤ j) : t.mask j = s.mask j := by
  simp [State.mask, hm, show j ≠ 0 by omega]

theorem splits_movePc (l : List Split) (c k : Nat) (pc : Word) :
    (movePc l c pc).getD k {} = if k = c then { l.getD c {} with pc := pc } else l.getD k {} := by
  simp only [movePc, getD_putAt]

/-- Registers of the issuing furrow replaced, and the split moved to `pc`. -/
theorem regEffect_of (ls : List Lane) (ms : List Mask) (xs : List Word) (xp : BitVec 64) (lt : List LatchEntry) (pc : Word)
    {sl : Nat → Nat → Src} {x : Nat → Src} {m : Nat → Mask}
    (hs : ∀ i k, i < 32 → k < 1024 → (⟨(ls.getD i {}).read k 4, (ls.getD i {}).poisoned k 4⟩ : Src) = sl i k)
    (hx : ∀ j, j < 64 → (⟨(xs.getD j 0).toNat, xp.getLsbD j⟩ : Src) = x j)
    (hm : ∀ j, 1 ≤ j → ms.getD (j - 1) 0 = m j) :
    RegEffect s (((s.setFur { s.fur with lanes := ls, masks := ms, xregs := xs, xpoison := xp, latches := lt }).setPc pc).count) sl x m lt pc where
  others := rfl
  furrow := rfl
  slices := hs
  xregs := hx
  masks j hj := by
    rw [← hm j hj, State.mask, if_neg (show j ≠ 0 by omega)]; rfl
  latches := rfl
  splits _ := splits_movePc _ _ _ _
  count := rfl

theorem mask_eq (s : State) {j : Nat} (hj : 1 ≤ j) : s.fur.masks.getD (j - 1) 0 = s.mask j := by
  rw [State.mask, if_neg (show j ≠ 0 by omega)]

/-- No register changes: the split goes on. -/
theorem goesOn_advance : GoesOn s s.advance :=
  regEffect_of s s.fur.lanes s.fur.masks s.fur.xregs s.fur.xpoison s.fur.latches s.fur.npc
    (fun _ _ _ _ => rfl) (fun _ _ => rfl) (fun _ hj => mask_eq s hj)

/-- A taken branch. -/
theorem goesTo_jump (pc : Word) : GoesTo s pc (s.jump pc) :=
  regEffect_of s s.fur.lanes s.fur.masks s.fur.xregs s.fur.xpoison [] pc
    (fun _ _ _ _ => rfl) (fun _ _ => rfl) (fun _ hj => mask_eq s hj)

theorem xsrc_setX (f : Furrow) (n : Nat) (v : Src) (j : Nat) (hj : j < 64) :
    (⟨((f.setX n v).xregs.getD j 0).toNat, (f.setX n v).xpoison.getLsbD j⟩ : Src) =
      if j = n then ⟨v.v % 2 ^ 64, v.p⟩ else ⟨(f.xregs.getD j 0).toNat, f.xpoison.getLsbD j⟩ := by
  have hv : ((f.setX n v).xregs.getD j 0) = if j = n then BitVec.ofNat 64 v.v else f.xregs.getD j 0 := getD_putAt 0 f.xregs n j _
  have hb : (BitVec.ofNat 64 (2 ^ n)).getLsbD j = decide (j = n) := by
    simp only [BitVec.getLsbD_ofNat, hj, decide_true, Bool.true_and, Nat.testBit_two_pow]
    exact decide_eq_decide.2 eq_comm
  have hp : (f.setX n v).xpoison.getLsbD j = if j = n then v.p else f.xpoison.getLsbD j := by
    simp only [Furrow.setX]
    cases v.p
    · simp only [Bool.false_eq_true, if_false, BitVec.getLsbD_and, BitVec.getLsbD_not, hj, decide_true, Bool.true_and, hb]
      by_cases h : j = n <;> simp [h]
    · simp only [if_true, BitVec.getLsbD_or, hb]
      by_cases h : j = n <;> simp [h]
  rw [hv, hp]
  by_cases h : j = n
  · simp only [h, if_true, BitVec.toNat_ofNat]
  · simp only [h, if_false]

/-- An x-register written, whatever the lanes. -/
theorem writesX_setX (n : Nat) (v : Src) : WritesX s n v (s.setX n v).advance :=
  regEffect_of s s.fur.lanes s.fur.masks (s.fur.setX n v).xregs (s.fur.setX n v).xpoison s.fur.latches s.fur.npc
    (fun _ _ _ _ => rfl) (fun j hj => xsrc_setX s.fur n v j hj) (fun _ hj => mask_eq s hj)

/-- A mask register written in some lanes. -/
theorem writesMask_setMask (k : Nat) (hk : 1 ≤ k) (act bits : Mask) : WritesMask s k act bits (s.setMask k act bits).advance := by
  refine regEffect_of s s.fur.lanes (s.setMask k act bits).fur.masks s.fur.xregs s.fur.xpoison s.fur.latches s.fur.npc
    (fun _ _ _ _ => rfl) (fun _ _ => rfl) fun j hj => ?_
  have e : (s.setMask k act bits).fur.masks.getD (j - 1) 0 =
      if j - 1 = k - 1 then (s.fur.masks.getD (k - 1) 0 &&& ~~~act) ||| (bits &&& act) else s.fur.masks.getD (j - 1) 0 :=
    getD_putAt 0 _ _ _ _
  rw [e, newMask, mask_eq s hj]
  by_cases h : j = k
  · subst h; rw [if_pos rfl, if_pos rfl, mask_eq s hj]
  · rw [if_neg h, if_neg (show ¬ j - 1 = k - 1 by omega)]

/-- Slices written in the lanes of `act`. -/
theorem slices_setSlices (st : BitVec 10) (c : BitVec 3) (act : Mask) (v : Nat → Src) (i k : Nat) (hi : i < 32) (hk : k < 1024) :
    (⟨((s.fur.setSlices st.toNat (codeBits c) act v).lanes.getD i {}).read k 4,
      ((s.fur.setSlices st.toNat (codeBits c) act v).lanes.getD i {}).poisoned k 4⟩ : Src) = newSlice s (.slice st c) act v i k := by
  rw [setSlices_lane _ _ _ _ _ _ hi]
  simp only [newSlice]
  cases ha : act.getLsbD i
  · simp [State.slice, State.lane]
  · simp only [if_true, read_write _ _ _ _ _ hk (codeBits_mod4 c), poisoned_write _ _ _ _ _ hk (codeBits_mod4 c)]
    by_cases hr : st.toNat ≤ k ∧ k < st.toNat + codeBits c / 4 <;> simp [hr, State.slice, State.lane]

theorem newX_of_not_x {dst : Operand} (h : ∀ n sz el, dst ≠ .xreg n sz el) (act : Mask) (v : Nat → Src) (j : Nat) :
    newX s dst act v j = s.xsrc j := by
  unfold newX
  split
  · exact absurd rfl (h _ _ _)
  · rfl

/-- A result written to a destination of any form. -/
theorem writes_result (dst : Operand) (sx : Bool) (w : Nat) (act : Mask) (r : Nat → Src) :
    Writes s dst act (fun i => wide64 sx w (r i)) (s.result dst sx w act r).advance := by
  cases dst with
  | slice st c =>
    exact regEffect_of s (s.fur.setSlices st.toNat (codeBits c) act fun i => wide64 sx w (r i)).lanes s.fur.masks s.fur.xregs
      s.fur.xpoison _ s.fur.npc (slices_setSlices s st c act _)
      (fun j _ => (newX_of_not_x s (by simp) _ _ j).symm) (fun _ hj => mask_eq s hj)
  | xreg n sz el =>
    cases hl : lowest act with
    | none =>
      have e : s.result (.xreg n sz el) sx w act r = s := by simp only [State.result, Furrow.result, hl]; rfl
      rw [e]
      have g := goesOn_advance s
      exact ⟨g.others, g.furrow, g.slices, fun j hj => by simp only [newX, hl]; exact g.xregs j hj, g.masks, g.latches, g.splits, g.count⟩
    | some i =>
      have e : s.result (.xreg n sz el) sx w act r = s.setX n.toNat (wide64 sx w (r i)) := by
        simp only [State.result, Furrow.result, hl, State.setX]
      rw [e]
      have g := writesX_setX s n.toNat (wide64 sx w (r i))
      exact ⟨g.others, g.furrow, g.slices, fun j hj => by simp only [newX, hl]; exact g.xregs j hj, g.masks, g.latches, g.splits, g.count⟩
  | latchOnly =>
    exact regEffect_of s s.fur.lanes s.fur.masks s.fur.xregs s.fur.xpoison _ s.fur.npc (fun _ _ _ _ => rfl)
      (fun j _ => (newX_of_not_x s (by simp) _ _ j).symm) (fun _ hj => mask_eq s hj)
  | _ =>
    exact regEffect_of s s.fur.lanes s.fur.masks s.fur.xregs s.fur.xpoison s.fur.latches s.fur.npc (fun _ _ _ _ => rfl)
      (fun j _ => (newX_of_not_x s (by simp) _ _ j).symm) (fun _ hj => mask_eq s hj)

end

/-! ### Checks -/

/-- Operands that can be read stop nothing. -/
theorem namesStop_of_readable {s : State} {l : List Operand} (h : Readable s l) : s.namesStop l = none := by
  have h1 : (l.any fun o => !o.inBudget s.fur.budget) = false := by simpa [List.any_eq_false] using fun o ho => (h o ho).1
  have h2 : (l.any fun o => !o.inWindow s.fur.latches.length) = false := by simpa [List.any_eq_false] using fun o ho => (h o ho).2
  simp [State.namesStop, h1, h2, stopIf]

theorem guarded_none (s body : State) : guarded none s body = .next body := rfl

end Sys2Proof.Machine
end

