-- ==== Sys2Proof/Tests/Slice0.lean ====
section
/-! SUPPORT. Tests: words written from the spec's encoding tables and what they decode to, terms that `wellFormed` refuses, a
witness for the hypotheses of every statement, and first steps after reset. -/

namespace Sys2Proof.Tests

open Sys2Proof Sys2Proof.Machine

set_option Elab.async false

/-! ### Words, from the layouts of R116 and R121 -/

/-- An S word: [63:62] = 01, opcode [61:52], guard [51:48], fmt [47:43], mod [42], A [41:28], B [27:14], C [13:0]. -/
def sWord (op guard fmt mod a b c : Nat) : Word :=
  BitVec.ofNat 64 (2 ^ 62 + op * 2 ^ 52 + guard * 2 ^ 48 + fmt * 2 ^ 43 + mod * 2 ^ 42 + a * 2 ^ 28 + b * 2 ^ 14 + c)
/-- Word 0 of a W frame: [63:62] = 10, opcode [61:50], A [49:36], G0 [35:32], F0 [27:23], F1 [22:18], RND and SCOPE at [7:5] and
[4:2]. -/
def wWord0 (op a guard fmt f1 rnd scope : Nat) : Word :=
  BitVec.ofNat 64 (2 ^ 63 + op * 2 ^ 50 + a * 2 ^ 36 + guard * 2 ^ 32 + fmt * 2 ^ 23 + f1 * 2 ^ 18 + rnd * 2 ^ 5 + scope * 2 ^ 2)
/-- Word 1 of a W frame: [63:62] = 11, XMOD [58:56], B [55:42], C [41:28], D [27:14], E [13:0]. -/
def wWord1 (xmod b c d e : Nat) : Word := BitVec.ofNat 64 (3 * 2 ^ 62 + xmod * 2 ^ 56 + b * 2 ^ 42 + c * 2 ^ 28 + d * 2 ^ 14 + e)

theorem test_decode_brall : ∀ p ∈ ([(0x1, .brall), (0x2, .brany), (0x3, .brnone), (0x4, .brd)] : List (Nat × (Args → Instr))),
    decodeFrame false (sWord p.1 3 0 0 0x3FFE 0x3802 0x0) 0 = .ok (p.2 { guard := 3, fmt := 0, a := .raw 0x3FFE, b := .mask 2 }) 8 := by decide

theorem test_decode_br : ∀ p ∈ ([(sWord 0x0 3 0 0 0x3FFE 0x0 0x0, 0, .br { guard := 3, fmt := 0, a := .raw 0x3FFE }, 8),
      (sWord 0x5 3 0 0 0x3FFE 0x2880 0x0, 0, .brdec { guard := 3, fmt := 0, a := .raw 0x3FFE, b := .xreg 4 0 0 }, 8),
      (sWord 0x20 3 0 0 0x3FFE 0x2880 0x0, 0, .call { guard := 3, fmt := 0, a := .raw 0x3FFE, b := .xreg 4 0 0 }, 8),
      (sWord 0x8 3 0 0 0x0 0x2880 0x0, 0, .jmp { guard := 3, fmt := 0, b := .xreg 4 0 0 }, 8),
      (sWord 0x3A0 3 0 0 0x0 0x2880 0x0, 0, .tret { guard := 3, fmt := 0, b := .xreg 4 0 0 }, 8),
      (sWord 0x9 3 0 0 0x0 0x107 0x0, 0, .jmpd { guard := 3, fmt := 0, b := .slice 32 7 }, 8),
      (sWord 0x21 3 0 0 0x3FFE 0x107 0x0, 0, .calli { guard := 3, fmt := 0, a := .raw 0x3FFE, b := .slice 32 7 }, 8),
      (wWord0 0x401 0x3FFE 3 0 0 0 0, (wWord1 0 0x107 0x0 0x3003 0x0), .calliBudget { wide := true, guard := 3, fmt := 0, a := .raw 0x3FFE, b := .slice 32 7, d := .imm 3 }, 16)] : List (Word × Word × Instr × Nat)),
    decodeFrame false p.1 p.2.1 = .ok p.2.2.1 p.2.2.2 := by decide

theorem test_decode_plain : ∀ p ∈ ([(0x22, .ret), (0x24, .exit), (0x25, .endAll), (0x40, .yield), (0x44, .region), (0x2B8, .flushred)] : List (Nat × Instr)),
    decodeFrame false (sWord p.1 0 0 0 0 0 0) 0 = .ok p.2 8 := by decide

theorem test_decode_addInt : ∀ p ∈ ([(0x80, .addInt), (0x81, .subInt), (0x82, .mulInt), (0x83, .mulh), (0x84, .minInt), (0x85, .maxInt), (0x88, .adds), (0x89, .subs), (0x8A, .muls), (0xA0, .and), (0xA1, .or), (0xA2, .xor), (0xA3, .andn), (0xA8, .shl), (0xA9, .shr), (0xAA, .sar), (0xAB, .rotl), (0xAC, .rotr), (0xC2, .ext), (0xF3, .divInt)] : List (Nat × (Args → Instr))),
    decodeFrame false (sWord p.1 3 26 0 0x85 0x5 0x45) 0 = .ok (p.2 { guard := 3, fmt := 26, a := .slice 16 5, b := .slice 0 5, c := .slice 8 5 }) 8 := by decide

theorem test_decode_absInt : ∀ p ∈ ([(0x86, .absInt), (0x87, .negInt), (0xA4, .not), (0xB0, .popc), (0xB1, .clz), (0xB2, .ctz)] : List (Nat × (Args → Instr))),
    decodeFrame false (sWord p.1 3 26 0 0x85 0x5 0x0) 0 = .ok (p.2 { guard := 3, fmt := 26, a := .slice 16 5, b := .slice 0 5 }) 8 := by decide

theorem test_decode_spawn : ∀ p ∈ ([(sWord 0x23 3 0 0 0x3FFE 0x0 0x3003, 0, .spawn { guard := 3, fmt := 0, a := .raw 0x3FFE, c := .imm 3 }, 8),
      (wWord0 0x41 0x3FFE 3 0 0 0 3, (wWord1 0 0x2880 0x3003 0x0 0x0), .yieldW { wide := true, guard := 3, fmt := 0, a := .raw 0x3FFE, b := .xreg 4 0 0, c := .imm 3, scope := 3 }, 16),
      (wWord0 0x400 0x3FFE 3 0 0 0 3, (wWord1 0 0x2880 0x187 0x0 0x0), .yieldWWide { wide := true, guard := 3, fmt := 0, a := .raw 0x3FFE, b := .xreg 4 0 0, c := .slice 48 7, scope := 3 }, 16),
      (sWord 0x42 3 0 0 0x0 0x2880 0x0, 0, .waitt { guard := 3, fmt := 0, b := .xreg 4 0 0 }, 8),
      (wWord0 0x402 0x87 3 0 0 0 0, (wWord1 0 0x2880 0x187 0x0 0x0), .waittD { wide := true, guard := 3, fmt := 0, a := .slice 16 7, b := .xreg 4 0 0, c := .slice 48 7 }, 16),
      (sWord 0x43 3 0 0 0x0 0x2880 0x3003, 0, .bar { guard := 3, fmt := 0, b := .xreg 4 0 0, c := .imm 3 }, 8),
      (sWord 0x45 3 0 0 0x0 0x2880 0x3003, 0, .cancel { guard := 3, fmt := 0, b := .xreg 4 0 0, c := .imm 3 }, 8),
      (sWord 0xC0 3 26 0 0x85 0x5 0x0, 0, .mov { guard := 3, fmt := 26, a := .slice 16 5, b := .slice 0 5 }, 8),
      (sWord 0xF2 3 26 0 0x85 0x5 0x0, 0, .brev { guard := 3, fmt := 26, a := .slice 16 5, b := .slice 0 5 }, 8)] : List (Word × Word × Instr × Nat)),
    decodeFrame false p.1 p.2.1 = .ok p.2.2.1 p.2.2.2 := by decide

theorem test_decode_cmpEqInt : ∀ p ∈ ([(0xD0, .cmpEqInt), (0xD1, .cmpNeInt), (0xD2, .cmpLtInt), (0xD3, .cmpLeInt), (0xD4, .cmpGtInt), (0xD5, .cmpGeInt)] : List (Nat × (Args → Instr))),
    decodeFrame false (sWord p.1 3 26 0 0x3805 0x5 0x45) 0 = .ok (p.2 { guard := 3, fmt := 26, a := .mask 5, b := .slice 0 5, c := .slice 8 5 }) 8 := by decide

theorem test_decode_xadd : ∀ p ∈ ([(0xE8, .xadd), (0xE9, .xsub), (0xEA, .xmul), (0xEB, .xand), (0xEC, .xior), (0xED, .xshl), (0xEE, .xshr)] : List (Nat × (Args → Instr))),
    decodeFrame false (sWord p.1 3 29 0 0x2920 0x2880 0x2880) 0 = .ok (p.2 { guard := 3, fmt := 29, a := .xreg 9 0 0, b := .xreg 4 0 0, c := .xreg 4 0 0 }) 8 := by decide

theorem test_decode_ins : ∀ p ∈ ([(sWord 0xC3 3 26 0 0x85 0x5 0x45, 0, .ins { guard := 3, fmt := 26, a := .slice 16 5, b := .slice 0 5, c := .slice 8 5 }, 8),
      (wWord0 0x480 0x85 3 26 0 0 0, (wWord1 0 0x5 0x45 0xC5 0x0), .mad { wide := true, guard := 3, fmt := 26, a := .slice 16 5, b := .slice 0 5, c := .slice 8 5, d := .slice 24 5 }, 16),
      (wWord0 0x481 0x85 3 26 0 0 0, (wWord1 0 0x5 0x45 0xC5 0x0), .bfx { wide := true, guard := 3, fmt := 26, a := .slice 16 5, b := .slice 0 5, c := .slice 8 5, d := .slice 24 5 }, 16),
      (wWord0 0x482 0x85 3 26 0 0 0, (wWord1 0 0x5 0x45 0x3802 0x0), .sel { wide := true, guard := 3, fmt := 26, a := .slice 16 5, b := .slice 0 5, c := .slice 8 5, d := .mask 2 }, 16),
      (wWord0 0x483 0x85 3 26 0 0 0, (wWord1 0 0x5 0x45 0xC5 0x0), .bfi { wide := true, guard := 3, fmt := 26, a := .slice 16 5, b := .slice 0 5, c := .slice 8 5, d := .slice 24 5 }, 16),
      (sWord 0xE0 3 26 0 0x85 0x5 0x45, 0, .ixa 0 { guard := 3, fmt := 26, a := .slice 16 5, b := .slice 0 5, c := .slice 8 5 }, 8),
      (sWord 0xE4 3 26 0 0x85 0x5 0x45, 0, .ixa 4 { guard := 3, fmt := 26, a := .slice 16 5, b := .slice 0 5, c := .slice 8 5 }, 8),
      (sWord 0xEF 3 29 0 0x2920 0x2880 0x0, 0, .xmov { guard := 3, fmt := 29, a := .xreg 9 0 0, b := .xreg 4 0 0 }, 8)] : List (Word × Word × Instr × Nat)),
    decodeFrame false p.1 p.2.1 = .ok p.2.2.1 p.2.2.2 := by decide

theorem test_decode_mand : ∀ p ∈ ([(0x100, .mand), (0x101, .mor), (0x102, .mxor), (0x103, .mandn)] : List (Nat × (Args → Instr))),
    decodeFrame false (sWord p.1 0 0 0 0x3805 0x3802 0x3802) 0 = .ok (p.2 { guard := 0, fmt := 0, a := .mask 5, b := .mask 2, c := .mask 2 }) 8 := by decide

theorem test_decode_lea : ∀ p ∈ ([(sWord 0xF0 3 29 0 0x85 0x5 0x45, 0, .lea { guard := 3, fmt := 29, a := .slice 16 5, b := .slice 0 5, c := .slice 8 5 }, 8),
      (sWord 0xF1 3 27 0 0x85 0x5 0x45, 0, .mulhi { guard := 3, fmt := 27, a := .slice 16 5, b := .slice 0 5, c := .slice 8 5 }, 8),
      (sWord 0x104 0 0 0 0x3805 0x3802 0x0, 0, .mnot { guard := 0, fmt := 0, a := .mask 5, b := .mask 2 }, 8),
      (sWord 0x105 0 0 0 0x3805 0x3802 0x0, 0, .mmov { guard := 0, fmt := 0, a := .mask 5, b := .mask 2 }, 8),
      (sWord 0x106 0 0 0 0x3805 0x2880 0x0, 0, .mset { guard := 0, fmt := 0, a := .mask 5, b := .xreg 4 0 0 }, 8),
      (sWord 0x107 0 0 0 0x2920 0x3802 0x0, 0, .mget { guard := 0, fmt := 0, a := .xreg 9 0 0, b := .mask 2 }, 8),
      (sWord 0x108 3 27 0 0x85 0x3802 0x0, 0, .mpopc { guard := 3, fmt := 27, a := .slice 16 5, b := .mask 2 }, 8),
      (sWord 0x109 3 27 0 0x85 0x3802 0x0, 0, .mffs { guard := 3, fmt := 27, a := .slice 16 5, b := .mask 2 }, 8)] : List (Word × Word × Instr × Nat)),
    decodeFrame false p.1 p.2.1 = .ok p.2.2.1 p.2.2.2 := by decide

theorem test_decode_shflUp : ∀ p ∈ ([(0x121, .shflUp), (0x122, .shflDown), (0x123, .shflXor)] : List (Nat × (Args → Instr))),
    decodeFrame false (sWord p.1 3 27 0 0x85 0x5 0x3003) 0 = .ok (p.2 { guard := 3, fmt := 27, a := .slice 16 5, b := .slice 0 5, c := .imm 3 }) 8 := by decide

theorem test_decode_reduceMin : ∀ p ∈ ([(0x141, .reduceMin), (0x149, .scanMin), (0x142, .reduceMax), (0x14A, .scanMax)] : List (Nat × (Args → Instr))),
    decodeFrame false (sWord p.1 3 26 0 0x85 0x5 0x0) 0 = .ok (p.2 { guard := 3, fmt := 26, a := .slice 16 5, b := .slice 0 5 }) 8 := by decide

theorem test_decode_reduceAnd : ∀ p ∈ ([(0x143, .reduceAnd), (0x14B, .scanAnd), (0x144, .reduceOr), (0x14C, .scanOr), (0x145, .reduceXor), (0x14D, .scanXor)] : List (Nat × (Args → Instr))),
    decodeFrame false (sWord p.1 3 27 0 0x85 0x5 0x0) 0 = .ok (p.2 { guard := 3, fmt := 27, a := .slice 16 5, b := .slice 0 5 }) 8 := by decide

theorem test_decode_shflIdx : ∀ p ∈ ([(sWord 0x120 3 27 0 0x85 0x5 0x45, 0, .shflIdx { guard := 3, fmt := 27, a := .slice 16 5, b := .slice 0 5, c := .slice 8 5 }, 8),
      (sWord 0x124 3 22 0 0x85 0x5 0x45, 0, .shfe { guard := 3, fmt := 22, a := .slice 16 5, b := .slice 0 5, c := .slice 8 5 }, 8),
      (sWord 0x128 3 29 0 0x87 0x107 0x187, 0, .permB { guard := 3, fmt := 29, a := .slice 16 7, b := .slice 32 7, c := .slice 48 7 }, 8),
      (sWord 0x129 3 29 0 0x87 0x107 0x187, 0, .permN { guard := 3, fmt := 29, a := .slice 16 7, b := .slice 32 7, c := .slice 48 7 }, 8),
      (wWord0 0x520 0x87 3 31 0 0 0, (wWord1 0 0x107 0x2880 0x0 0x0), .lut { wide := true, guard := 3, fmt := 31, a := .slice 16 7, b := .slice 32 7, c := .xreg 4 0 0 }, 16),
      (sWord 0x140 3 26 0 0x85 0x5 0x0, 0, .reduceAdd { guard := 3, fmt := 26, a := .slice 16 5, b := .slice 0 5 }, 8),
      (sWord 0x148 3 26 0 0x85 0x5 0x0, 0, .scanAdd { guard := 3, fmt := 26, a := .slice 16 5, b := .slice 0 5 }, 8),
      (sWord 0x150 3 27 0 0x85 0x5 0x3802, 0, .compact { guard := 3, fmt := 27, a := .slice 16 5, b := .slice 0 5, c := .mask 2 }, 8)] : List (Word × Word × Instr × Nat)),
    decodeFrame false p.1 p.2.1 = .ok p.2.2.1 p.2.2.2 := by decide

theorem test_decode_addFloat : ∀ p ∈ ([(0x180, .addFloat), (0x181, .subFloat), (0x182, .mulFloat), (0x228, .divFloat)] : List (Nat × (Args → Instr))),
    decodeFrame false (sWord p.1 3 20 0 0x85 0x5 0x45) 0 = .ok (p.2 { guard := 3, fmt := 20, a := .slice 16 5, b := .slice 0 5, c := .slice 8 5 }) 8 := by decide

theorem test_decode_minFloat : ∀ p ∈ ([(0x183, .minFloat), (0x184, .maxFloat), (0x185, .minp), (0x186, .maxp), (0x189, .sgn)] : List (Nat × (Args → Instr))),
    decodeFrame false (sWord p.1 3 20 0 0x85 0x5 0x45) 0 = .ok (p.2 { guard := 3, fmt := 20, a := .slice 16 5, b := .slice 0 5, c := .slice 8 5 }) 8 := by decide

theorem test_decode_fma : ∀ p ∈ ([(0x580, .fma), (0x581, .fms), (0x582, .fnma), (0x583, .fnms)] : List (Nat × (Args → Instr))),
    decodeFrame false (wWord0 p.1 0x85 3 20 0 1 0) (wWord1 0 0x5 0x45 0xC5 0x0) = .ok (p.2 { wide := true, guard := 3, fmt := 20, a := .slice 16 5, b := .slice 0 5, c := .slice 8 5, d := .slice 24 5, rnd := 1 }) 16 := by decide

theorem test_decode_cmpEqFloat : ∀ p ∈ ([(0x1A0, .cmpEqFloat), (0x1A1, .cmpNeFloat), (0x1A2, .cmpLtFloat), (0x1A3, .cmpLeFloat), (0x1A4, .cmpGtFloat), (0x1A5, .cmpGeFloat), (0x1A6, .cmpUn), (0x1A7, .cmpOrd)] : List (Nat × (Args → Instr))),
    decodeFrame false (sWord p.1 3 20 0 0x3805 0x5 0x45) 0 = .ok (p.2 { guard := 3, fmt := 20, a := .mask 5, b := .slice 0 5, c := .slice 8 5 }) 8 := by decide

theorem test_decode_exp2 : ∀ p ∈ ([(0x220, .exp2), (0x221, .log2), (0x222, .rcp), (0x223, .rsqrt), (0x224, .sinpi), (0x225, .cospi), (0x226, .tanh)] : List (Nat × (Args → Instr))),
    decodeFrame false (sWord p.1 3 18 0 0x85 0x5 0x0) 0 = .ok (p.2 { guard := 3, fmt := 18, a := .slice 16 5, b := .slice 0 5 }) 8 := by decide

theorem test_decode_absFloat : ∀ p ∈ ([(sWord 0x187 3 20 0 0x85 0x5 0x0, 0, .absFloat { guard := 3, fmt := 20, a := .slice 16 5, b := .slice 0 5 }, 8),
      (sWord 0x188 3 20 0 0x85 0x5 0x0, 0, .negFloat { guard := 3, fmt := 20, a := .slice 16 5, b := .slice 0 5 }, 8),
      (sWord 0x18A 3 20 0 0x85 0x5 0x0, 0, .rint { guard := 3, fmt := 20, a := .slice 16 5, b := .slice 0 5 }, 8),
      (sWord 0x1A8 3 20 0 0x83 0x5 0x0, 0, .fclass { guard := 3, fmt := 20, a := .slice 16 3, b := .slice 0 5 }, 8),
      (sWord 0x1A9 3 20 0 0x3805 0x5 0x3003, 0, .ftest { guard := 3, fmt := 20, a := .mask 5, b := .slice 0 5, c := .imm 3 }, 8),
      (sWord 0x1C0 3 16 0 0x85 0x107 0x187, 0, .dot { guard := 3, fmt := 16, a := .slice 16 5, b := .slice 32 7, c := .slice 48 7 }, 8),
      (wWord0 0x584 0x85 3 16 0 1 0, (wWord1 0 0x107 0x187 0xC5 0x0), .dota { wide := true, guard := 3, fmt := 16, a := .slice 16 5, b := .slice 32 7, c := .slice 48 7, d := .slice 24 5, rnd := 1 }, 16),
      (sWord 0x229 3 20 0 0x85 0x5 0x0, 0, .sqrt { guard := 3, fmt := 20, a := .slice 16 5, b := .slice 0 5 }, 8)] : List (Word × Word × Instr × Nat)),
    decodeFrame false p.1 p.2.1 = .ok p.2.2.1 p.2.2.2 := by decide

theorem test_decode_zipLo : ∀ p ∈ ([(0x240, .zipLo), (0x241, .zipHi), (0x242, .unzipEv), (0x243, .unzipOd)] : List (Nat × (Args → Instr))),
    decodeFrame false (sWord p.1 3 22 0 0x85 0x5 0x45) 0 = .ok (p.2 { guard := 3, fmt := 22, a := .slice 16 5, b := .slice 0 5, c := .slice 8 5 }) 8 := by decide

theorem test_decode_cvt : ∀ p ∈ ([(sWord 0x214 3 19 0 0x83 0x5 0x0, 0, .cvt 20 { guard := 3, fmt := 19, a := .slice 16 3, b := .slice 0 5 }, 8),
      (wWord0 0x600 0x83 3 18 20 1 0, (wWord1 0 0x5 0x0 0x0 0x0), .cvtx { wide := true, guard := 3, fmt := 18, a := .slice 16 3, b := .slice 0 5, f1 := 20, rnd := 1 }, 16),
      (wWord0 0x602 0x81 3 23 20 0 0, (wWord1 0 0x5 0x45 0x0 0x0), .esel { wide := true, guard := 3, fmt := 23, a := .slice 16 1, b := .slice 0 5, c := .slice 8 5, f1 := 20 }, 16),
      (sWord 0x244 3 16 0 0x86 0x107 0x0, 0, .pk6 { guard := 3, fmt := 16, a := .slice 16 6, b := .slice 32 7 }, 8),
      (sWord 0x245 3 16 0 0x87 0x106 0x0, 0, .upk6 { guard := 3, fmt := 16, a := .slice 16 7, b := .slice 32 6 }, 8),
      (sWord 0x260 3 29 0 0x85 0x2880 0x2880, 0, .rngLo { guard := 3, fmt := 29, a := .slice 16 5, b := .xreg 4 0 0, c := .xreg 4 0 0 }, 8),
      (sWord 0x261 3 29 0 0x85 0x2880 0x2880, 0, .rngHi { guard := 3, fmt := 29, a := .slice 16 5, b := .xreg 4 0 0, c := .xreg 4 0 0 }, 8),
      (sWord 0x262 3 20 0 0x85 0x2880 0x2880, 0, .rngu { guard := 3, fmt := 20, a := .slice 16 5, b := .xreg 4 0 0, c := .xreg 4 0 0 }, 8),
      (sWord 0x263 3 20 0 0x85 0x2880 0x2880, 0, .rnguOc { guard := 3, fmt := 20, a := .slice 16 5, b := .xreg 4 0 0, c := .xreg 4 0 0 }, 8)] : List (Word × Word × Instr × Nat)),
    decodeFrame false p.1 p.2.1 = .ok p.2.2.1 p.2.2.2 := by decide

theorem test_decode_rngkLo : ∀ p ∈ ([(wWord0 0x660 0x85 3 29 0 0 0, (wWord1 0 0x2880 0x2880 0x2880 0x0), .rngkLo { wide := true, guard := 3, fmt := 29, a := .slice 16 5, b := .xreg 4 0 0, c := .xreg 4 0 0, d := .xreg 4 0 0 }, 16),
      (wWord0 0x660 0x85 3 29 0 0 0, (wWord1 1 0x2880 0x2880 0x2880 0x0), .rngkHi { wide := true, guard := 3, fmt := 29, a := .slice 16 5, b := .xreg 4 0 0, c := .xreg 4 0 0, d := .xreg 4 0 0, xmod := 1 }, 16),
      (wWord0 0x660 0x85 3 20 0 0 0, (wWord1 2 0x2880 0x2880 0x2880 0x0), .rngku { wide := true, guard := 3, fmt := 20, a := .slice 16 5, b := .xreg 4 0 0, c := .xreg 4 0 0, d := .xreg 4 0 0, xmod := 2 }, 16),
      (wWord0 0x660 0x85 3 20 0 0 0, (wWord1 3 0x2880 0x2880 0x2880 0x0), .rngkuOc { wide := true, guard := 3, fmt := 20, a := .slice 16 5, b := .xreg 4 0 0, c := .xreg 4 0 0, d := .xreg 4 0 0, xmod := 3 }, 16),
      (sWord 0x1E0 3 20 0 0x85 0x5 0x0, 0, .rcpa { guard := 3, fmt := 20, a := .slice 16 5, b := .slice 0 5 }, 8),
      (sWord 0x280 3 27 0 0x85 0x2880 0x3008, 0, .ld { guard := 3, fmt := 27, a := .slice 16 5, b := .xreg 4 0 0, c := .imm 8 }, 8),
      (sWord 0x281 3 27 0 0x305 0x2880 0x3008, 0, .st { guard := 3, fmt := 27, a := .slice 96 5, b := .xreg 4 0 0, c := .imm 8 }, 8),
      (sWord 0x284 3 27 0 0x85 0x2880 0x185, 0, .gath { guard := 3, fmt := 27, a := .slice 16 5, b := .xreg 4 0 0, c := .slice 48 5 }, 8)] : List (Word × Word × Instr × Nat)),
    decodeFrame false p.1 p.2.1 = .ok p.2.2.1 p.2.2.2 := by decide

theorem test_decode_scat : ∀ p ∈ ([(sWord 0x285 3 27 0 0x305 0x2880 0x185, 0, .scat { guard := 3, fmt := 27, a := .slice 96 5, b := .xreg 4 0 0, c := .slice 48 5 }, 8),
      (sWord 0x286 3 27 0 0x0 0x2880 0x3008, 0, .pref { guard := 3, fmt := 27, b := .xreg 4 0 0, c := .imm 8 }, 8),
      (sWord 0x2A0 3 0 0 0x0 0x0 0x0, 0, .phase 0 { guard := 3, fmt := 0 }, 8),
      (sWord 0x2A4 3 0 0 0x0 0x0 0x0, 0, .phase 4 { guard := 3, fmt := 0 }, 8),
      (sWord 0x2A8 3 0 0 0x0 0x0 0x0, 0, .phaseK 0 { guard := 3, fmt := 0 }, 8),
      (sWord 0x2AC 3 0 0 0x0 0x0 0x0, 0, .phaseK 4 { guard := 3, fmt := 0 }, 8),
      (sWord 0x2B0 3 0 0 0x0 0x0 0x0, 0, .fence 0 { guard := 3, fmt := 0 }, 8),
      (sWord 0x2B4 3 0 0 0x0 0x0 0x0, 0, .fence 4 { guard := 3, fmt := 0 }, 8)] : List (Word × Word × Instr × Nat)),
    decodeFrame false p.1 p.2.1 = .ok p.2.2.1 p.2.2.2 := by decide

theorem test_decode_atomMinRet : ∀ p ∈ ([(0x2C1, .atomMinRet), (0x2C2, .atomMaxRet), (0x2C6, .atomXchg)] : List (Nat × (Args → Instr))),
    decodeFrame false (sWord p.1 3 27 0 0x85 0x2880 0x45) 0 = .ok (p.2 { guard := 3, fmt := 27, a := .slice 16 5, b := .xreg 4 0 0, c := .slice 8 5 }) 8 := by decide

theorem test_decode_atomAndRet : ∀ p ∈ ([(0x2C3, .atomAndRet), (0x2C4, .atomOrRet), (0x2C5, .atomXorRet)] : List (Nat × (Args → Instr))),
    decodeFrame false (sWord p.1 3 27 0 0x85 0x2880 0x45) 0 = .ok (p.2 { guard := 3, fmt := 27, a := .slice 16 5, b := .xreg 4 0 0, c := .slice 8 5 }) 8 := by decide

theorem test_decode_atomAnd : ∀ p ∈ ([(0x2CB, .atomAnd), (0x2CC, .atomOr), (0x2CD, .atomXor)] : List (Nat × (Args → Instr))),
    decodeFrame false (sWord p.1 3 27 0 0x0 0x2880 0x45) 0 = .ok (p.2 { guard := 3, fmt := 27, b := .xreg 4 0 0, c := .slice 8 5 }) 8 := by decide

theorem test_decode_discard : ∀ p ∈ ([(sWord 0x2B9 3 0 0 0x0 0x2880 0x3010, 0, .discard { guard := 3, fmt := 0, b := .xreg 4 0 0, c := .imm 16 }, 8),
      (sWord 0x2BC 3 0 0 0x107 0x3003 0x0, 0, .spill { guard := 3, fmt := 0, a := .slice 32 7, b := .imm 3 }, 8),
      (sWord 0x2BD 3 0 0 0x107 0x3003 0x0, 0, .fill { guard := 3, fmt := 0, a := .slice 32 7, b := .imm 3 }, 8),
      (sWord 0x2C0 3 27 0 0x85 0x2880 0x45, 0, .atomAddRet { guard := 3, fmt := 27, a := .slice 16 5, b := .xreg 4 0 0, c := .slice 8 5 }, 8),
      (sWord 0x2C8 3 27 0 0x0 0x2880 0x45, 0, .atomAdd { guard := 3, fmt := 27, b := .xreg 4 0 0, c := .slice 8 5 }, 8),
      (sWord 0x2C9 3 27 0 0x0 0x2880 0x45, 0, .atomMin { guard := 3, fmt := 27, b := .xreg 4 0 0, c := .slice 8 5 }, 8),
      (sWord 0x2CA 3 27 0 0x0 0x2880 0x45, 0, .atomMax { guard := 3, fmt := 27, b := .xreg 4 0 0, c := .slice 8 5 }, 8),
      (wWord0 0x680 0x85 3 27 0 0 0, (wWord1 0 0x2880 0x45 0xC5 0x0), .atomCas { wide := true, guard := 3, fmt := 27, a := .slice 16 5, b := .xreg 4 0 0, c := .slice 8 5, d := .slice 24 5 }, 16)] : List (Word × Word × Instr × Nat)),
    decodeFrame false p.1 p.2.1 = .ok p.2.2.1 p.2.2.2 := by decide

theorem test_decode_atomwinc : ∀ p ∈ ([(sWord 0x2EA 3 27 0 0x85 0x2880 0x45, 0, .atomwinc { guard := 3, fmt := 27, a := .slice 16 5, b := .xreg 4 0 0, c := .slice 8 5 }, 8),
      (wWord0 0x2E0 0x0 3 0 0 0 3 + 2, (wWord1 0 0x2880 0x3007 0x0 0x0), .waitv { wide := true, guard := 3, fmt := 0, b := .xreg 4 0 0, c := .imm 7, scope := 3, ord := 2 }, 16),
      (wWord0 0x2E1 0x3003 3 0 0 0 3 + 2, (wWord1 0 0x2880 0x3007 0x0 0x0), .watch { wide := true, guard := 3, fmt := 0, a := .imm 3, b := .xreg 4 0 0, c := .imm 7, scope := 3, ord := 2 }, 16),
      (sWord 0x2E2 3 0 0 0x2920 0x3003 0x0, 0, .waitvW { guard := 3, fmt := 0, a := .xreg 9 0 0, b := .imm 3 }, 8),
      (sWord 0x300 3 0 0 0x2880 0x2880 0x0, 0, .shape { guard := 3, fmt := 0, a := .xreg 4 0 0, b := .xreg 4 0 0 }, 8),
      (sWord 0x301 3 0 0 0x3010 0x2880 0x0, 0, .trec { guard := 3, fmt := 0, a := .imm 16, b := .xreg 4 0 0 }, 8),
      (sWord 0x302 3 0 0 0x5 0x25 0x25, 0, .cpy { guard := 3, fmt := 0, a := .raw 0x5, b := .raw 0x25, c := .raw 0x25 }, 8),
      (sWord 0x303 3 0 0 0x5 0x25 0x25, 0, .cpym { guard := 3, fmt := 0, a := .raw 0x5, b := .raw 0x25, c := .raw 0x25 }, 8)] : List (Word × Word × Instr × Nat)),
    decodeFrame false p.1 p.2.1 = .ok p.2.2.1 p.2.2.2 := by decide

theorem test_decode_coll : ∀ p ∈ ([(0x320, .coll), (0x321, .nwr), (0x322, .nrd)] : List (Nat × (Args → Instr))),
    decodeFrame false (sWord p.1 3 0 0 0x0 0x2880 0x0) 0 = .ok (p.2 { guard := 3, fmt := 0, b := .xreg 4 0 0 }) 8 := by decide

theorem test_decode_mfs : ∀ p ∈ ([(sWord 0x380 3 0 0 0x2920 0x3003 0x0, 0, .mfs { guard := 3, fmt := 0, a := .xreg 9 0 0, b := .imm 3 }, 8),
      (sWord 0x381 3 0 0 0x0 0x0 0x3003, 0, .trap { guard := 3, fmt := 0, c := .imm 3 }, 8),
      (sWord 0x3A1 3 0 0 0x3003 0x2880 0x0, 0, .mts { guard := 3, fmt := 0, a := .imm 3, b := .xreg 4 0 0 }, 8),
      (sWord 0x3A2 3 0 0 0x0 0x3010 0x2880, 0, .sluice { guard := 3, fmt := 0, b := .imm 16, c := .xreg 4 0 0 }, 8),
      (sWord 0x3A3 3 0 0 0x0 0x2880 0x3010, 0, .xlinvVa { guard := 3, fmt := 0, b := .xreg 4 0 0, c := .imm 16 }, 8),
      (sWord 0x3A4 3 0 0 0x0 0x3010 0x0, 0, .xlinvAsid { guard := 3, fmt := 0, b := .imm 16 }, 8),
      (sWord 0x3A5 3 0 0 0x0 0x0 0x0, 0, .xlinvAll { guard := 3, fmt := 0 }, 8),
      (sWord 0x3A6 3 0 0 0x0 0x0 0x0, 0, .xlsync { guard := 3, fmt := 0 }, 8)] : List (Word × Word × Instr × Nat)),
    decodeFrame false p.1 p.2.1 = .ok p.2.2.1 p.2.2.2 := by decide

theorem test_decode_tcfg : ∀ p ∈ ([(sWord 0x340 0 19 0 0x5 0x3010 0x3010, 0, .tcfg { guard := 0, fmt := 19, a := .raw 0x5, b := .imm 16, c := .imm 16 }, 8),
      (sWord 0x341 0 0 0 0x0 0x2880 0x0, 0, .team { guard := 0, fmt := 0, b := .xreg 4 0 0 }, 8),
      (sWord 0x342 0 0 0 0x25 0x0 0x0, 0, .bclr { guard := 0, fmt := 0, a := .raw 0x25 }, 8),
      (sWord 0x343 0 19 0 0x25 0x6 0x6, 0, .mma { guard := 0, fmt := 19, a := .raw 0x25, b := .raw 0x6, c := .raw 0x6 }, 8),
      (sWord 0x344 0 19 0 0x25 0x6 0x6, 0, .mmat { guard := 0, fmt := 19, a := .raw 0x25, b := .raw 0x6, c := .raw 0x6 }, 8),
      (sWord 0x345 0 19 0 0x2A5 0x5 0xA5, 0, .dmma { guard := 0, fmt := 19, a := .raw 0x2A5, b := .raw 0x5, c := .raw 0xA5 }, 8),
      (wWord0 0x740 0x25 0 19 19 0 0, (wWord1 0 0x25 0x5 0x6 0x6), .dmmaStreamed { wide := true, guard := 0, fmt := 19, a := .raw 0x25, b := .raw 0x25, c := .raw 0x5, d := .raw 0x6, e := .raw 0x6, f1 := 19 }, 16),
      (sWord 0x346 3 0 0 0x87 0x25 0x3010, 0, .bget { guard := 3, fmt := 0, a := .slice 16 7, b := .raw 0x25, c := .imm 16 }, 8)] : List (Word × Word × Instr × Nat)),
    decodeFrame false p.1 p.2.1 = .ok p.2.2.1 p.2.2.2 := by decide

theorem test_decode_bset : ∀ p ∈ ([(sWord 0x347 3 0 0 0x25 0x3010 0x187, 0, .bset { guard := 3, fmt := 0, a := .raw 0x25, b := .imm 16, c := .slice 48 7 }, 8),
      (sWord 0x348 3 0 0 0x87 0x5 0x3010, 0, .tget { guard := 3, fmt := 0, a := .slice 16 7, b := .raw 0x5, c := .imm 16 }, 8),
      (sWord 0x349 3 0 0 0x5 0x3010 0x187, 0, .tset { guard := 3, fmt := 0, a := .raw 0x5, b := .imm 16, c := .slice 48 7 }, 8),
      (sWord 0x360 0 19 0 0x5 0x25 0x402, 0, .drain { guard := 0, fmt := 19, a := .raw 0x5, b := .raw 0x25, c := .raw 0x402 }, 8),
      (sWord 0x361 0 0 0 0x25 0x0 0x402, 0, .prjsum { guard := 0, fmt := 0, a := .raw 0x25, c := .raw 0x402 }, 8),
      (sWord 0x362 0 19 0 0x5 0x25 0x5, 0, .prjadj { guard := 0, fmt := 19, a := .raw 0x5, b := .raw 0x25, c := .raw 0x5 }, 8),
      (sWord 0x378 0 0 0 0x25 0x5 0x5, 0, .mma16 { guard := 0, fmt := 0, a := .raw 0x25, b := .raw 0x5, c := .raw 0x5 }, 8),
      (sWord 0x379 0 0 0 0x5 0x5 0x0, 0, .ttrans { guard := 0, fmt := 0, a := .raw 0x5, b := .raw 0x5 }, 8)] : List (Word × Word × Instr × Nat)),
    decodeFrame false p.1 p.2.1 = .ok p.2.2.1 p.2.2.2 := by decide


/-! ### Witnesses: states and operands that meet the hypotheses of each statement -/

/-- A page of data at 0x20000, and the code page. -/
def dataPage : TlbEntry := { asid := 1, va := 0x20000, size := pageSize, pa := 0x20000, r := true, w := true, x := false, p := false }

/-- A furrow after a fetch at `codeAt`, with all its lanes active; x4 and x7 hold addresses of the data page, x6 is poisoned, `m2`
holds half the lanes, `m1` none; four tiles and four bins. -/
def demo : State :=
  let s := State.reset.withFetchWord 64 0
  { s with
    agenda := []
    fur := { s.fur with
      npc := 0x10008, xregs := setAt (setAt s.fur.xregs 4 0x20000) 7 0x20040, xpoison := 0x40, masks := 0 :: 0xFFFF0000 :: List.replicate 13 0 }
    plot := { s.plot with tiles := List.replicate 4 {}, bins := List.replicate 4 {} }
    core := { s.core with tlb := dataPage :: s.core.tlb } }

def three : Args := { wide := true, fmt := 26, a := .slice 16 5, b := .slice 0 5, c := .imm 5, d := .mask 2 }
def toMask : Args := { fmt := 26, a := .mask 5, b := .slice 0 5, c := .imm 5 }

theorem witness_IntegerArithmetic : fmtIsClass three.fmt = false ∧ Readable demo three.operands := by unfold Readable; decide +kernel
theorem witness_IntegerBits : fmtIsClass three.fmt = false ∧ Readable demo three.operands := by unfold Readable; decide +kernel
theorem witness_IntegerFieldsAndSums : fmtIsClass three.fmt = false ∧ Readable demo three.operands ∧ demo.job.legmc < 2 ^ 63 - 1 ∧ three.d = .mask 2 := by
  unfold Readable; decide +kernel
theorem witness_IntegerCompares : fmtIsClass toMask.fmt = false ∧ Readable demo toMask.operands ∧ toMask.a = .mask 5 ∧ (5 : BitVec 4) ≠ 0
    ∧ (∀ i < 32, (demo.active toMask.guard).getLsbD i = true → (demo.src toMask.sx toMask.w toMask.b i).p = false ∧ (demo.src toMask.sx toMask.w toMask.c i).p = false) := by
  unfold Readable; decide +kernel
theorem witness_IntegerCompares_poison : fmtIsClass toMask.fmt = false ∧ Readable demo ({ toMask with c := .xreg 6 0 0 } : Args).operands
    ∧ (demo.active toMask.guard).getLsbD 31 = true ∧ (demo.src toMask.sx toMask.w (.xreg 6 0 0) 31).p = true := by unfold Readable; decide +kernel
theorem witness_ScalarSide : Readable demo ({ fmt := 29, a := .xreg 9 0 0, b := .xreg 4 0 0, c := .imm 7 } : Args).operands
    ∧ demo.active 0 ≠ 0 ∧ demo.active 1 = 0 := by unfold Readable; decide +kernel
theorem witness_ScalarSide_forms : let h := hintArgsS (sWord 0x0E8 0 28 0 0x2800 0x2820 0x2840)
    h.fmt = 28 ∧ h.a.rawBits.extractLsb' 11 3 = 5 ∧ h.c.rawBits.extractLsb' 5 6 ≠ h.b.rawBits.extractLsb' 5 6 := by decide +kernel
theorem witness_Masks : demo.xp 4 = false ∧ demo.xp 6 = true ∧ (5 : BitVec 4) ≠ 0 ∧ Readable demo ({ fmt := 27, a := .slice 16 5, b := .mask 2 } : Args).operands := by
  unfold Readable; decide +kernel
theorem witness_LaneMoves : Readable demo ({ fmt := 27, a := .slice 16 5, b := .slice 0 5, c := .imm 31 } : Args).operands ∧ (31 : BitVec 11).toNat < 32
    ∧ Readable demo ({ fmt := 27, a := .slice 16 5, b := .slice 0 5, c := .mask 2 } : Args).operands
    ∧ Readable demo ({ wide := true, fmt := 31, a := .slice 16 7, b := .slice 0 7, c := .xreg 4 0 0 } : Args).operands := by unfold Readable; decide +kernel
theorem witness_PHalves : Readable demo (({ dst := ⟨false, 16, 2⟩, src := ⟨false, 0, 2⟩ } : PArgs).asArgs 26).operands
    ∧ Readable demo (({ dst := ⟨false, 16, 2⟩, imm := 31 } : PImm).asArgs 27).operands ∧ (31 : BitVec 11).toNat < 32
    ∧ FloatReady demo (({ dst := ⟨false, 16, 2⟩, src := ⟨false, 0, 2⟩ } : PArgs).asArgs 20) accFlt 20 := by unfold FloatReady Readable; decide +kernel

def flt : Args := { wide := true, fmt := 20, a := .slice 16 5, b := .slice 0 5, c := .slice 8 5, d := .slice 24 5 }
theorem witness_FloatArithmetic : FloatReady demo flt accFlt 20 ∧ FloatReady demo flt accSpecial 20 := by unfold FloatReady Readable; decide +kernel
theorem witness_FloatSigns : FloatReady demo flt accFlt 20 ∧ flt.rnd = 0 := by unfold FloatReady Readable; decide +kernel
theorem witness_FloatComparesAndClasses : demo.native accFlt 20 = some 20
    ∧ fltOk1 (({ fmt := 20, a := .mask 5, b := .slice 0 5, c := .slice 8 5 } : Args).withFmt 20) = true
    ∧ fltOk1B (({ fmt := 20, a := .mask 5, b := .slice 0 5, c := .imm 0x3FF } : Args).withFmt 20) = true
    ∧ Readable demo [.mask 5, .slice 0 5, .slice 8 5] ∧ (∀ i < 32, (demo.fsrc 20 32 (.slice 0 5) i).p = false ∧ (demo.fsrc 20 32 (.slice 8 5) i).p = false) := by
  unfold Readable; decide +kernel
theorem witness_DotProducts : demo.native accDot 22 = some 22 ∧ fmtIsInt 22 = true ∧ demo.native accDot 18 = some 18 ∧ fmtIsInt 18 = false
    ∧ Readable demo ({ wide := true, fmt := 22, a := .slice 16 5, b := .slice 32 7, c := .slice 48 7, d := .slice 64 5 } : Args).operands := by
  unfold Readable; decide +kernel
theorem witness_RoundingModes : 0 < 2 ∧ 4 % 2 ^ 2 = 0 ∧ 6 % 2 ^ 2 ≠ 0 ∧ 1 % 2 ^ 2 ≠ 0 := by decide
theorem witness_Conversions :
    demo.convFmts 18 20 = some ({ fmt := 18 }, { fmt := 20 }) ∧ convShape 18 20 (.slice 16 3) (.slice 0 5) = some (1, 16, 32)
    ∧ Readable demo ({ fmt := 18, a := .slice 16 3, b := .slice 0 5 } : Args).operands
    ∧ FloatReady demo ({ fmt := 20, a := .slice 16 5, b := .slice 0 5 } : Args) accF32 20 ∧ demo.job.legmc < 2 ^ 63 - 1 := by
  unfold FloatReady Readable; decide +kernel

theorem witness_Conversions_scaled :
    let f : Args := { wide := true, fmt := 18, f1 := 20, a := .slice 16 3, b := .slice 0 5, d := .slice 8 1, xmod := 4 }
    demo.convFmts f.fmt f.f1 = some ({ fmt := 18 }, { fmt := 20 }) ∧ Readable demo f.operands ∧ convShape 18 20 f.a f.b = some (1, 16, 32)
    ∧ fmtScalable 18 = true ∧ fmtIsInt 18 = false ∧ (f.xmod.extractLsb' 1 2).toNat = 2 := by unfold Readable; decide +kernel
/-- A source scale on FP32, which has none (ILLEGAL), and the same option on a class that is bound plain to FP32, where it acts as none. -/
theorem witness_Conversions_options :
    let f : Args := { wide := true, fmt := 18, f1 := 1, a := .slice 16 3, b := .slice 0 5, xmod := 2 }
    let s : State := { demo with launch := { demo.launch with classes := [0, 20] } }
    fmtScalable 20 = false ∧ (f.xmod.extractLsb' 1 2).toNat = 1 ∧ fmtIsClass f.f1 = true ∧ fmtIsClass 20 = false
    ∧ s.convFmts f.fmt f.f1 = some ({ fmt := 18 }, { fmt := 20 }) ∧ convShape 18 20 f.a f.b = some (1, 16, 32) ∧ Readable s f.operands := by
  unfold Readable; decide +kernel
theorem witness_PackAndUnpack : Readable demo ({ fmt := 22, a := .slice 16 5, b := .slice 0 5, c := .slice 8 5 } : Args).operands := by unfold Readable; decide +kernel
theorem witness_RandomDraws :
    let f : Args := { wide := true, fmt := 29, ext := true, a := .slice 16 7, b := .xreg 4 0 0, c := .slice 32 7, d := .xreg 4 0 0 }
    demo.native (bits [28, 29]) f.fmt = some 29 ∧ Readable demo f.operands ∧ demo.job.objs.find? (·.va = demo.fur.obj) = none
    ∧ demo.native accFlt 20 = some 20 ∧ fltWidthOk (fmtBits 20) (fltW (fmtBits 20) [.slice 16 7]) = true := by unfold Readable; decide +kernel
/-- A trap queue at 0x28100 of 64 records at 0x29000. -/
def queued (s : State) : State := { s with
  trapq := 0x28100, plot := { s.plot with trapq := 0x28100 }, mem := Memory.writeN (Memory.writeN s.mem 0x28100 8 0x29000) 0x28108 1 6 }
/-- A counter that wraps in every lane, in a furrow whose code object asks for the trap. -/
theorem witness_RandomDraws_trap :
    let f : Args := { wide := true, fmt := 29, ext := true, a := .slice 16 7, b := .xreg 4 0 0, c := .slice 32 7, d := .xreg 4 0 0 }
    let s := queued { demo with
      fur := { demo.fur with lanes := List.replicate 32 { data := BitVec.ofNat 4096 ((2 ^ 64 - 1) * 2 ^ 128) } }
      job := { demo.job with objs := [{ va := demo.fur.obj, hdr := BitVec.ofNat 1024 (2 ^ 128), entries := [] }] } }
    (s.src true 64 f.c 7).v = 2 ^ 64 - 1 ∧ (s.active f.guard).getLsbD 7 = true
    ∧ (s.job.objs.find? (·.va = s.fur.obj)).any (·.hdr.getLsbD 128) = true ∧ s.trapsFull = false
    ∧ Memory.wf s.mem = true ∧ (∀ x ∈ s.rets, x.fur ≠ s.fur.id) ∧ s.fur.ctxPa = 0 := by decide +kernel
theorem witness_Reductions : fmtIsInt 26 = true ∧ fmtIsClass 26 = false ∧ demo.native (0xFFC00000 ||| accFlt) 20 = some 20 ∧ fmtIsInt 20 = false
    ∧ fltOk (({ fmt := 20, a := .slice 16 5, b := .slice 0 5 } : Args).withFmt 20) = true ∧ Readable demo [.slice 16 5, .slice 0 5] ∧ demo.active 2 ≠ 0 := by
  unfold Readable; decide +kernel

def load : Args := { fmt := 29, a := .slice 0 7, b := .xreg 4 0 0, c := .imm 8 }
def acquire : Args := { load with wide := true, ord := 2, scope := 3 }
theorem witness_Loads : demo.native accAll 29 = some 29 ∧ Readable demo load.operands ∧ memOk (load.withFmt 29) = true
    ∧ (∀ i ∈ lanesOf (demo.active 0), (demo.ea load i).p = false) ∧ Accessible demo .load 8 8 ((lanesOf (demo.active 0)).map fun i => (i, (demo.ea load i).v))
    ∧ acquire.acquires = true ∧ AcquirePasses demo 3 8 [(0, 0x20008)] := by unfold Readable Accessible AcquirePasses; decide +kernel
theorem witness_Loads_gather :
    let f : Args := { fmt := 27, a := .slice 0 5, b := .xreg 4 0 0, c := .slice 32 5 }
    gathShape (fmtBits 27) f.a f.c = some (1, 32) ∧ Readable demo f.operands ∧ Accessible demo .load 4 4 [(0, 0x20000), (31, 0x2FFFC)]
    ∧ (∀ i ∈ lanesOf (demo.active 0), (demo.src false 32 f.c i).p = false) := by unfold Readable Accessible; decide +kernel

/-- The same with an area for spills. -/
def spilling : State := { demo with launch := { demo.launch with spill := 0x24000 } }
def groups : Args := { fmt := 0, a := .slice 32 7, b := .imm 2, guard := 2 }
theorem witness_Loads_fill : (groupsOf groups).all (fun g => decide (g < spilling.fur.budget / 16)) = true ∧ spilling.launch.spill ≠ 0
    ∧ spilling.launch.spill.toNat % 64 = 0 ∧ Accessible spilling .load 2 2 ((spilling.spillWords groups (spilling.active 2)).flatMap fun w => [(w.1, w.2.2.1), (w.1, w.2.2.2)])
    ∧ Accessible spilling .store 2 2 ((spilling.spillWords groups (spilling.active 2)).flatMap fun w => [(w.1, w.2.2.1), (w.1, w.2.2.2)]) := by
  unfold Accessible; decide +kernel

/-- Two entries of one sector, of which the furrow sees the later, and one of another furrow, which it does not see. -/
def storing : State := { demo with plot := { demo.plot with
  silo := [{ sector := 0x800, va := 0x800, data := 1, mask := 1, tag := 0, vis := false, poison := false },
           { sector := 0x800, va := 0x800, data := 2, mask := 1, tag := 5, vis := true, poison := false }]
  held := [{ sector := 0x801, va := 0x801, data := 3, mask := 1, tag := 7, vis := false, poison := false }] } }
theorem witness_ViewReadsNewest : (storing.plot.silo.getD 1 ⟨0, 0, 0, 0, 0, false, false, 0⟩).hits storing.fur.tag 0x20000 = true
    ∧ (∀ x ∈ storing.plot.held ++ storing.plot.silo, x.hits storing.fur.tag 0x20040 = false) := by decide +kernel

theorem demo_pa (acc : Access) (va : Nat) (h : acc ≠ .fetch) :
    demo.pa acc va = if 0x20000 ≤ va ∧ va < 0x30000 then some va else none := by
  have e : demo.core.tlb = [dataPage, { asid := 1, va := codeAt, size := pageSize, pa := codeAt, r := false, w := false, x := true, p := false }] := rfl
  have j : demo.job.asid = 1 := rfl
  have p : demo.fur.priv = false := rfl
  have c : demo.tcache = [] := rfl
  unfold State.pa State.tlbFind
  rw [e, j, p, c]
  by_cases h1 : 0x20000 ≤ va ∧ va < 0x30000
  · have h2 : va < 0x20000 + pageSize := h1.2
    have hc : TlbEntry.covers dataPage 1 va = true := by simp [TlbEntry.covers, dataPage, h1.1]; exact h2
    simp only [List.find?_cons, hc, if_pos h1, Option.some_or]
    cases acc <;> simp_all [TlbEntry.allows, dataPage]
  · have hc : ¬TlbEntry.covers dataPage 1 va = true := by
      intro hx; simp [TlbEntry.covers, dataPage, pageSize] at hx; exact h1 (of_decide_eq_true hx)
    simp only [List.find?_cons, hc, if_neg h1, List.find?_nil, Option.map_none, Option.or_none]
    split
    · rename_i hx
      split at hx
      · cases Option.some.inj hx
        cases acc <;> simp_all [TlbEntry.allows]
      · cases hx
    · rfl
theorem demo_paged (acc : Access) (h : acc ≠ .fetch) : demo.paged acc := by
  intro sec
  refine ⟨fun k hk => ?_, fun pa hp => ?_⟩
  · simp only [demo_pa _ _ h]
    split <;> split <;> simp_all <;> omega
  · rw [demo_pa _ _ h] at hp
    split at hp <;> simp_all; omega

/-- With a checkpointed past, an open region and a completion record. -/
def rich : State := { storing with
  plot := { storing.plot with silo := storing.plot.silo.reverse }
  fur := { storing.fur with region := some { at_ := 0x10000, pc := 0x10008, splits := [], masks := [], yields := 0, restarts := 0 } }
  launch := { storing.launch with spill := 0x24000, comp := { pa := 0x28000, va := 0x28000 } } }
theorem rich_pa (acc : Access) (va : Nat) (h : acc ≠ .fetch) : rich.pa acc va = if 0x20000 ≤ va ∧ va < 0x30000 then some va else none :=
  demo_pa acc va h
theorem rich_paged (acc : Access) (h : acc ≠ .fetch) : rich.paged acc := demo_paged acc h
theorem rich_focused : rich.Focused := ⟨by decide +kernel, by decide +kernel, by decide +kernel⟩
theorem rich_ownNewest : rich.ownNewest := by unfold State.ownNewest; decide +kernel

def store : Args := { wide := true, fmt := 29, a := .slice 64 7, b := .xreg 4 0 0, c := .imm 8, ord := 3, scope := 1 }
theorem witness_Stores : rich.paged .store ∧ rich.ownNewest ∧ store.homeRelease = false ∧ rich.native accAll 29 = some 29 ∧ Readable rich store.operands
    ∧ memOk (store.withFmt 29) = true ∧ (∀ i ∈ lanesOf (rich.active 0), (rich.ea store i).p = false)
    ∧ Accessible rich .store 8 8 ((lanesOf (rich.active 0)).map fun i => (i, (rich.ea store i).v))
    ∧ rich.plot.held.length + rich.plot.silo.length + 2 * 32 ≤ rich.plot.heldRoom :=
  ⟨rich_paged _ (by decide), rich_ownNewest, by decide +kernel, by decide +kernel, by unfold Readable; decide +kernel, by decide +kernel,
    by decide +kernel, by unfold Accessible; decide +kernel, by decide +kernel⟩
/-- A source that is poisoned, stored where no other plot has a copy. -/
theorem witness_Stores_poison : (rich.src false 64 (.xreg 6 0 0) 3).p = true ∧ (rich.pa .store 0x20008).any rich.lineShared = false
    ∧ (rich.pa .store 0x2000F).any rich.lineShared = false := by decide +kernel
theorem witness_Stores_scatter :
    let f : Args := { fmt := 27, a := .slice 64 5, b := .xreg 4 0 0, c := .slice 0 5 }
    gathShape (fmtBits 27) f.a f.c = some (1, 32) ∧ Readable rich f.operands ∧ f.homeRelease = false
    ∧ (∀ i ∈ lanesOf (rich.active 0), (rich.src false 64 f.b i).p = false ∧ (rich.src false 32 f.c i).p = false)
    ∧ Accessible rich .store 4 4 ((lanesOf (rich.active 0)).map fun i => (i, 0x20000)) := by unfold Readable Accessible; decide +kernel
theorem witness_Stores_home :
    let f : Args := { store with scope := 3 }
    rich.Focused ∧ rich.memWf ∧ f.homeRelease = true ∧ Readable rich f.operands ∧ memOk (f.withFmt 29) = true
    ∧ rich.ejobs = [] ∧ rich.core.seq = [] ∧ rich.plot.savedOps = [] ∧ rich.rets = [] ∧ rich.plot.flags = 0 ∧ rich.checkBlocked = false :=
  ⟨rich_focused, by unfold State.memWf; decide +kernel, by decide +kernel, by unfold Readable; decide +kernel, by decide +kernel,
    by decide +kernel, by decide +kernel, by decide +kernel, by decide +kernel, by decide +kernel, by decide +kernel⟩
/-- A release scatter at die scope, one word in all lanes; no queue lies there. -/
theorem witness_Stores_homeScatter :
    let f : Args := { wide := true, fmt := 27, a := .slice 64 5, b := .xreg 4 0 0, c := .slice 0 5, ord := 1, scope := 2 }
    f.homeRelease = true ∧ gathShape (fmtBits 27) f.a f.c = some (1, 32) ∧ Readable rich f.operands ∧ rich.native accAll 27 = some 27
    ∧ (∀ i ∈ lanesOf (rich.active 0), (rich.src false 64 f.b i).p = false ∧ (rich.src false 32 f.c i).p = false)
    ∧ Accessible rich .store 4 4 ((lanesOf (rich.active 0)).map fun i => (i, 0x20000))
    ∧ ∀ x ∈ storedBytes rich [(0x20000, 4, 7, false)], ∀ q ∈ rich.trapQueues ++ rich.faultQueues, x.1 < q ∨ q + 9 ≤ x.1 := by
  unfold Readable Accessible; decide +kernel
theorem witness_Boundaries : rich.Focused ∧ rich.memWf ∧ rich.rets = [] ∧ rich.plot.flags = 0 ∧ rich.commitBlocked rich.plot = false
    ∧ (1 : BitVec 3).toNat < 2 ∧ 2 ≤ (4 : BitVec 3).toNat ∧ (4 : BitVec 3).toNat < 5 ∧ rich.checkBlocked = false :=
  ⟨rich_focused, by unfold State.memWf; decide +kernel, by decide +kernel, by decide +kernel, by decide +kernel, by decide, by decide, by decide,
    by decide +kernel⟩
/-- A sampled plot whose second run agrees, and one whose second run is behind. -/
theorem witness_Boundaries_sampled :
    let s : State := { rich with plot := { rich.plot with sampled := true, twin := 2 } }
    s.plot.sampled = true ∧ s.checkBlocked = false ∧ ({ s.plot with second := .behind } : Plot).second ≠ .alike := by decide +kernel
/-- Another furrow of the plot stands between the halves of a P frame. -/
theorem witness_Boundaries_pair :
    let s : State := { rich with furs := [{ id := 50, plot := rich.plot.id, status := .ready, splits := [{ valid := true, pc := 0x10004, mask := 1 }, {}, {}, {}] }] }
    s.pairOpen = true ∧ s.rets = [] ∧ s.plot.flags = 0 ∧ s.memWf := by unfold State.memWf; decide +kernel
theorem witness_PrefetchFlushDiscard :
    let f : Args := { b := .xreg 4 0 0, c := .imm 3 }
    Readable rich [f.b, f.c] ∧ (rich.uni (rich.active 0) f.b).p = false ∧ (rich.uni (rich.active 0) f.b).v % 64 = 0 ∧ rich.checkBlocked = false ∧ 0x20000 + 64 ≤ aperture
    ∧ (∀ sec ∈ [0x800, 0x801, 0x802], (rich.trapQueues ++ rich.faultQueues).any (· / 64 == sec) = false) ∧ (3 : BitVec 11) ≠ 0
    ∧ (let g : Operand := .xreg 9 0 0; Readable rich [f.b, g] ∧ (rich.uniU (rich.active 0) g).p = false ∧ (rich.uniU (rich.active 0) g).v = 0)
    ∧ rich.spanStop .store (rich.uniLane (rich.active 0)) 0x20000 (64 * 3) = none := by unfold Readable; decide +kernel

/-- Reductions that staging has room for, and one that it has not. -/
theorem witness_PrefetchFlushDiscard_reductions :
    let r : RedEntry := { key := (0, 0, 0, 0), pa := 0x20080, op := 0, fmt := 27, rnd := 0, val := 1, plot := rich.plot.id }
    let s : State := { rich with launch := { rich.launch with det := true, stageVa := 0x2A000, stageN := 1 }, core := { rich.core with red := [r, r] } }
    s.launch.det = true ∧ s.launch.stageN - s.launch.staged.length < (s.core.red.filter (·.plot = s.plot.id)).length ∧ s.checkBlocked = false ∧ s.rets = []
    ∧ ({ s with core := { s.core with red := [r] } } : State).core.red.length ≤ 1 := by decide +kernel

def atom : Args := { wide := true, fmt := 27, a := .slice 200 5, b := .xreg 7 0 0, c := .slice 64 5, d := .slice 72 5, scope := 3, ord := 1 }
/-- The same with a word at 0x20080, whose sector no entry covers, in x7. -/
def atomic : State := { rich with fur := { rich.fur with xregs := setAt rich.fur.xregs 7 0x20080 } }
theorem atomic_ready : AtomReady atomic .add atom 27 :=
  ⟨by unfold State.memWf; decide +kernel, by decide +kernel, by unfold Accessible; decide +kernel, by decide +kernel, by decide +kernel, fun _ => by decide +kernel⟩
theorem witness_Atomics : atomic.Focused ∧ atomic.paged .atomic ∧ atomic.rets = [] ∧ atomic.active atom.guard ≠ 0
    ∧ atomic.native AtomOp.add.accepts 27 = some 27 ∧ atomOk (atom.withFmt 27) = true ∧ Readable atomic atom.operands ∧ atomic.redRoom = false ∧ atomic.checkBlocked = false :=
  ⟨⟨by decide +kernel, by decide +kernel, by decide +kernel⟩, demo_paged _ (by decide), by decide +kernel, by decide +kernel, by decide +kernel,
    by decide +kernel, by unfold Readable; decide +kernel, by decide +kernel, by decide +kernel⟩
theorem witness_Atomics_legacy :
    let s := queued atomic
    let r := s.legacyTrap
    s.trapsFull = false ∧ s.native AtomOp.winc.accepts 27 = some 27 ∧ (∀ l ∈ r.atomLanes 27 atom (r.active 0), r.poisoned.contains (l.pa / 64) = false)
    ∧ Accessible r .atomic 4 4 ((lanesOf (r.active 0)).map fun i => (i, (r.src false 64 atom.b i).v)) := by unfold Accessible; decide +kernel
theorem witness_Atomics_values : (7 : Nat) < 2 ^ fmtBits 26 ∧ fmtIsInt 26 = true := by decide
def determinate : State := { atomic with launch := { atomic.launch with det := true, stageVa := 0x2A000, stageN := 100 } }
theorem witness_Atomics_staged :
    let f : Args := { atom with scope := 1, ord := 0 }
    atomRel .add f = false ∧ atomAcq .add f = false ∧ determinate.redRoom = true
    ∧ determinate.core.red.length + 32 ≤ 1024 := by decide +kernel

theorem witness_Waits :
    let f : Args := { a := .imm 2, b := .xreg 4 0 0, c := .imm 5 }
    Readable rich [f.b, f.c] ∧ (rich.uni (rich.active 0) f.b).p = false ∧ Accessible rich .load 8 8 [(rich.uniLane (rich.active 0), 0x20000)]
    ∧ rich.scopeOk (waitScope f) 0x20000 = true ∧ rich.launch.cancel = false ∧ ¬5 ≤ Memory.readN rich.mem 0x20000 8 ∧ 0 ≤ Memory.readN rich.mem 0x20000 8 := by
  unfold Readable Accessible; decide +kernel
theorem witness_Waits_slots :
    let s : State := { rich with fur := { rich.fur with watch := [{}, { armed := true, fired := true, addr := 0x20000 }, { armed := true, addr := 0x20000 }, {}] } }
    let ready := fun (m : BitVec 4) k => m.getLsbD k && (s.fur.watch.getD k {}).armed && (s.fur.watch.getD k {}).fired
    ready 15 1 = true ∧ (∀ j < 1, ready 15 j = false) ∧ s.scopeOk 3 (s.homePa 0x20000) = true
    ∧ (∃ k < 4, (4 : BitVec 4).getLsbD k = true ∧ (s.fur.watch.getD k {}).armed = true) ∧ (∀ k < 4, ready 4 k = false) := by decide +kernel
/-- At 100 ns. -/
def later : State := { rich with timeNs := 100 }
theorem witness_Waits_time :
    Readable later [.slice 40 7, .imm 104, .imm 5] ∧ (50 : Nat) ≤ later.timeNs % 2 ^ 64 ∧ later.timeNs % 2 ^ 64 < 104 ∧ later.launch.cancel = false
    ∧ ¬toSigned 64 5 < toSigned 64 (wrap 64 ((104 : Int) - 100)) ∧ toSigned 64 2 < toSigned 64 (wrap 64 ((104 : Int) - 100)) := by unfold Readable; decide +kernel

/-! Control -/

theorem witness_UniformBranches : demo.active 0 ≠ 0 ∧ demo.active 1 = 0 ∧ demo.xp 4 = false ∧ (demo.x 4).toNat % 8 = 0
    ∧ (∀ i < 32, (demo.active 2).getLsbD i = true → (demo.mask 2).getLsbD i = true) ∧ (∃ i < 32, (demo.active 0).getLsbD i = true ∧ (demo.mask 2).getLsbD i = true)
    ∧ (∀ i < 32, (demo.active 0).getLsbD i = true → (demo.mask 1).getLsbD i = false) := by decide +kernel
/-- Two splits, the second in the issue stage. -/
def split2 (s : State) : State := { s with fur := { s.fur with cur := 1, splits := [{ valid := true, pc := 0x10010, mask := 0xF, pass := 3, held := true }, { valid := true, pc := 0x10000, mask := 0xFFFFFFF0, pass := 2 }, {}, {}] } }
theorem witness_Divergence : (split2 demo).split.valid = true ∧ (split2 demo).m0 ≠ 0
    ∧ Readable (split2 demo) [.xreg 4 0 0] ∧ (∀ i ∈ lanesOf ((split2 demo).active 0), ((split2 demo).src false 64 (.xreg 4 0 0) i).p = false
       ∧ ((split2 demo).src false 64 (.xreg 4 0 0) i).v % 8 = 0) ∧ (split2 demo).fur.splits.length = 4 := by unfold Readable; decide +kernel
/-- Where the lanes go: those of m2 to 0x10040. -/
def dest (i : Nat) : Word := if ((split2 demo).active 0).getLsbD i && ((split2 demo).mask 2).getLsbD i then 0x10040 else (split2 demo).fur.npc
theorem witness_Divergence_counts : (0x10040 : Word) ≠ (split2 demo).fur.npc ∧ [(0x10008 : Word), 0x10040].Nodup
    ∧ (∀ i ∈ lanesOf (split2 demo).m0, dest i ∈ [(0x10008 : Word), 0x10040])
    ∧ [(0x10008 : Word), 0x10040].length ≤ ((List.range 4).filter fun k => !((split2 demo).fur.splits.getD k {}).valid).length + 1 := by decide +kernel
theorem witness_Divergence_reached : (4 ∈ lanesOf (split2 demo).m0 ∧ dest 4 = 0x10008) ∧ 16 ∈ lanesOf (split2 demo).m0 ∧ dest 16 = 0x10040 := by decide +kernel

/-- Page tables of the job: the data page. -/
def tables (m : Memory) : Memory :=
  [(0x40000, 0x41003), (0x41000, 0x42003), (0x42000, 0x43003), (0x43010, 0x20031)].foldl (fun m (p : Nat × Nat) => Memory.writeN m p.1 8 p.2) m
/-- The demonstration with page tables, an arena of two frames, a code object with a callable entry, and a second furrow. -/
def paged : State := { demo with
  mem := tables demo.mem
  job := { demo.job with root := 0x40000, arenaVa := 0x20400, arenaN := 2, objs := [{ va := 0x10000, hdr := BitVec.ofNat 1024 (0x100 * 2 ^ 256 + 0x1000 * 2 ^ 288 + 0x80 * 2 ^ 320), entries := [BitVec.ofNat 256 (2 ^ 48 + 3 * 2 ^ 32)] }] }
  furs := [{ id := 50, plot := demo.plot.id, status := .ready, logical := 1 }] }
theorem paged_focused : paged.Focused := ⟨by decide +kernel, by decide +kernel, by decide +kernel⟩
theorem witness_Ends : paged.Focused ∧ paged.memWf ∧ paged.fur.ownFrame = none ∧ (paged.fur.splits.filter (·.valid)).length ≤ 1
    ∧ 2 ≤ ((split2 paged).fur.splits.filter (·.valid)).length ∧ ∃ g ∈ paged.furs, g.plot = paged.plot.id :=
  ⟨paged_focused, by unfold State.memWf; decide +kernel, by decide +kernel, by decide +kernel, by decide +kernel, by decide +kernel⟩
theorem witness_Ends_plot : (∀ g ∈ demo.furs, g.plot ≠ demo.plot.id) ∧ (∀ q ∈ demo.core.callq, q.plot ≠ demo.plot.id) ∧ demo.ejobs = [] ∧ demo.core.seq = []
    ∧ demo.core.red = [] ∧ demo.plot.held = [] ∧ demo.plot.silo = [] ∧ demo.plot.flags = 0 ∧ demo.launch.cancel = false
    ∧ demo.plot.runsApart = false ∧ demo.fur.ownFrame = none
    -- areas of the plot and of another one
    ∧ (([{ va := 0x90000, pa := 0x90000, pages := 2, plot := demo.plot.id }, { va := 0xB0000, pa := 0xB0000, pages := 1, plot := 0 }] : List Area).filter
        fun (a : Area) => a.plot == demo.plot.id).length = 1 := by decide +kernel
/-- A callee whose frame waits for one return. -/
def called : State := { paged with
  fur := { paged.fur with ownFrame := some 0x20400 }, mem := Memory.writeN (Memory.writeN paged.mem 0x2040C 4 1) 0x20410 1 5
  plot := { paged.plot with silo := [{ sector := 0x800, va := 0x800, data := 1, mask := 1, tag := 0, vis := false, poison := false }] } }
theorem witness_Ends_callee : called.fur.ownFrame = some 0x20400 ∧ called.plot.silo ≠ [] ∧ (∀ e ∈ called.plot.entries, e.meetsPa 0x2040C 4 = false)
    ∧ called.jobPa called.job .store (0x20400 + 12) = some 0x2040C ∧ (∃ g ∈ called.furs, g.plot = called.plot.id)
    ∧ called.frameStop 0x20400 = none ∧ (called.view false (0x20400 + 16) 16).v = 5 ∧ Memory.readN called.mem 0x2040C 4 = 1
    ∧ Memory.wf called.mem = true ∧ (∀ k < 4, called.fixedByte (0x2040C + k) = 0) := by decide +kernel
/-- A return that writes units 0 and 2 back: no entry reaches JOIN. -/
theorem witness_CallsAndSpawns_return :
    let units := (List.range (min 8 (called.fur.budget / 8))).filter fun u => (5 : Nat).testBit u
    let stored := called.putImage false 0x20400 (units.flatMap (unitData called.fur.lanes called.m0) ++ units.flatMap (unitPoison called.fur.lanes called.m0))
    units = [0, 2] ∧ stored.plot.held.length ≤ called.plot.heldRoom ∧ (∀ e ∈ called.plot.entries ++ stored.plot.entries, e.meetsPa 0x2040C 4 = false) := by
  decide +kernel
theorem called_focused : called.Focused := ⟨by decide +kernel, by decide +kernel, by decide +kernel⟩
theorem witness_CallsAndSpawns :
    let s : State := { split2 paged with fur := { (split2 paged).fur with xregs := setAt paged.fur.xregs 7 0x10080 } }
    Readable s [.xreg 7 0 0] ∧ s.plot.team = 0 ∧ (∀ i ∈ lanesOf (s.active 0), (s.src false 64 (.xreg 7 0 0) i).p = false)
    ∧ (∀ i ∈ lanesOf (s.active 0), ((s.callTarget (s.src false 64 (.xreg 7 0 0) i).v).map fun p => entryBudget p.2) = some 256)
    ∧ s.freeFrame = some 0 ∧ s.frameStop (s.job.frameVa 0) = none ∧ s.core.callq.length + 32 ≤ 64 ∧ 2 ≤ (s.fur.splits.filter (·.valid)).length
    ∧ s.active 1 = 0 ∧ s.indexInUse 3 = false
    ∧ (callGroups (s.active 0) fun i => BitVec.ofNat 64 (s.src false 64 (.xreg 7 0 0) i).v).length = 1 := by unfold Readable; decide +kernel
/-- The frame of a call with one live unit fits the plot's store area. -/
theorem witness_CallsAndSpawns_frame :
    let s : State := { split2 paged with job := { paged.job with
      objs := paged.job.objs.map fun o => { o with va := paged.fur.obj, maps := [((split2 paged).split.pc - paged.fur.codeLo).toNat].map fun k => (k, 4) } } }
    liveBits s.fur.budget s.liveMap = 4
    ∧ (s.shown.putImage true (s.job.frameVa 0) (s.frameItems 0 1 (liveBits s.fur.budget s.liveMap))).plot.held.length ≤ s.plot.heldRoom := by
  decide +kernel
/-- The same call by a furrow with one valid split. -/
theorem witness_CallsAndSpawns_single :
    let s : State := { paged with fur := { paged.fur with xregs := setAt paged.fur.xregs 7 0x10080 } }
    (s.fur.splits.filter (·.valid)).length ≤ 1 ∧ s.fur.id ≠ 0 ∧ s.active 0 ≠ 0 ∧ Readable s [.xreg 7 0 0] ∧ s.freeFrame = some 0
    ∧ ((s.callTarget 0x10080).map fun p => entryBudget p.2) = some 256 := by unfold Readable; decide +kernel
theorem witness_Yields : demo.plot.team = 0 ∧ demo.launch.cancel = false ∧ demo.plot.bars = [] ∧ demo.plot.preempt = false ∧ demo.xp 4 = false
    ∧ (demo.fur.splits.filter (·.valid)).length ≤ 1 ∧ Accessible demo .load 8 8 [(demo.uniLane (demo.active 0), (demo.x 4).toNat)] ∧ Readable demo [.imm 3]
    ∧ Memory.readN demo.mem 0x20000 8 = 0 ∧ demo.scopeOk 3 0x20000 = true := by unfold Accessible Readable; decide +kernel
/-- A pre-emption is wanted of a furrow with a context area. -/
theorem witness_Yields_preempted :
    let s : State := { demo with plot := { demo.plot with preempt := true }, fur := { demo.fur with ctxPa := 0x50000, ctxVa := 0x50000 } }
    s.plot.preempt = true ∧ s.memWf ∧ s.fur.ctxPa ≠ 0 ∧ s.fur.budget ≤ 1024 ∧ unitLive s.fur.budget s.liveMap 3 = true ∧ 3 < s.fur.budget / 8
    ∧ decide (0 ≤ Memory.readN s.mem 0x20000 8) = true ∧ s.scopeOk 3 0x20000 = true := by unfold State.memWf; decide +kernel
/-- Three furrows of the launch, of which the second is in the issue stage. -/
def barring (bars : List Barrier) : State := { paged with
  fur := { paged.fur with logical := 1 }, plot := { paged.plot with had := 7, bars := bars }, launch := { paged.launch with furrows := 3 } }
theorem witness_Barriers : (barring []).Focused ∧ (barring []).fur.ownFrame = none ∧ (barring []).launch.cancel = false
    ∧ (let s := barring [{ n := 2, parts := 7, arrived := 5, fur := 9, since := 4 }, { n := 5, parts := 7, arrived := 1, fur := 9, since := 4 }]
       let parts := s.barParts { c := .imm 2 }
       parts = 7 ∧ parts &&& ~~~s.plot.had = 0 ∧ (∀ b ∈ s.plot.bars, b.n ≠ 2 → b.parts &&& ~~~(b.arrived ||| s.savedMask) ≠ 0)
       ∧ s.fur.status = .ready ∧ (s.fur.splits.filter (·.valid)).length ≤ 1 ∧ parts &&& ~~~(5 ||| BitVec.ofNat 32 (2 ^ s.fur.logical.toNat)) = 0)
    ∧ (7 : Mask) &&& ~~~(0 ||| BitVec.ofNat 32 (2 ^ (barring []).fur.logical.toNat)) ≠ 0 :=
  ⟨⟨by decide +kernel, by decide +kernel, by decide +kernel⟩, by decide +kernel, by decide +kernel, by decide +kernel, by decide +kernel⟩
theorem witness_RegionsHintsCancels :
    let s : State := { demo with
      launches := [{ id := 300, job := demo.job.id, live := true, comp := { va := 0x20000 } }], job := { demo.job with pastRecs := [(1, 0x20040)] } }
    (1, s.x 7) ∈ s.job.pastRecs ∧ (∀ l ∈ s.launch :: s.launches, l.comp.va ≠ s.x 7) ∧ s.graphs = [] ∧ s.seasons = []
    ∧ (∀ x ∈ s.launch :: s.launches, x.comp.va = s.x 4 → x.id = 300 ∧ x.live = true ∧ x.job = s.job.id) ∧ (∀ p ∈ s.plot :: s.plots, p.launch ≠ 300) := by decide +kernel

/-- The last arrival, counting a participant that a pre-emption has saved. -/
theorem witness_Barriers_saved :
    let s : State := { barring [{ n := 2, parts := 7, arrived := 1, fur := 9, since := 4 }] with furs := [{ id := 50, plot := paged.plot.id, status := .saved, logical := 2 }] }
    s.savedMask = 4 ∧ (7 : Mask) &&& ~~~((1 ||| BitVec.ofNat 32 (2 ^ s.fur.logical.toNat)) ||| s.savedMask) = 0 := by decide +kernel

/-! Faults and the system -/

theorem queued_room : TrapRoom (queued demo) :=
  ⟨by decide +kernel, by decide +kernel, by decide +kernel, by decide +kernel, by unfold State.memWf; decide +kernel⟩
theorem witness_PreciseFaults : (queued demo).trapsFull = false ∧ (queued demo).launch.cancel = false ∧ savesPlot .align = false
    ∧ State.trapsFull { queued demo with mem := Memory.writeN (queued demo).mem 0x28110 8 64 } = true
    ∧ (queued demo).plot.holdsFault .align = false ∧ disposition .align = .endJob ∧ (queued demo).countsOpen = false
    ∧ ({ (queued demo).plot with sampled := true, second := .behind } : Plot).holdsFault .align = true
    ∧ ({ (queued demo).plot with second := .behind } : Plot).second ≠ .apart (.fault .align) := by decide +kernel
theorem witness_NamesAreChecked : fmtIsClass 0 = true ∧ fmtIsClass 26 = false ∧ (∃ o ∈ [Operand.slice 1020 7], o.inBudget demo.fur.budget = false)
    ∧ (∃ o ∈ [Operand.latch 0], o.inBudget demo.fur.budget = true ∧ o.inWindow demo.fur.latches.length = false) := by decide +kernel
/-- A privileged furrow. -/
def privileged : State := { queued paged with fur := { paged.fur with priv := true, xregs := setAt (setAt paged.fur.xregs 8 0x3014195F3C00002B) 2 5 } }
theorem privileged_focused : privileged.Focused := ⟨by decide +kernel, by decide +kernel, by decide +kernel⟩
theorem witness_PrivilegedOperations : privileged.fur.priv = true ∧ demo.fur.priv = false ∧ Readable privileged [.imm 30] ∧ privileged.zones.length = 96
    ∧ (let v := privileged.x 8
       let old := privileged.zone 30
       (v.extractLsb' 4 4).toNat ≤ (v.extractLsb' 0 4).toNat ∧ privileged.dieSteps 1 - old.step + (v.extractLsb' 0 4).toNat ≤ 288 ∧ old.dry = false
       ∧ old.drain = none ∧ v.extractLsb' 56 4 = 0) := by unfold Readable; decide +kernel
/-- Registers read and written, ones that do not exist, and words of the translation caches. -/
theorem witness_PrivilegedOperations_registers : (0x00A, privileged.plot.barto) = (10, 1048576) ∧ privileged.fur.logical.toNat = 0 ∧ demo.active 0 ≠ 0 ∧ demo.active 1 = 0
    ∧ (¬((0x100 : Nat) = 0x101 ∨ (0x180 ≤ 0x00A ∧ 0x00A ≤ 0x1DF))) ∧ (privileged.x 2).toNat = 5 ∧ ¬((privileged.x 4).toNat = 0 ∨ (4 ≤ (privileged.x 4).toNat ∧ (privileged.x 4).toNat ≤ 16))
    ∧ dataPage ∈ privileged.core.tlb ∧ Readable privileged [.imm 1, .xreg 4 0 0]
    ∧ (dataPage.va ≤ (privileged.x 4).toNat ∧ (privileged.x 4).toNat < dataPage.va + dataPage.size) := by unfold Readable; decide +kernel
theorem witness_Traps : (queued demo).fur.priv = false ∧ privileged.trapsFull = false
    ∧ (∀ k ∈ [512, 515, 517], privileged.callWait k = none ∧ (((privileged.advance.endRegion).handledRecord (privileged.trapRec k)).kernelCall k).1.fur.id = privileged.fur.id)
    ∧ unitOf (privileged.x 2).toNat = some (.sensor 0 0) ∧ (∀ j ∈ privileged.allJobs, j.live = true → j.asid ≠ 5) := by decide +kernel
theorem witness_Traps_return :
    let s : State := { privileged with
      trapSeq := 7, fur := { privileged.fur with xregs := setAt privileged.fur.xregs 4 0x29000 }, mem := Memory.writeN privileged.mem (0x29000 + 88) 8 1
      furs := [{ id := 60, plot := paged.plot.id, status := .trapped 1 .align 0 0x29000 }] }
    s.xp 4 = false ∧ s.spanStop .load ((lowest s.m0).getD 0) (s.x 4).toNat 256 = none ∧ s.pa .load (s.x 4).toNat = some 0x29000
    ∧ s.fur.status = .ready ∧ s.furs.length = 1 ∧ Memory.readN s.mem (0x29000 + 88) 8 = 1 ∧ (Memory.readN s.mem 0x29000 4).testBit 18 = false ∧ s.memWf := by unfold State.memWf; decide +kernel


/-! Engine jobs, tiles, bins and the sequencer's queue -/

/-- A valid tile of format `fmt`. -/
def tile (fmt rows bytes : Nat) : Tile :=
  { ctl := BitVec.ofNat 32 (fmt + (rows - 1) * 2 ^ 5 + (bytes - 1) * 2 ^ 12 + 2 ^ 21), bytes := [(3, 5), (40, 9)], scales := [(3, 0x80)] }
/-- What the furrow stored in a sector. -/
def entry (sector : Nat) (v : BitVec 512) : SiloEntry := { sector := sector, va := sector, data := v, mask := 0xFFFFFFFFFFFFFFFF, tag := 0, vis := false, poison := false }
/-- Records at 0x21000 and 0x21040, a template at 0x21100, a collective's card at 0x21200 with its table at 0x21400, a write's
card at 0x21240, and a chain table. -/
def engines : State := { rich with
  job := { rich.job with ctableVa := 0x21100, ctableN := 7 }
  plot := { rich.plot with silo := [
    entry 0x840 0x1000000000000000140000000000024000,
    entry 0x841 0x1000000000000000140000000000025000,
    entry 0x844 0x7000000000002600000000000000210400000000000302050,
    entry 0x848 0x50000000000026000000000000000000000000000000000020000000000021400000000000002500000000000000240000000001000009401,
    entry 0x849 0x50000000000026000000000000000000000000000000000000000000000000000000000000000000000000000000240000000001000008002,
    entry 0x850 0x0,
    { sector := 0x940, va := 0x940, data := 77, mask := 0xFF, tag := 0, vis := false, poison := false }] }
  fur := { rich.fur with xregs := setAt (setAt (setAt rich.fur.xregs 10 0x21000) 14 0x21200) 15 0x21500 } }
theorem engines_focused : engines.Focused := ⟨by decide +kernel, by decide +kernel, by decide +kernel⟩
theorem witness_EngineIssue : engines.memWf ∧ engines.rets = [] ∧ engines.paged .store ∧ engines.ownNewest
    ∧ engines.plot.held.length + engines.plot.silo.length + 2 ≤ engines.plot.heldRoom :=
  ⟨by unfold State.memWf; decide +kernel, by decide +kernel, demo_paged _ (by decide), by unfold State.ownNewest; decide +kernel, by decide +kernel⟩
theorem witness_EngineIssue_records :
    let s := engines
    let lane := s.uniLane (s.active 0)
    Readable s [.xreg 15 0 0, .xreg 10 0 0] ∧ (s.uni (s.active 0) (.xreg 10 0 0)).p = false ∧ Accessible s .load 64 64 [(lane, 0x21000)]
    ∧ Accessible s .store 64 64 [(lane, 0x21500)] ∧ (s.recOf (s.view false 0x21000 64).v).isSome = true
    ∧ 5 < s.job.templates ∧ s.draftStop lane 0x21100 (s.view false 0x21100 64).v = none ∧ Accessible s .store 64 64 [(lane, s.job.templateAt 5)] := by
  unfold Readable Accessible; decide +kernel
theorem witness_EngineIssue_copies : engines.active 0 ≠ 0 ∧ engines.active 1 = 0 ∧ engines.xp 0 = false ∧ engines.xp 10 = false ∧ engines.plot.chans.length = 16
    ∧ (match engines.copyJob 0 (some false) 3 (engines.x 0).toNat (engines.x 10).toNat with | .ok (e, _) => decide (engines.issueStop e = none) | .error _ => false) = true := by decide +kernel
theorem witness_EngineIssue_cards :
    let s := engines
    let lane := s.uniLane (s.active 0)
    Accessible s .load 64 64 [(lane, 0x21200)] ∧ Accessible s .load 64 64 [(lane, 0x21240)]
    ∧ (match s.fetchView lane 0x21200 64 with
       | .ok (cw, _) => cardOk 1 cw && decide (s.issueStop (s.newJob .coll 0 cw 0 0 (cardParse cw).regions) = none)
           && (match s.fetchView lane (cardParse cw).peer (4 * (cardParse cw).n) with | .ok (table, _) => decide (∀ r < (cardParse cw).n, bitsOf table (32 * r + 16) 16 = 0) | .error _ => false)
       | .error _ => false) = true
    ∧ (match s.fetchView lane 0x21240 64 with | .ok (cw, _) => cardOk 2 cw && decide (s.issueStop (s.newJob .nwr 0 cw 0 0 (cardParse cw).regions) = none) | .error _ => false) = true := by
  unfold Accessible; decide +kernel

/-- Five tiles and four bins, nothing staged. -/
def tiled : State := { engines with
  plot := { engines.plot with silo := [], held := [], tiles := [tile 19 16 32, tile 19 16 32, {}, tile 19 16 32, tile 18 16 32]
                              bins := [{ elems := [(5, 3), (130, 9)], recs := [(4, 0x4000000000000000001)], step := 2, steps := 5 }, {}, {}, {}] } }
theorem witness_TilesAndBins : tiled.fur.status = .ready ∧ (tiled.fur.splits.filter (·.valid)).length ≤ 1 ∧ tiled.plot.team &&& tiled.me = 0
    ∧ (∀ o ∈ tiled.core.seq, o.listed = []) ∧ (tiled.tile 2).isSome = true ∧ Readable tiled [.imm 7, .imm 64]
    ∧ (match tiled.resolve 19 with | some c => tcfgOk c.fmt 7 64 (c.scheme == 1) | none => false) = true ∧ tiled.tileNamed 2 = false := by unfold Readable; decide +kernel
theorem witness_TilesAndBins_rows :
    let u := (tiled.tile 1).getD {}
    tiled.tileBusy tiled.me 1 = false ∧ tileValid u = true ∧ 15 < tileRows u ∧ Readable tiled [.slice 64 7, .imm 15, .imm 128]
    ∧ (∀ i ∈ lanesOf (tiled.active 0), (tiled.src false 64 (.slice 64 7) i).p = false) ∧ swf (0 : Byte) u.bytes = true ∧ swf (0x7F : Byte) u.scales = true := by
  unfold Readable; decide +kernel
theorem witness_TilesAndBins_bins :
    let u := (tiled.bin 0).getD {}
    (tiled.bin 0).isSome = true ∧ tiled.binOrdered tiled.me 0 = false ∧ tiled.recordBusy tiled.me 0 = false ∧ u.busy = false ∧ Readable tiled [.slice 64 7, .imm 255, .imm 268, .imm 271]
    ∧ swf (0 : BitVec 32) u.elems = true ∧ swf (0 : BitVec 256) u.recs = true := by unfold Readable; decide +kernel

/-- Words 0 and 2 of a row write land before it is performed (R256); the others still read as they were. -/
theorem test_words_land :
    let w := sWord 0x349 0 0 0 0x1 0x3000 0x007
    let s : State := { tiled with
      mem := Memory.writeN tiled.mem ((tiled.pa .fetch tiled.split.pc.toNat).getD 0) 8 w.toNat, input := .furrowWords tiled.fur.id [(1, 0, 0), (1, 0, 2)] []
      fur := { tiled.fur with deadline := 4096, lanes := (List.range 32).map fun i => { data := BitVec.ofNat 4096 (i + 7) } } }
    (match exec .sequencerStep s with | .next t => (List.range 4).map fun i => ((t.tile 1).getD {}).laneWord 0 i | _ => []) = [7, 0, 9, 0] := by decide +kernel

theorem tiled_focused : tiled.Focused := ⟨by decide +kernel, by decide +kernel, by decide +kernel⟩
/-- A team of three furrows. -/
def teamed (yokes : List Yoke) : State := { tiled with
  plot := { tiled.plot with team := 7, yokes := yokes }, fur := { tiled.fur with yokes := 2 }
  furs := [{ id := 50, plot := tiled.plot.id, status := .yoke 3, logical := 1, yokes := 2 }, { id := 51, plot := tiled.plot.id, status := .yoke 3, logical := 2, yokes := 2 }] }
theorem witness_TeamsAndYokes :
    let s : State := { teamed [] with plot := { tiled.plot with team := 0 } }
    let m := (7 : BitVec 11).signExtend 32
    s.plot.team = 0 ∧ m ≠ 0 ∧ 2 ≤ countBits 32 m.getLsbD ∧ countBits 32 m.getLsbD ≤ 6 ∧ m &&& s.me ≠ 0
    ∧ (∀ k < 32, m.getLsbD k = true → ∃ g ∈ s.fur :: s.furs, g.plot = s.plot.id ∧ g.logical.toNat = k ∧ g.id ≠ 0) ∧ s.fur.ownFrame = none
    ∧ m = (teamed []).plot.team ∧ (3 : BitVec 11).signExtend 32 ≠ (teamed []).plot.team := by decide +kernel
/-- Masks of one furrow and of seven, and a furrow that its plot's team does not list. -/
theorem witness_TeamsAndYokes_illegal : countBits 32 ((1 : BitVec 11).signExtend 32).getLsbD < 2 ∧ 6 < countBits 32 ((0x7F : BitVec 11).signExtend 32).getLsbD
    ∧ (let s : State := { teamed [] with plot := { (teamed []).plot with team := 6 } }; s.plot.team ≠ 0 ∧ s.plot.team &&& s.me = 0) ∧ (0 : BitVec 11).signExtend 32 = 0 := by decide +kernel
/-- The last arrival, counting a furrow that is saved: of a BCLR, and of a TEAM with 0 or another mask. -/
theorem witness_TeamsAndYokes_saved :
    let y : Yoke := { j := 3, instr := .bclr { a := .raw 1 }, ref := [], arrived := 2, fur := 50, since := 0 }
    let s : State := { teamed [y] with furs := [{ id := 50, plot := tiled.plot.id, status := .yoke 3, logical := 1, yokes := 2 }, { id := 51, plot := tiled.plot.id, status := .saved, logical := 2, yokes := 2 }] }
    (y.arrived ||| s.me ||| s.savedMask) &&& s.plot.team = s.plot.team ∧ (s.bin 1).isSome = true ∧ s.core.seq.length < 16 ∧ s.fur.ownFrame = none
    ∧ (0 : BitVec 11).signExtend 32 ≠ s.plot.team ∧ (5 : BitVec 11).signExtend 32 ≠ s.plot.team ∧ (0 ||| s.me ||| s.savedMask) &&& s.plot.team ≠ s.plot.team := by decide +kernel
theorem witness_TeamsAndYokes_arrivals : (teamed []).fur.status = .ready ∧ (teamed []).launch.cancel = false ∧ (teamed []).plot.team &&& (teamed []).me ≠ 0
    ∧ (teamed []).plot.yokes.find? (·.j = (teamed []).fur.yokes + 1) = none
    ∧ (let y : Yoke := { j := 3, instr := .bclr { a := .raw 1 }, ref := [], arrived := 6, fur := 50, since := 0 }
       let s := teamed [y]
       s.plot.yokes.find? (·.j = s.fur.yokes + 1) = some y ∧ y.arrived ||| s.me = s.plot.team ∧ (s.bin 1).isSome = true ∧ s.core.seq.length < 16
       ∧ ({ y with arrived := 2 } : Yoke).arrived ||| s.me ≠ s.plot.team ∧ y.instr ≠ .bclr { a := .raw 2 }) := by decide +kernel
theorem teamed_focused : (teamed []).Focused := ⟨by decide +kernel, by decide +kernel, by decide +kernel⟩

theorem witness_QueuedOperations : tiled.core.seq.length < 16 ∧ tiled.plot.held = [] ∧ tiled.plot.silo = []
    ∧ (match tiled.matFmt 19, tiled.matFmt 18, tiled.tile 0, tiled.tile 1, tiled.tile 4 with
       | some fa, some fb, some u, some v, some w =>
         decide (tileValid u = true ∧ tileFmt u = fa.fmt ∧ tileValid v = true ∧ tileFmt v = fa.fmt ∧ tileValid w = true ∧ tileFmt w = fb.fmt
         ∧ matPair fa fa = true ∧ matPair fa fb = true ∧ fa.split = false ∧ drainFmt fa.fmt = true ∧ tileCols u = tileRows v ∧ tileCols u = tileCols v ∧ tileCols v ≤ 128)
       | _, _, _, _, _ => false) = true
    ∧ ((tiled.bin 1).isSome = true ∧ (tiled.bin 2).isSome = true) ∧ paramsOk 0 ((0x3F800000 : BitVec 32), (0x3F800000 : BitVec 32)) = true
    ∧ tiled.binOrdered tiled.me 1 = false ∧ adjLen ((tiled.bin 1).getD {}) ((tiled.tile 0).getD {}) ≤ 128 := by decide +kernel
theorem witness_QueuedOperations_lengths :
    let u := (tiled.tile 0).getD {}
    let len := min (tileCols u) 128
    let nb := (len + 127) / 128
    let nt := (len + tileCols u - 1) / tileCols u
    nb = 1 ∧ nt = 1 ∧ 1 + nb ≤ tiled.plot.bins.length ∧ 0 + nt ≤ tiled.plot.tiles.length ∧ ((tiled.tile 0).getD {}).ctl = u.ctl ∧ ((tiled.tile 1).getD {}).ctl = u.ctl := by decide +kernel

theorem witness_LegacyTiles : tiled.job.legmc < 2 ^ 63 - 1 ∧ tiled.job.legtr < 2 ^ 63 - 1
    ∧ (let d := (tiled.tile 0).getD {}
       let u := (tiled.tile 1).getD {}
       fmtBits (tileFmt u) ∈ [8, 16, 32] ∧ tileScaled d = tileScaled u ∧ tileRows d = tileCols u ∧ tileCols d = tileRows u
       ∧ tileFmt u = 19 ∧ 16 ≤ tileRows u ∧ 16 ≤ tileCols u ∧ tiled.tileBusy tiled.me 0 = false) ∧ (queued tiled).trapsFull = false := by decide +kernel
/-- A bin at rest and one at work; no sequencer operation has the furrow's bin, and its plot has stored nothing. -/
theorem witness_LegacyTiles_bin : (tiled.bin 0).map (·.busy) = some false ∧ tiled.binOrdered tiled.me 0 = false ∧ tiled.plot.held = [] ∧ tiled.plot.silo = []
    ∧ (({ tiled with plot := { tiled.plot with bins := setAt tiled.plot.bins 0 { busy := true } } } : State).bin 0).map (·.busy) = some true := by decide +kernel
theorem witness_LegacyTiles_room : TrapRoom (queued tiled) :=
  ⟨by decide +kernel, by decide +kernel, by decide +kernel, by decide +kernel, by unfold State.memWf; decide +kernel⟩


/-! Commands and management -/

/-- Two slots, a live job in the first, a cancelled one, a furrow trapped to the host, and kernels running. -/
def module : State := { queued paged with
  job := { paged.job with slot := 5, regions := [{ base := 0x20000, len := 65536, rd := true, wr := true, near := true, die := 0 }] }
  launch := { paged.launch with comp := { va := 0x20000, pa := 0x20000 } }
  jobs := [{ id := 800, live := false, asid := 2, slot := 5, comp := { va := 0x123 } }]
  furs := [{ id := 50, plot := paged.plot.id, status := .trapped 1 .user 0 0x29000, logical := 1 }]
  trapSeq := 1, mem := Memory.writeN (queued paged).mem 0x29058 1 1
  fleet := { paged.fleet with
    booted := true, dies := List.replicate 4 { kernel := some 0 }, mgmtSeq := 4
    store := { paged.fleet.store with key := some 77, epoch := 3, slotA := some { version := 3, bytes := [1], signed := true }, minA := 1, minB := 2 }
    slots := [{ num := 5, key := 9, near := 100, far := 100, jobs := 4, seq := 2 }] } }
/-- A command, with the TAG that a key gives it (R313). -/
def header (key : BitVec 256) (type : BitVec 8) (slot : BitVec 32) (seq : Word) (asid : BitVec 16) (body : List Word) : CmdHdr :=
  let c : CmdHdr := { type := type, slot := slot, length := BitVec.ofNat 32 (8 * body.length), seq := seq, asid := asid, tag := 0, body := body }
  { c with tag := c.tagOf key }
theorem header_signed (key : BitVec 256) (type : BitVec 8) (slot : BitVec 32) (seq : Word) (asid : BitVec 16) (body : List Word) :
    (header key type slot seq asid body).signed key = true := by
  simp only [CmdHdr.signed, header, CmdHdr.tagOf, CmdHdr.pack, beq_self_eq_true]
theorem header_broken (key : BitVec 256) (c : CmdHdr) (h : c.tag = c.tagOf key + 1) : c.signed key = false := by
  simp only [CmdHdr.signed, h, beq_eq_false_iff_ne]
  exact fun e => absurd e (by generalize c.tagOf key = t; bv_omega)
/-- A command of the tenant at slot 5, and one of management. -/
def tenant (type : BitVec 8) (asid : BitVec 16) (body : List Word) : CmdHdr := header 9 type 5 7 asid body
def manager (type : BitVec 8) (body : List Word) : CmdHdr := header 77 type 0xFFFFFFFF 0x300000007 0 body
def given (x : Input) : State := { module with input := x }
theorem witness_CommandsAreChecked : module.fleet.booted = true ∧ State.reset.fleet.booted = false ∧ module.fleet.store.key = some 77 ∧ State.reset.fleet.store.key = none
    ∧ module.slotHeld 5 = false ∧ ({ module with job := { module.job with deleting := some 5 } } : State).slotHeld 5 = true
    ∧ module.slotOf 99 = none ∧ (module.slotOf 5).map (fun x => (x.key, x.seq)) = some (9, 2) ∧ 2 < (7 : Word).toNat ∧ (1 : Word).toNat ≤ 2
    ∧ (3 : Word).toNat ≤ module.fleet.mgmtSeq ∧ module.fleet.mgmtSeq < (0x300000007 : Word).toNat ∧ (0x300000007 : Word).extractLsb' 32 32 = module.fleet.store.epoch
    ∧ (0x400000007 : Word).extractLsb' 32 32 ≠ module.fleet.store.epoch := by decide +kernel
/-- Right, wrong and malformed commands: a TYPE of management from a tenant, one of a tenant from management, and another TYPE's number. -/
theorem witness_CommandsAreChecked_forms (asid : BitVec 16) :
    (commandOf (.zdrain (tenant 0x35 asid [3]))).map (fun p => (p.2.1.mgmt, p.2.2)) = some (true, tenant 0x35 asid [3])
    ∧ (commandOf (.jobdel (manager 0x11 []))).map (fun p => (p.2.1.mgmt || p.2.1.both, p.2.2)) = some (false, manager 0x11 [])
    ∧ (tenant 0x11 asid []).formOk 0x10 = false ∧ (tenant 0x10 asid [1]).formOk 0x10 = true ∧ (manager 0x11 [0]).formOk 0x36 = false
    ∧ ({ tenant 0x11 asid [] with version := 2 } : CmdHdr).formOk 0x11 = false := ⟨rfl, rfl, rfl, rfl, rfl, rfl⟩
theorem witness_CommandsAreChecked_tags (type : BitVec 8) (asid : BitVec 16) (body : List Word) :
    (tenant type asid body).signed 9 = true ∧ (manager type body).signed 77 = true
    ∧ ({ tenant type asid body with tag := (tenant type asid body).tagOf 9 + 1 } : CmdHdr).signed 9 = false :=
  ⟨header_signed .., header_signed .., header_broken _ _ rfl⟩
theorem tenant_admitted {i : Instr} {k : CmdKind} (x : Input) (asid : BitVec 16) (body : List Word)
    (h : commandOf x = some (i, k, tenant k.type asid body)) (hm : k.mgmt = false) (hf : (tenant k.type asid body).formOk k.type = true) :
    (given x).Admits (tenant k.type asid body) :=
  ⟨rfl, by show (module.slotHeld 5 || false) = false; decide +kernel, rfl, i, k, h, hf, by
    have e : ¬(tenant k.type asid body).slot = 0xFFFFFFFF := by show ¬(5 : BitVec 32) = 0xFFFFFFFF; decide
    rw [if_neg e]; exact ⟨hm, _, rfl, header_signed .., show (2 : Nat) < 7 by decide⟩⟩
theorem manager_admitted {i : Instr} {k : CmdKind} (x : Input) (body : List Word)
    (h : commandOf x = some (i, k, manager k.type body)) (hm : k.mgmt = true) (hf : (manager k.type body).formOk k.type = true) :
    (given x).Admits (manager k.type body) :=
  ⟨rfl, by show (module.slotHeld 0xFFFFFFFF || false) = false; decide +kernel, rfl, i, k, h, hf, by
    have e : (manager k.type body).slot = 0xFFFFFFFF := rfl
    rw [if_pos e]; exact ⟨.inl hm, header_signed .., show (4 : Nat) < 0x300000007 by decide, fun _ => by
      show (0x300000007 : Word).extractLsb' 32 32 = 3; decide⟩⟩
theorem witness_TenantCommands_admitted :
    (given (.jobnew (tenant 0x10 0 [1, 2]))).Admits (tenant 0x10 0 [1, 2]) ∧ (given (.jobdel (tenant 0x11 1 []))).Admits (tenant 0x11 1 [])
    ∧ (given (.load (tenant 0x12 1 [0x20000, 64, 0, 0]))).Admits (tenant 0x12 1 [0x20000, 64, 0, 0])
    ∧ (given (.launch (tenant 0x13 1 [0x22000]))).Admits (tenant 0x13 1 [0x22000])
    ∧ (given (.cancelCommand (tenant 0x14 1 [0x20000, 0]))).Admits (tenant 0x14 1 [0x20000, 0])
    ∧ (given (.preempt (tenant 0x15 1 [0x20000]))).Admits (tenant 0x15 1 [0x20000])
    ∧ (given (.winopen (tenant 0x16 1 [2, 0x20000, 0x10000, 1, 0, 1, 0, 7]))).Admits (tenant 0x16 1 [2, 0x20000, 0x10000, 1, 0, 1, 0, 7])
    ∧ (given (.winclose (tenant 0x17 1 [2]))).Admits (tenant 0x17 1 [2])
    ∧ (given (.trapreply (tenant 0x18 1 [1, 1]))).Admits (tenant 0x18 1 [1, 1])
    ∧ (given (.query (tenant 0x19 1 []))).Admits (tenant 0x19 1 []) ∧ (given (.quote (tenant 0x1A 1 [5, 0, 0, 0]))).Admits (tenant 0x1A 1 [5, 0, 0, 0])
    ∧ (given (.season (tenant 0x1B 1 [0x24000]))).Admits (tenant 0x1B 1 [0x24000]) :=
  ⟨tenant_admitted (k := { type := 0x10 }) _ _ _ rfl rfl rfl, tenant_admitted (k := { type := 0x11 }) _ _ _ rfl rfl rfl, tenant_admitted (k := { type := 0x12 }) _ _ _ rfl rfl rfl
   , tenant_admitted (k := { type := 0x13 }) _ _ _ rfl rfl rfl, tenant_admitted (k := { type := 0x14 }) _ _ _ rfl rfl rfl, tenant_admitted (k := { type := 0x15, both := true }) _ _ _ rfl rfl rfl
   , tenant_admitted (k := { type := 0x16 }) _ _ _ rfl rfl rfl
   , tenant_admitted (k := { type := 0x17 }) _ _ _ rfl rfl rfl, tenant_admitted (k := { type := 0x18 }) _ _ _ rfl rfl rfl, tenant_admitted (k := { type := 0x19, both := true, epoch := false }) _ _ _ rfl rfl rfl
   , tenant_admitted (k := { type := 0x1A }) _ _ _ rfl rfl rfl, tenant_admitted (k := { type := 0x1B }) _ _ _ rfl rfl rfl⟩
/-- Every command of a tenant may also come with a body of one word more than its form has, or with words past their range. -/
theorem witness_TenantCommands_malformed {i : Instr} {k : CmdKind} (x : CmdHdr → Input) (body : List Word)
    (h : ∀ c, commandOf (x c) = some (i, k, c)) (hm : k.mgmt = false) (hf : (tenant k.type 1 body).formOk k.type = true) :
    (given (x (tenant k.type 1 body))).Admits (tenant k.type 1 body) := tenant_admitted _ _ _ (h _) hm hf
theorem witness_TenantCommands_bodies : jobParse [1, 2] = none ∧ ((winBody [2, 0x20000, 0x10000, 1, 0, 1, 0, 7]).map fun w => (w.index, w.base, w.len)) = some (2, 0x20000, 0x10000)
    ∧ winBody [64, 0x20000, 0x10000, 1, 0, 1, 0, 7] = none ∧ (tenant 0x12 1 (List.replicate 5 64)).formOk 0x12 = true ∧ ¬(64 : Word).toNat ≤ 63
    ∧ (tenant 0x17 1 [64]).formOk 0x17 = true ∧ (tenant 0x18 1 [1, 2]).formOk 0x18 = true ∧ (tenant 0x14 1 [1, 4]).formOk 0x14 = true :=
  ⟨rfl, by decide +kernel, by decide +kernel, rfl, by decide, rfl, rfl, rfl⟩
theorem witness_ManagementCommands_admitted :
    (given (.slotset (manager 0x01 [7, 1, 2, 3, 4, 10, 10, 2]))).Admits (manager 0x01 [7, 1, 2, 3, 4, 10, 10, 2]) ∧ (given (.zdrain (manager 0x35 [30]))).Admits (manager 0x35 [30])
    ∧ (given (.thresh (manager 0x33 [0, 3, 2000000000]))).Admits (manager 0x33 [0, 3, 2000000000]) ∧ (given (.retire (manager 0x32 [0x700]))).Admits (manager 0x32 [0x700])
    ∧ (given (.clockcfg (manager 0x34 [0, 10, 20, 30]))).Admits (manager 0x34 [0, 10, 20, 30]) ∧ (given (.updsvc (manager 0x30 [0x20000]) true)).Admits (manager 0x30 [0x20000])
    ∧ (given (.updkern (manager 0x31 [0x20000]) true)).Admits (manager 0x31 [0x20000]) ∧ (given (.recal (manager 0x37 [30, 3, 40]) 38)).Admits (manager 0x37 [30, 3, 40])
    ∧ (given (.zfill (manager 0x36 [30]))).Admits (manager 0x36 [30]) :=
  ⟨manager_admitted (k := { type := 0x01, mgmt := true }) _ _ rfl rfl rfl, manager_admitted (k := { type := 0x35, mgmt := true }) _ _ rfl rfl rfl, manager_admitted (k := { type := 0x33, mgmt := true }) _ _ rfl rfl rfl
   , manager_admitted (k := { type := 0x32, mgmt := true }) _ _ rfl rfl rfl, manager_admitted (k := { type := 0x34, mgmt := true }) _ _ rfl rfl rfl, manager_admitted (k := { type := 0x30, mgmt := true }) _ _ rfl rfl rfl
   , manager_admitted (k := { type := 0x31, mgmt := true }) _ _ rfl rfl rfl, manager_admitted (k := { type := 0x37, mgmt := true }) _ _ rfl rfl rfl, manager_admitted (k := { type := 0x36, mgmt := true }) _ _ rfl rfl rfl⟩
theorem witness_ManagementCommands_malformed {i : Instr} {k : CmdKind} (x : CmdHdr → Input) (body : List Word)
    (h : ∀ c, commandOf (x c) = some (i, k, c)) (hm : k.mgmt = true) (hf : (manager k.type body).formOk k.type = true) :
    (given (x (manager k.type body))).Admits (manager k.type body) := manager_admitted _ _ (h _) hm hf
theorem witness_ManagementCommands_bodies : retireBody [0x700] = some (.core 7) ∧ retireBody [7, 7] = none ∧ threshBody [0, 3, 2000000000] = some (.coreFault, 3, 2000000000)
    ∧ threshBody [0, 0, 2000000000] = none ∧ classOf 0 = some .coreFault ∧ (manager 0x01 [7]).formOk 0x01 = true ∧ (manager 0x32 [7, 7]).formOk 0x32 = true
    ∧ (manager 0x35 [96]).formOk 0x35 = true ∧ (manager 0x37 [1]).formOk 0x37 = true :=
  ⟨by decide +kernel, by decide +kernel, by decide +kernel, by decide +kernel, by decide +kernel, rfl, rfl, rfl, rfl⟩
theorem witness_ManagementCommands_minimum :
    (given (.fusedMinimumRaise (manager Config.fusedType [0, 5]))).Admits (manager Config.fusedType [0, 5])
    ∧ (given (.fusedMinimumRaise (manager Config.fusedType [1, 5]))).Admits (manager Config.fusedType [1, 5]) :=
  ⟨manager_admitted (k := { type := Config.fusedType, mgmt := true }) _ _ rfl rfl (by simp [CmdHdr.formOk, manager, header]),
   manager_admitted (k := { type := Config.fusedType, mgmt := true }) _ _ rfl rfl (by simp [CmdHdr.formOk, manager, header])⟩
/-- A first provisioning, under whatever key its own body carries, and a later one; and one whose body is too short. -/
def filled : List Word := List.replicate 197 1
theorem witness_ManagementCommands_provision (new : BitVec 256) :
    filled.length = 197 ∧ (∃ d ∈ module.fleet.dies, d.kernel.isSome = true) ∧ (given (.provision (manager 0x38 filled))).Admits (manager 0x38 filled)
    ∧ (given (.provision (manager 0x38 [1]))).Admits (manager 0x38 [1]) ∧ ([1] : List Word).length ≠ 197
    ∧ (header new 0x38 0xFFFFFFFF 7 0 filled).signed new = true ∧ (header new 0x38 0xFFFFFFFF 7 0 filled).formOk 0x38 = true
    ∧ (header new 0x38 0xFFFFFFFF 7 0 filled).slot = 0xFFFFFFFF ∧ (header new 0x38 0xFFFFFFFF 7 0 filled).body = filled :=
  ⟨rfl, ⟨{ kernel := some 0 }, by decide +kernel, rfl⟩, manager_admitted (k := { type := 0x38, mgmt := true, epoch := false }) _ _ rfl rfl (by decide +kernel),
    manager_admitted (k := { type := 0x38, mgmt := true, epoch := false }) _ _ rfl rfl rfl, by decide, header_signed .., by
      have e : filled.length = 197 := rfl
      simp [CmdHdr.formOk, header, e], rfl, rfl⟩
/-- A kernel or service image named in the space of a job of ASID 1, and none of ASID 0. -/
theorem witness_ManagementCommands_images : (module.cmdJob (manager 0x30 [0x20000])).isNone = true
    ∧ (module.cmdJob (header 77 0x30 0xFFFFFFFF 0x300000007 1 [0x20000])).isSome = true
    ∧ module.fleet.dies.findSome? (·.kernel) = some 0 ∧ module.fleet.store.minB = 2 := by decide +kernel
/-- Of two commands of a slot the later waits; the earlier does not, though it is held. -/
def held (x : Input) (c d : CmdHdr) : State := { module with input := x, fleet := { module.fleet with held := [(.jobdel, .jobdel c, c), (.jobdel, .jobdel d, d)] } }
theorem witness_CommandsAreChecked_waits : let c := manager 0x32 [0x700]
    let d := header 77 0x32 0xFFFFFFFF 0x300000008 0 [0x700]
    (held (.retire d) c d).mustWait d = true ∧ (held (.retire c) c d).mustWait c = false ∧ c.signed 77 = true ∧ d.signed 77 = true :=
  ⟨by show (module.slotHeld 0xFFFFFFFF || _) = true; simp [header, manager, held], by
    show (module.slotHeld 0xFFFFFFFF || List.any [_, _] _) = false
    have : module.slotHeld 0xFFFFFFFF = false := by decide +kernel
    rw [this]; rfl, header_signed .., header_signed ..⟩
theorem witness_CommandsAreChecked_held : let c := tenant 0x11 1 []
    let d := header 9 0x11 5 8 1 []
    (held (.jobdel d) c d).mustWait d = true ∧ (held (.jobdel c) c d).mustWait c = false ∧ (Instr.jobdel, Input.jobdel c, c) ∈ (held (.jobdel c) c d).fleet.held :=
  ⟨by show (module.slotHeld 5 || _) = true; simp [header, tenant, held], by
    show (module.slotHeld 5 || List.any [_, _] _) = false
    have : module.slotHeld 5 = false := by decide +kernel
    rw [this]; rfl, List.mem_cons_self ..⟩
theorem witness_TenantCommands : (module.cmdJob (tenant 0x11 1 [])).map (·.id) = some module.job.id ∧ (module.cmdJob (tenant 0x11 2 [])).map (·.live) = some false ∧ module.cmdJob (tenant 0x11 9 []) = none
    ∧ module.job.live = true ∧ module.job.cancel = false ∧ module.job.windows.length = 64 ∧ (module.hostTrap module.job.id 1).isSome = true ∧ module.hostTrap module.job.id 2 = none
    ∧ (module.allLaunches.find? fun l => l.job == module.job.id && l.live && l.comp.va == 0x20000).isSome = true
    ∧ (module.cancelUnit module.job 0x20000 0).isSome = true ∧ module.cancelUnit module.job 0x20008 0 = none
    ∧ (module.job.regionOf 0x20000).isSome = true ∧ (∀ k ∈ module.allJobs, k.id = module.job.id → k.asid = module.job.asid) := by decide +kernel
def body : JobBody := { arenaN := 1, arenaVa := 0x100000, ctableVa := 0x108000, ctableN := 0, regions := [{ base := 0x100000, len := 65536, rd := true, wr := true, near := true, die := 1 }] }
theorem witness_TenantCommands_jobs : bodyOk body = true ∧ bodyOk { body with arenaN := 0 } = false ∧ (∃ r ∈ body.regions, State.reset.dieRuns r.die.toNat = false)
    ∧ (match module.jobnew 5 body with | .ok _ _ => true | _ => false) = true := by decide +kernel
/-- A JOBNEW body of one region, and one whose length does not fit its count. -/
theorem witness_TenantCommands_body : (jobParse [0x100000001, 0x100000, 0x108000, 0, 0x100000, 0x10000 + 7 * 2 ^ 40]).isSome = true ∧ jobParse [0x100000001, 0x100000, 0x108000] = none := by decide +kernel
/-- An image of one word at 0x20000, with a page more; page tables at 0x1000. -/
def loading : State := { module with
  mem := [(0x1000, 3), (0x1001, 0x20), (0x2000, 3), (0x2001, 0x30), (0x3000, 3), (0x3001, 0x40), (0x4010, 0x31), (0x4012, 2), (0x4018, 0x31), (0x401A, 3)]
    ++ [(0x20000, 0x40), (0x20001, 4), (0x20002, 0xE1), (0x20003, 0xB0), (0x20004, 1), (0x20005, 1), (0x20008, 64), (0x20022, 1), (0x20024, 8), (0x20028, 0x80), (0x2002C, 1), (0x20084, 3), (0x30007, 0x40)]
  job := { module.job with root := 0x1000, regions := [{ base := 0x20000, len := 0x20000, rd := true, wr := true, near := true, die := 0 }] } }
theorem witness_TenantCommands_load : (match loading.loadObject loading.job 0x20000 0x10008 0 0 with | .ok _ _ => true | _ => false) = true := by decide +kernel
theorem witness_TenantCommands_launch : (match ({ module with mem := [] } : State).launchCmd module.job 0x22000 with | .ok _ _ => true | _ => false) = true := by decide +kernel
/-- A launch record at 0x22000, and a season of one graph of one stage at 0x24000. -/
def season : State := { loading with
  mem := loading.mem.take 8 ++ [(0x22000, 1), (0x22012, 1), (0x22080, 0x80), (0x22082, 1), (0x22088, 2), (0x2208C, 1)]
    ++ [(0x23000, 1), (0x23001, 1), (0x23002, 0xF0), (0x23004, 96), (0x23041, 0x20), (0x23042, 2), (0x23048, 0xFF), (0x23049, 0x0F), (0x2304C, 2), (0x24000, 1), (0x24001, 1), (0x24041, 0x30), (0x24042, 2)]
  job := { loading.job with
    objs := [{ va := 0x10000, hdr := BitVec.ofNat 1024 (0x100 * 2 ^ 256 + 0x1000 * 2 ^ 288 + 0x80 * 2 ^ 320), entries := [BitVec.ofNat 256 (0x10 + 3 * 2 ^ 32)] }] } }
theorem witness_TenantCommands_season : (match season.seasonCheck season.job 0x24000 with | .ok gs => (season.startSeason season.job.id gs).isSome | .error _ => false) = true := by decide +kernel
theorem witness_ManagementCommands : (module.slotOf 5).isSome = true ∧ module.slotOf 9 = none ∧ (module.zone 30).drain = none ∧ (module.zone 30).dry = false ∧ module.zones.length = 96
    ∧ module.fleet.dies.findSome? (·.kernel) = some 0 ∧ module.fleet.store.minB ≤ 2 ∧ unitExists (.core 7) = true ∧ UnitId.core 7 ∉ module.fleet.retired := by decide +kernel
/-- A zone that has been drained, and one that is being drained. -/
def zoned (z : Nat) (o : Zone) (x : Input) : State := { module with zones := setAt module.zones z o, input := x }
def dryZone : Zone := { (module.zone 30) with entry := (module.zone 30).entry ||| 0x4000000000000000 }
theorem witness_ManagementCommands_zones :
    let s := zoned 30 dryZone (.zfill (manager 0x36 [30]))
    s.zones.length = 96 ∧ (s.zone 30).drain = none ∧ (s.zone 30).dry = true ∧ (s.zone 30).wet = false
    ∧ (zoned 30 { dryZone with drain := some { step := 0, leak := false, repeated := false } } (.zdrain (manager 0x35 [30]))).zone 30 ≠ module.zone 30
    ∧ ({ module with fleet := { module.fleet with swapped := true } } : State).fleet.store.minA ≤ 5 := by decide +kernel

/-! The module around its dies -/

def off : State := { module with fleet := { module.fleet with booted := false, store := { module.fleet.store with slotB := some { version := 4, bytes := [2], signed := false } } } }
theorem witness_PowerUpdatesAndClock : off.fleet.booted = false ∧ off.memWf ∧ off.fleet.store.slotA = some { version := 3, bytes := [1], signed := true }
    ∧ off.fleet.store.minA ≤ 3 ∧ (off.fleet.store.slotB).map (·.signed) = some false := by unfold State.memWf; decide +kernel
theorem witness_PowerUpdatesAndClock_none : off.fleet.store.slotA.map (fun x => decide (x.version < 9)) = some true ∧ off.fleet.store.slotB.map (·.signed) = some false := by decide +kernel
theorem witness_PowerUpdatesAndClock_events :
    let s : State := { module with fleet := { module.fleet with oldServices := some { since := 5, faults := 0, traps := 0 }, pendingKernel := some (1, { version := 4, bytes := [2], signed := true }), capLevel := 3 }, timeNs := 200000000 }
    s.fleet.ports.length = 32 ∧ UnitId.port 3 ∉ s.fleet.retired ∧ 5 + 100000000 ≤ s.timeNs ∧ (∀ j ∈ s.allJobs, j.deleting = none) ∧ (∃ d ∈ s.fleet.dies, d.kernel.isSome = true)
    ∧ (∀ p ∈ s.allPlots, p.die = 3 → p.status ≠ .resident ∧ p.status ≠ .leaving) := by decide +kernel
/-- Free-running channels and peers. -/
theorem witness_PowerUpdatesAndClock_units : UnitId.channel 3 ∉ module.fleet.retired ∧ (3 : Nat) < 128 ∧ module.fleet.peers.find? (·.1 = 7) = none := by decide +kernel
def clocked (st : ClockState) : State := { module with timeNs := 50000000000, clock := { state := st, inARow := 15, lastSync := 40000000000, interval := 1000000000, holdFrom := 45000000000 } }
theorem witness_PowerUpdatesAndClock_clock : (clocked .acquiring).clock.state = .acquiring ∧ (clocked .acquiring).clock.stepped = false
    ∧ (clocked .locked).clock.lastSync + 10000000000 ≤ (clocked .locked).timeNs ∧ (clocked .locked).clock.lastSync + 3 * (clocked .locked).clock.interval ≤ (clocked .locked).timeNs
    ∧ (clocked .holdover).clock.holdFrom + 1000000000 ≤ (clocked .holdover).timeNs := by decide +kernel

def reading : ZoneReading := { tin := 30, tout := 40, diodes := [40, 40, 40, 96], dp := 10, flow := 250, pressurePct := 60, outOfRange := [] }
theorem witness_Zones :
    let o : Zone := { (module.zone 30) with lowPressure := 2, sensorsRetired := [], timer := some 0 }
    let s := zoned 30 o (.zoneSample 30 reading)
    s.zones.length = 96 ∧ (s.zone 30).timer = some 0 ∧ 0 ≤ s.timeNs ∧ s.implausible 30 reading = [] ∧ o.judged 7 = true ∧ o.judged 3 = true ∧ o.read 3 reading.pressurePct < 70 ∧ o.dry = false ∧ o.drain = none ∧ o.step ≠ 0
    ∧ 70 ≤ o.read 3 ({ reading with pressurePct := 70 } : ZoneReading).pressurePct := by decide +kernel
/-- An outlet sensor 60 degrees from its neighbours' mean, and one sensor of the module's window. -/
theorem witness_Zones_neighbours :
    let far := fun (z : Nat) => { (module.zone z) with temps := [(1, 40)] }
    let s : State := { module with zones := setAt (setAt module.zones 29 (far 29)) 31 (far 31), input := .zoneSample 30 { reading with tout := 100, pressurePct := 90 } }
    s.neighbours 30 1 = [40, 40] ∧ (s.zone 30).judged 1 = true ∧ (s.zone 30).read 1 100 = 100 ∧ s.implausible 30 { reading with tout := 100, pressurePct := 90 } = [1]
    ∧ 1 ≤ (s.windowOf .sensorImplausible).t ∧ 70 ≤ (s.zone 30).read 3 90 := by decide +kernel
/-- Step 10 has a nominal flow of 25 mL/min, 250 in tenths (R348): 150 is below it by more than the tolerance at reset, 20 %. -/
theorem witness_Zones_flow : let o := module.zone 30
    o.judged 2 = true ∧ o.settled = true ∧ o.step = 10 ∧ o.read 2 150 * 100 < 25 * o.step * (100 - (o.flowtol : Int)) ∧ ¬o.read 2 250 * 100 < 25 * o.step * (100 - (o.flowtol : Int)) := by decide +kernel
theorem witness_Zones_response :
    let o : Zone := { (module.zone 30) with excursion := true }
    let s := zoned 30 o (.sensorResponseStep 30)
    o.respAt ≤ s.timeNs ∧ o.respStep = 0 ∧ o.min ≤ o.step ∧ s.dieSteps (30 / 24) + 2 ≤ 288 ∧ o.dry = false ∧ o.drain = none ∧ o.entry.extractLsb' 56 4 = 0 := by decide +kernel
theorem witness_Zones_drained :
    let s := zoned 30 { (module.zone 30) with drain := some { step := 5, leak := false, repeated := false } } (.drainDownStep 30 true)
    s.zonePlots 30 = [] ∧ s.fleet.dies.length = 4 ∧ (s.zone 30).drain.isSome = true ∧ s.zonePlots 0 ≠ [] := by decide +kernel
/-- Steps of a drain-down in time and past their limits: 50 ms, 2 s and 5 s. -/
theorem witness_Zones_late : ∀ k ∈ [1, 2, 3, 4, 5], let d : DrainState := { step := k, leak := false, repeated := false, since := 1 }
    let s := zoned 30 { (module.zone 30) with drain := some d } (.drainDownStep 30 false)
    let limit := if k = 3 then 2000000000 else if k = 4 then 5000000000 else 50000000
    ¬ 1 + limit ≤ s.timeNs ∧ 1 + limit ≤ ({ s with timeNs := 6000000000 } : State).timeNs ∧ (s.zone 30).drain = some d := by decide +kernel

/-- With the tables of `tables` an engine finds the data page, whatever the bytes below them are. -/
theorem mapped (u : State) (hp : u.poisoned = []) (hm : ∀ a, 0x40000 ≤ a → Memory.byte u.mem a = Memory.byte (tables []) a) (j : Job)
    (hj : j.root = 0x40000) (acc : Access) (ha : acc = .load ∨ acc = .store) (va : Nat) (h : 0x20000 ≤ va ∧ va < 0x30000) : u.jobPa j acc va = some va := by
  have r : ∀ at_, 0x40000 ≤ at_ → Memory.readN u.mem at_ 8 = Memory.readN (tables []) at_ 8 :=
    fun at_ h => Memory.readN_congr fun i _ => hm _ (by omega)
  have i0 : walkIndex va 0 = 0 := by simp [walkIndex, bitsOf]; omega
  have i1 : walkIndex va 1 = 0 := by simp [walkIndex, bitsOf]; omega
  have i2 : walkIndex va 2 = 0 := by simp [walkIndex, bitsOf]; omega
  have i3 : walkIndex va 3 = 2 := by simp [walkIndex, bitsOf]; omega
  have d : va / 65536 = 2 := by omega
  have q0 : Memory.readN u.mem (0x40000 + 8 * 0) 8 = 0x41003 := (r _ (by omega)).trans (by decide +kernel)
  have q1 : Memory.readN u.mem (0x41000 + 8 * 0) 8 = 0x42003 := (r _ (by omega)).trans (by decide +kernel)
  have q2 : Memory.readN u.mem (0x42000 + 8 * 0) 8 = 0x43003 := (r _ (by omega)).trans (by decide +kernel)
  have q3 : Memory.readN u.mem (0x43000 + 8 * 2) 8 = 0x20031 := (r _ (by omega)).trans (by decide +kernel)
  have l0 : walkLevel u.mem [] j.asid va 0 0x40000 = .inr 0x41000 := by unfold walkLevel; rw [i0]; dsimp only; rw [q0]; simp [bitOf, bitsOf, paOk, Nat.testBit]
  have l1 : walkLevel u.mem [] j.asid va 1 0x41000 = .inr 0x42000 := by unfold walkLevel; rw [i1]; dsimp only; rw [q1]; simp [bitOf, bitsOf, paOk, Nat.testBit]
  have l2 : walkLevel u.mem [] j.asid va 2 0x42000 = .inr 0x43000 := by unfold walkLevel; rw [i2]; dsimp only; rw [q2]; simp [bitOf, bitsOf, paOk, Nat.testBit]
  have l3 : walkLevel u.mem [] j.asid va 3 0x43000 = .inl (.leaf { asid := j.asid, va := 0x20000, size := 0x10000, pa := 0x20000, r := true, w := true, x := false, p := false }) := by
    unfold walkLevel; rw [i3]; dsimp only; rw [q3]; simp [leafOf, bitOf, bitsOf, paOk, Nat.testBit, d]
  have w : u.walk j va = .leaf { asid := j.asid, va := 0x20000, size := 0x10000, pa := 0x20000, r := true, w := true, x := false, p := false } := by
    unfold State.walk; rw [hp, hj]
    simp only [walkFrom, l0, l1, l2, l3, Nat.sub_zero]
  unfold State.jobPa; rw [w]
  rcases ha with rfl | rfl <;> simp [TlbEntry.allows] <;> omega


/-! Launches, plots and furrows -/

/-- A launch of five plots, one of which waits at its die. -/
def launch : Launch := { id := 900, job := module.job.id, live := true, plots := 5, furrows := 3, budget := 256, tiles := 2, bins := 1, sv := [300], dim := 0, args := [1, 2, 3], obj := 0x10000, entryVa := 0x10080, comp := { va := 0x20040, pa := 0x20040 } }
def launched : State := { module with
  nextId := 2000, launches := [launch], plots := [{ id := 610, launch := 900, status := .atDie, die := 0, lplot := 4 }]
  job := { module.job with objs := [{ va := 0x10000, hdr := BitVec.ofNat 1024 (0x100 * 2 ^ 256 + 0x1000 * 2 ^ 288 + 0x80 * 2 ^ 320), entries := [BitVec.ofNat 256 (0x10 + 3 * 2 ^ 32)] }] } }
theorem witness_Dispatching : (launched.launchOf 900).isSome = true ∧ launch.cancel = false ∧ launch.next < launch.plots ∧ (launched.dieFor launch launch.batchNeed).isSome = true := by decide +kernel
theorem witness_Dispatching_placed : (launched.plotOf 610).map (fun p => (p.ctxPa, (launched.coreFor p).isSome)) = some (0, true) := by decide +kernel
theorem witness_Dispatching_reserved : (launched.reserve launch 610 0).isSome = true := by decide +kernel
/-- A furrow that wants to enter, beside an active one. -/
def wanting : State := { module with furs := [{ id := 50, plot := module.plot.id, status := .ready, logical := 1, active := false }] }
theorem witness_Dispatching_swap : (wanting.wanting 1).map (·.id) = [50] ∧ (∀ f ∈ wanting.furs, wanting.teamOf f = [f] ∧ wanting.mayEnter 1 [f] [] = true ∧ f.slotIn (((wanting.coreFurs 1).filter (·.active)).map (·.slot)) = some 1 ∧ ∀ h ∈ wanting.allFurs, h.id = f.id → h = f) := by decide +kernel
def graph : Graph := { id := 950, job := module.job.id, comp := { va := 0x20080, pa := 0x20080 }, dies := 1, cperdie := 4, cores := [1, 2, 3, 4]
                       stages := [{ template := 0x22000, inEdge := none, outEdge := none, outCount := 0, instances := 3 }, { template := 0x22000, inEdge := some 0, outEdge := none, outCount := 0, instances := 3 }]
                       edges := [{ base := 0x23000, capacity := 4, slotsz := 2, ti := 1, slots := [(1, .empty), (2, .produced)] }] }
theorem witness_Dispatching_stage : graph.canStart (graph.stage 0) = true ∧ (graph.stage 0).inEdge = none ∧ (graph.stage 0).outEdge = none
    ∧ ({ season with graphs := [graph] } : State).graphOf 950 = some graph ∧ (({ season with graphs := [graph] } : State).newComp graph.job).isSome = true
    ∧ (graph.stage 1).inEdge = some 0 ∧ graph.canStart (graph.stage 1) = true := by decide +kernel
/-- Shares are set anew every 4,096 clocks; a stage whose instances put two slots into an edge starts from the template of `season`. -/
theorem witness_Dispatching_rebalance : (5 : Nat) < module.rebalanced.getD 0 0 + 4096 ∧ ({ module with cycles := 5000 } : State).rebalanced.getD 0 0 + 4096 ≤ 5000 ∧ (0 : Nat) < module.rebalanced.length := by
  decide +kernel
def edged : Graph := { graph with
  stages := [{ template := 0x22000, inEdge := some 0, outEdge := some 1, outCount := 2, instances := 3 }]
  edges := [{ base := 0x23000, capacity := 4, slotsz := 2, ti := 1, slots := [(1, .empty), (2, .produced)] }, { base := 0x23400, capacity := 4, slotsz := 2, ri := 3 }] }
theorem witness_Dispatching_edges : let s : State := { season with graphs := [edged] }
    edged.canStart (edged.stage 0) = true ∧ (0 : Nat) < edged.stages.length ∧ s.graphOf 950 = some edged
    ∧ (match s.newComp edged.job with
     | some (_, u) => (match u.launchCheck ((u.jobOf edged.job).getD {}) (s.readLaunch ((s.jobOf edged.job).getD {}) (edged.stage 0).template.toNat) false with | .ok _ => true | .error _ => false)
     | none => false) = true
    ∧ (edged.stage 0).outEdge = some 1 ∧ (edged.stage 0).outCount ≤ (edged.edge 1).free := by decide +kernel
/-- A template that names no code object is refused. -/
theorem witness_Dispatching_refused : let s : State := { module with mem := [(0x22000, 1)], graphs := [graph] }
    (match s.newComp graph.job with
     | some (_, u) => (match u.launchCheck ((u.jobOf graph.job).getD {}) (s.readLaunch ((s.jobOf graph.job).getD {}) (graph.stage 0).template.toNat) false with | .ok _ => false | .error _ => true)
     | none => false) = true := by decide +kernel
theorem witness_Dispatching_end : { launched with launches := [{ launch with next := 5, comp := { launch.comp with done := 5 } }], plots := [] }.launchDone { launch with next := 5, comp := { launch.comp with done := 5 } } = true
    ∧ launched.memWf ∧ (∀ j ∈ launched.allJobs, j.cancel = false) ∧ launch.staged = [] ∧ launched.graphOf launch.graph = none := by unfold State.memWf; decide +kernel

/-- A plot of another core, with a furrow that is saved. -/
def saved : Furrow := { id := 701, plot := 700, status := .saved, budget := 256 }
def leaving : Plot := { id := 700, launch := module.launch.id, status := .resident, core := 2, preempt := true, lplot := 3, granted := true
                        held := [{ sector := 2, va := 2, data := 1, mask := 1, tag := 0, vis := true, poison := false }] }
def away : State := { module with plots := [leaving], furs := [saved], cores := [{ id := 2 }] }
theorem witness_PlotsLeaveAndReturn : away.plotOf 700 = some leaving ∧ away.plotLeft leaving = true ∧ (∀ o ∈ (away.coreOf 2).seq, o.plot = 700 → o.running = false) ∧ away.ejobs = []
    ∧ (∀ x ∈ leaving.eccSeen, leaving.eccAt.contains x = false) ∧ away.rets = [] := by decide +kernel
/-- It fits its store area, and may have a context area and no flags. -/
theorem witness_PlotsLeaveAndReturn_saved : leaving.held.length + leaving.silo.length ≤ leaving.heldRoom ∧ leaving.flags = 0 ∧ leaving.ctxPa = 0
    ∧ ({ leaving with ctxPa := 0x90000 } : Plot).ctxPa ≠ 0 ∧ away.memWf ∧ away.plotLeft { leaving with ctxPa := 0x90000 } = true := by unfold State.memWf; decide +kernel
/-- A checkpoint that keeps a frame. -/
theorem witness_PlotsLeaveAndReturn_frame :
    let u : FrameUse := { plot := 700, n := 0, obj := 0, budget := 256, logical := 3, parent := none, join := 2 }
    let c : Checkpoint := { furs := [], tiles := [], bins := [], team := 0, flags := 0, redCount := [], ops := [], queue := [], frames := [u], at_ := 0 }
    let p : Plot := { leaving with check := some c }
    (p.check.map (·.frames)).getD [] = [u] ∧ (away.launchOf p.launch).map (fun l => (away.jobOf l.job).isSome) = some true ∧ (away.joinPa module.job u.n).isSome = true := by decide +kernel
/-- The second run of a sampled plot: alike, behind, or at another end. -/
theorem witness_PlotsLeaveAndReturn_second : let p : Plot := { leaving with sampled := true, twin := 3 }
    p.second = .alike ∧ RunEnd.stores 9 ≠ p.firstEnd ∧ RunEnd.fault .diverge ≠ p.firstEnd ∧ p.status = .resident
    ∧ ({ p with second := .behind } : Plot).second = .behind ∧ ({ p with second := .apart (.stores 9) } : Plot).second = .apart (.stores 9) := by decide +kernel
theorem witness_PlotsLeaveAndReturn_back :
    let p : Plot := { leaving with status := .saved }
    let s : State := { away with plots := [p] }
    s.plotOf 700 = some p ∧ (s.allFurs.map (·.id)).Nodup ∧ 0 ∉ s.allFurs.map (·.id) ∧ (s.coreBack p (p.roomBack (s.allFurs.filter (·.plot = 700))) p.savedOps.length 0 0).isSome = true := by decide +kernel
theorem witness_PlotsLeaveAndReturn_move :
    let s : State := { launched with
      fleet := { launched.fleet with dies := [{ kernel := some 0 }, { kernel := none, isolated := true }, { kernel := some 0 }, { kernel := some 0 }] }
      plots := [{ leaving with status := .atDie, granted := false, die := 1, launch := 900 }] }
    s.dieLost 1 = true ∧ (∃ d < 4, d ≠ 1 ∧ s.liveCores d ≠ [] ∧ (64 < 1 * launch.furrows ∨ 1 * launch.furrows ≤ s.dieSlots d))
    ∧ (s.allPlots.filter fun p => p.launch = 900 ∧ p.die = 1 ∧ p.status ≠ .ending).length = 1 ∧ (∀ p ∈ s.allPlots, p.launch = 900 → p.die = 1 → p.granted = false ∧ p.status = .atDie) := by decide +kernel
theorem witness_PlotsLeaveAndReturn_region : (rich.focusFur rich.fur.id).fur.id = rich.fur.id ∧ (rich.focusFur rich.fur.id).fur.status = .ready
    ∧ (rich.focusFur rich.fur.id).fur.region.map (·.restarts) = some 0 ∧ rich.rets = [] := by decide +kernel
theorem witness_PlotsLeaveAndReturn_again :
    let l : Launch := { launch with cores := [1, 2, 3, 4, 5] }
    let p : Plot := { leaving with status := .rolledBack, launch := 900 }
    let c : Checkpoint := { furs := [{ saved with status := .ready }], tiles := [{ ctl := 5 }], bins := [], team := 3, flags := 1, redCount := [], ops := [], queue := [], frames := [], at_ := 0 }
    let s : State := { launched with plots := [p], launches := [l], furs := [], cores := [{ id := 2 }] }
    (s.coreBack p (l.room (((s.jobOf l.job).getD {}).objAt l.obj).silo) 0 0 p.core).isSome = true
    ∧ (s.coreBack p (({ p with tiles := c.tiles, bins := c.bins } : Plot).roomBack (c.furs.map s.fromCheck)) c.ops.length c.queue.length p.core).isSome = true
    ∧ (∀ e ∈ s.ejobs, e.plot ≠ 700) := by decide +kernel
theorem witness_PlotsLeaveAndReturn_third : { leaving with sampled := true, twin := 3 }.status = .resident ∧ (∀ k ∈ [2, 3, 4], 1 ≤ k ∧ coreDie k = leaving.die) ∧ 1 ≤ (away.windowOf .coreFault).t
    ∧ (queued away).trapsFull = false := by decide +kernel

/-- Returns of a load and of an atomic, each on its way to the furrow in the issue stage. -/
def returning (atomic : Bool) : Ret := { id := 70, fur := module.fur.id, core := 1, ctx := module.fur.ctx, gen := module.fur.gen, atomic := atomic
                                         data := .value (.slice 40 7) false 64 (List.replicate 32 (some (5, false))) }
theorem witness_Returning : ∀ a, let s : State := { module with rets := [returning a], furs := [] }
    returning a ∈ s.rets ∧ (∀ x ∈ s.rets, x.id = (returning a).id → x = returning a) ∧ (returning a).atomic = a ∧ s.fur.id ≠ 0 ∧ (returning a).fur = s.fur.id
    ∧ s.fur.ctx = (returning a).ctx ∧ s.fur.gen = (returning a).gen := by decide +kernel

def awaiting (st : FStatus) : State := { rich with fur := { rich.fur with status := st, watch := [{ armed := true, addr := 0x20000, fired := true }, { armed := true, addr := 0x20000 }, {}, {}] } }
theorem witness_WaitsEnd :
    let s := awaiting (.waitStamp 0x20000 0 .ge 3 0x10000)
    let t0 := s.focusFur s.fur.id
    t0.fur.status = .waitStamp 0x20000 0 .ge 3 0x10000 ∧ (t0.homeAddr 0x20000).isSome = true ∧ 0 ≤ Memory.readN s.mem (t0.homePa 0x20000) 8 ∧ ¬1 ≤ Memory.readN s.mem (t0.homePa 0x20000) 8
    ∧ t0.scopeOk 3 (t0.homePa 0x20000) = true ∧ (t0.fur.splits.filter (·.valid)).length ≤ 1 := by decide +kernel
theorem witness_WaitsEnd_slots :
    let t0 := (awaiting (.waitWatch (some 9) 15)).focusFur rich.fur.id
    t0.fur.id = rich.fur.id ∧ ((t0.fur.watch.getD 0 {}).armed && (t0.fur.watch.getD 0 {}).fired) = true ∧ t0.scopeOk (t0.fur.watch.getD 0 {}).scope (t0.homePa 0x20000) = true
    ∧ (t0.fur.watch.getD 1 {}).armed = true ∧ (t0.fur.watch.getD 1 {}).fired = false := by decide +kernel
theorem witness_WaitsEnd_time : (((awaiting (.waitTime 50 none)).focusFur rich.fur.id).fur.splits.filter (·.valid)).length ≤ 1 ∧ (50 : Word).toNat ≤ later.timeNs % 2 ^ 64 ∧ later.timeNs % 2 ^ 64 < (104 : Word).toNat := by
  decide +kernel

/-! Services -/

def stuck : State := { barring [{ n := 2, parts := 7, arrived := 2, fur := 4, since := 0 }] with
  cycles := 5000000, fur := { (barring []).fur with status := .barrier 2 } }
theorem witness_ServicesAnswer : stuck.plot.bars.map (fun b => (decide (b.since + stuck.plot.barto ≤ stuck.cycles), b.fur == stuck.fur.id)) = [(true, true)]
    ∧ (stuck.furOf stuck.fur.id).any (fun f => f.status == .barrier 2) = true ∧ (∀ g ∈ (stuck.focusFur stuck.fur.id).furs, g.ctxPa = 0) := by decide +kernel
theorem witness_ServicesAnswer_room : TrapRoom (let s := queued stuck; let t0 := s.focusFur s.fur.id; { t0 with fur := { t0.fur with status := .ready } }) :=
  ⟨by decide +kernel, by decide +kernel, by decide +kernel, by decide +kernel, by unfold State.memWf; decide +kernel⟩
/-- A furrow that waits for a translation, with a page fault queue at 0x28200. -/
def translating (va : Word) (e : Option Nat) : State := { module with
  fur := { module.fur with status := .translate va .load e }, plot := { module.plot with faultq := 0x28200 }, mem := Memory.writeN (Memory.writeN module.mem 0x28200 8 0x2C000) 0x28208 1 6 }
theorem witness_ServicesAnswer_walk :
    let t0 := (translating 0x20000 none).focusFur module.fur.id
    t0.fur.id = module.fur.id ∧ t0.job.id ≠ 0 ∧ (match t0.walk t0.job 0x20000 with | .leaf e => e.allows .load t0.fur.priv | _ => false) = true ∧ t0.core.id = t0.plot.core ∧ t0.core.id ≠ 0
    ∧ t0.walk t0.job 0x30000 = .invalid ∧ (qHead module.mem 0x28200).full = false ∧ t0.plot.faultq = 0x28200
    ∧ (let s := translating 0x30000 none; let e := (qHead s.mem 0x28200).slot 64; (qHead s.mem 0x28200).full = false ∧ paOk 0x28200 = true ∧ paOk (0x28200 + 63) = true ∧ paOk e = true ∧ paOk (e + 63) = true) := by decide +kernel
/-- A request of the die for the same page is pending already. -/
theorem witness_ServicesAnswer_shared :
    let t0 := (translating 0x30000 none).focusFur module.fur.id
    t0.pendingWalk t0.plot.die t0.job.asid 0x30000 = none ∧ t0.job.id ≠ 0
    ∧ (match step { t0 with agenda := [.event .translationWalk (.translationWalk t0.fur.id)] } with
       | .next t => (t.pendingWalk t0.plot.die t0.job.asid 0x30008).isSome && (t.pendingWalk t0.plot.die t0.job.asid 0x20000).isNone
       | _ => false) = true := by decide +kernel
theorem witness_ServicesAnswer_retry :
    let s := translating 0x20000 (some 0x2C000)
    let t0 := s.focusFur module.fur.id
    t0.walk t0.job 0x20000 ≠ .poisoned ∧ Memory.readN s.mem (0x2C000 + 48) 1 = 0 ∧ s.memWf ∧ module.hostTrap module.job.id 1 ≠ none
    ∧ (∀ f ∈ module.furs, f.status = .trapped 1 .user 0 0x29000) ∧ disposition .user = .host ∧ module.timeNs < 0 + 5000000000 ∧ savesPlot .align = false := by unfold State.memWf; decide +kernel
/-- Errors of slices, of a plot's other memories and of memory, in near memory and in far memory (R43, R331, R333): furrow 50 stands on
its core, and the module's fault queue lies at 0x28200. -/
def failing : State := { module with
  faultq := 0x28200, mem := Memory.writeN (Memory.writeN module.mem 0x28200 8 0x2C000) 0x28208 1 6
  furs := [{ id := 50, plot := module.plot.id, status := .ready, logical := 1, budget := 256, lanes := List.replicate 32 {} }] }
theorem witness_ServicesAnswer_errors :
    (failing.furOf 50).any (fun f => f.lanes.length == 32 && f.status.resident && decide (16 * 15 < f.budget)) = true ∧ (failing.allFurs.map (·.id)).Nodup
    ∧ (failing.plotOf module.plot.id).any (·.status == .resident) = true ∧ failing.memWf ∧ (qHead failing.mem 0x28200).full = false
    ∧ (let e := (qHead failing.mem 0x28200).slot 64
       (∀ a ∈ [0x28200, 0x28200 + 63, e, e + 63], paOk a = true) ∧ 0x28200 + 64 ≤ e)
    ∧ paOk (64 * 0x800) = true ∧ isNear (64 * 0x800) = false ∧ paOk (2 ^ 39) = true ∧ isNear (2 ^ 39) = true := by unfold State.memWf; decide +kernel
/-- Whatever the keys are, a sector may come back as it was written, as another authentic one, and as none. -/
theorem witness_ServicesAnswer_tags (k : BitVec 256) (sec : Nat) (written : BitVec 512) :
    (∃ cipher tag, tag = sectorTag k sec cipher ∧ cipher = written) ∧ (∃ cipher tag, tag = sectorTag k sec cipher ∧ cipher ≠ written)
    ∧ ∃ (cipher : BitVec 512) (tag : BitVec 56), ¬tag = sectorTag k sec cipher :=
  ⟨⟨_, _, rfl, rfl⟩, ⟨written + 1, _, rfl, fun h => by bv_omega⟩, ⟨0, sectorTag k sec 0 + 1, fun h => by
    generalize sectorTag k sec 0 = t at h; bv_omega⟩⟩
def grant (k : FurKind) : Queued := { kind := k, plot := module.plot.id, entryVa := 0x10080, pc := 0x10010, obj := 0, budget := 256, logical := 0, mask := 0xFF, xregs := List.replicate 64 6, xpoison := 1, frame := some 0x20400, parent := some 0x20401 }
theorem witness_QueuedGrants : ∀ k ∈ [FurKind.callee, .continuation, .spawned],
    let s : State := { module with core := { module.core with callq := [grant k] } }
    let t0 := s.focusPlot module.plot.id
    (s.coreOf 1).callq.find? (fun q => q.kind == k && (s.plotOf q.plot).any (·.status == .resident)) = some (grant k) ∧ t0.plot.core = 1 ∧ t0.core.id = 1
    ∧ t0.coreTakes 1 { units := [256 / 64] } = true ∧ (0 : Nat) < t0.launch.furrows ∧ pagesOf furBytes ≤ t0.nearLeft t0.job.slot := by decide +kernel
/-- Where nothing that a read may meet is poisoned, no read is (R195). -/
theorem view_clean (s : State) (h1 : s.plot.entries = []) (h2 : s.core.l1 = []) (h3 : s.rdc = []) (h4 : s.poisoned = []) :
    ∀ n va, (s.view false va n).p = false
  | 0, _ => rfl
  | n + 1, va => by
    have e : ∀ pa, (s.viewByte false pa).2 = false := fun pa => by
      simp [State.viewByte, State.entryAt, h1, State.below, State.snapSector, State.l1Copy, h2, State.rdcCopy, h3, State.memSector, h4]
    show ((s.viewByte false _).2 || (s.view false (va + 1) n).p) = false
    rw [e, view_clean s h1 h2 h3 h4 n, Bool.or_self]
theorem witness_QueuedGrants_context :
    let t0 := ({ module with core := { module.core with callq := [grant .callee] } } : State).focusPlot module.plot.id
    (match t0.poolAlloc t0.job.id t0.plot.id t0.plot.die furBytes with | some (_, _, t1) => (t1.framePages t0.job 1 0x20400).isSome | none => false) = true := by decide +kernel
/-- Nothing that a read of the plot may meet is poisoned, so no continuation starts from poison. -/
def noPoison (s : State) : Bool := s.plot.entries.isEmpty && s.core.l1.isEmpty && s.rdc.isEmpty && s.poisoned.isEmpty
theorem noPoison_contSick (u : State) (q : Queued) (f : Furrow) (h : noPoison u = true) : u.contSick q f = false := by
  simp only [noPoison, Bool.and_eq_true, List.isEmpty_iff] at h
  obtain ⟨⟨⟨a1, a2⟩, a3⟩, a4⟩ := h
  unfold State.contSick
  simp only [view_clean (u.setFur f) a1 a2 a3 a4, Bool.or_self]
theorem witness_QueuedGrants_clean :
    let t0 := ({ module with core := { module.core with callq := [grant .continuation] } } : State).focusPlot module.plot.id
    (match t0.poolAlloc t0.job.id t0.plot.id t0.plot.die furBytes with
     | some (_, _, t1) => (match t1.framePages t0.job 1 0x20400 with | some u => noPoison u | none => false) | none => false) = true := by decide +kernel


/-! Engines, windows and the sequencer at work -/

/-- Jobs with number 500: a copy and a write to a peer's memory, as `engines` issues them; and a read and a collective. -/
def copying : EJob := match engines.copyJob 0 none 3 0 0x21000 with | .ok (e, _) => { e with id := 500 } | .error _ => engines.newJob .relay 0 0 0 0 []
def card (kind : Nat) : Nat := kind + (if kind = 1 then 20 * 2 ^ 8 + 2 ^ 257 + 0x25000 * 2 ^ 128 + 0x21400 * 2 ^ 192 else 0) + 2 * 2 ^ 14 + 16 * 2 ^ 32 + 0x24000 * 2 ^ 64 + 0x26000 * 2 ^ 384 + 5 * 2 ^ 448
def carded (k : JKind) (kind : Nat) : EJob := { (engines.newJob k 0 (card kind) 0 0 (cardParse (card kind)).regions) with id := 500 }
def working (e : EJob) : State := { paged with ejobs := [e], fleet := { paged.fleet with peers := [(7, 0x1000)] }, timeNs := 50000000, plot := { paged.plot with tiles := [tile 19 16 32, tile 17 16 32] } }
theorem witness_EngineJobs : copying.kind = .copy ∧ copying.id = 500 ∧ (working copying).memWf ∧ (working copying).jobReady copying = true ∧ (working copying).jobNeeds copying = none
    ∧ ((working copying).jobOf copying.job).isSome = true ∧ copying.rollback = false ∧ ((working copying).plotOf copying.plot).map (fun p => decide (p.status = .ending)) = some false
    ∧ (tplParse copying.card.toNat).kind = 0 ∧ (tplParse copying.card.toNat).stamp = 0x26000 := by unfold State.memWf; decide +kernel
/-- The stamp's bytes are found where they are, whatever stands in them. -/
theorem witness_EngineJobs_bytes (e : EJob) (acc : Access) (ha : acc = .load ∨ acc = .store) (va n : Nat) (hv : 0x20000 ≤ va) (hn : va + n ≤ 0x30000) :
    (working e).bytesAt (working e).job acc va n va := by
  intro u hp hm k hk
  refine mapped u hp (fun a h => (hm a (by omega)).trans ?_) _ rfl acc ha _ (by omega)
  rfl
theorem witness_EngineJobs_network : ∀ p ∈ [(JKind.nwr, 2), (.nrd, 3)], let e := { carded p.1 p.2 with started := true }
    e.kind = p.1 ∧ e.performed = false ∧ (working e).jobNeeds e = none ∧ (working e).orderHeld e = false ∧ (cardParse e.card.toNat).count = 16
    ∧ (working e).jobMiss (working e).job (if p.2 = 2 then .load else .store) (cardParse e.card.toNat).local_ 16 = none ∧ e.sentNs + 50000000 ≤ (working e).timeNs
    ∧ (working e).fleet.peers.any (fun p => p.1 == BitVec.ofNat 16 (cardParse e.card.toNat).peer) = false := by decide +kernel
theorem witness_EngineJobs_collective : let e := { carded .coll 1 with started := true }
    let c := cardParse e.card.toNat
    (working e).jobNeeds e = none ∧ (working e).jobMiss (working e).job .load c.local_ c.inBytes = none ∧ (working e).jobMiss (working e).job .store c.local2 c.outBytes = none := by decide +kernel
/-- A copy of sixteen elements of memory, whatever stands in the bytes it writes; its elements have nothing block-scaled. -/
theorem witness_EngineJobs_plain :
    let e := { copying with started := true }
    let t := tplParse e.card.toNat
    let x := recParse e.src.toNat
    let y := recParse e.dst.toNat
    let ext := destExt t x
    t.kind = 0 ∧ t.trans = false ∧ ext = [16] ∧ x.scaled = false ∧ y.scaled = false ∧ y.fmt = x.fmt ∧ fmtBits x.fmt = 32
    ∧ (∀ i < 16, (x.place (coords ext i)).1 = 0x24000 + 4 * i ∧ (y.place (coords ext i)).1 = 0x25000 + 4 * i)
    ∧ (∀ i < 16, ∀ k < 4, (working e).fixedByte (0x25000 + 4 * i + k) = 0) ∧ (working e).poisoned = [] ∧ (working e).jobNeeds e = none := by decide +kernel
theorem witness_EngineJobs_stable (u : State) (hp : u.poisoned = []) (hm : ∀ a, (∀ i < 16, a < 0x25000 + 4 * i ∨ 0x25000 + 4 * i + 4 ≤ a) →
    Memory.byte u.mem a = Memory.byte (working copying).mem a) (i : Nat) (hi : i < 16) (k : Nat) (hk : k < 4) :
    u.jobPa (working copying).job .store (0x25000 + 4 * i + k) = some (0x25000 + 4 * i + k)
    ∧ u.jobPa (working copying).job .load (0x24000 + 4 * i + k) = some (0x24000 + 4 * i + k) := by
  have h := fun a (ha : 0x40000 ≤ a) => (hm a fun i _ => by omega).trans (rfl : Memory.byte (working copying).mem a = Memory.byte (tables []) a)
  exact ⟨mapped u hp h _ rfl _ (.inr rfl) _ (by omega), mapped u hp h _ rfl _ (.inl rfl) _ (by omega)⟩
/-- A copy of one row of sixteen bf16 elements into a tile of that shape. -/
def tiling : EJob := { copying with
  started := true, src := BitVec.ofNat 512 (0x24000 + 19 * 2 ^ 64 + 2 ^ 69 + 16 * 2 ^ 128 + 2 ^ 160 + 32 * 2 ^ 256)
  card := BitVec.ofNat 512 (1 + 19 * 4 + 2 * 2 ^ 12 + 0x26000 * 2 ^ 128) }
theorem witness_EngineJobs_tile :
    let s : State := { working tiling with plot := { (working tiling).plot with tiles := [tile 19 1 32] } }
    let t := tplParse tiling.card.toNat
    let x := recParse tiling.src.toNat
    let z := tile 19 1 32
    t.kind = 1 ∧ x.scaled = false ∧ destExt t x = [16, 1] ∧ fmtBits x.fmt = 16 ∧ s.plotOf tiling.plot = some s.plot ∧ s.plot.tiles[t.dtile]? = some z ∧ tileFmt z = x.fmt
    ∧ tileScaled z = false ∧ tileFits t x (some z) = true ∧ s.jobNeeds tiling = none
    ∧ ∀ i < 16, ∀ k < 2, (s.jobPa s.job .load ((x.place (coords [16, 1] i)).1 + k)).any (fun a => !s.poisoned.contains (a / 64)) = true := by decide +kernel
/-- With a page fault queue of the plot, whose records lie elsewhere. -/
theorem witness_EngineJobs_failures : let e := { carded .nwr 2 with started := true }
    let s : State := { working e with plot := { (working e).plot with faultq := 0x28200 }, mem := Memory.writeN (Memory.writeN (working e).mem 0x28200 8 0x2C000) 0x28208 1 6 }
    let fq := ((s.plotOf e.plot).getD {}).faultq.toNat
    let q := qHead s.mem fq
    let at_ := q.slot 64
    q.full = false ∧ (∀ a ∈ [fq, fq + 63, at_, at_ + 63], paOk a = true) ∧ fq + 64 ≤ at_ ∧ s.memWf ∧ s.fleet.draining = []
    ∧ (∀ k < 16, s.fixedByte (0x26000 + k) = 0) ∧ e.sentNs + 50000000 ≤ s.timeNs ∧ (s.jobOf e.job).isSome = true := by unfold State.memWf; decide +kernel
/-- A contribution, first and repeated; and a peer that the table holds. -/
theorem witness_EngineJobs_start :
    let e := carded .coll 1
    let c := cardParse e.card.toNat
    (working e).jobReady e = true ∧ (working e).launchOf e.launch = some (working e).launch ∧ (working e).launch.contrib = []
    ∧ ((working e).plotOf e.plot).isSome = true
    ∧ (let n := carded .nwr 2
       (working n).jobReady n = true
       ∧ (({ working n with fleet := { (working n).fleet with peers := [(BitVec.ofNat 16 (cardParse n.card.toNat).peer, 0x1000)] } } : State).fleet.peers.any fun p => p.1 == BitVec.ofNat 16 (cardParse n.card.toNat).peer) = true)
    ∧ c.seq = (cardParse (card 1)).seq := by decide +kernel
/-- A relay over three hops: a tile of the plot, a plot that is gone, the plot again. -/
def relaying (hop : Nat) : EJob := { copying with
  kind := .relay, started := true, hop := hop, card := BitVec.ofNat 512 (2 + 17 * 2 ^ 2 + 2 * 2 ^ 12 + 0x26000 * 2 ^ 128)
  chain := [BitVec.ofNat 128 (0x26000 * 2 ^ 64 + 2 ^ 32), BitVec.ofNat 128 (0x26000 * 2 ^ 64 + 5)] }
theorem witness_EngineJobs_relay :
    (match (working (relaying 0)).hopPlot (relaying 0) ((relaying 0).chain.getD 0 0) with
     | .here p => decide (p.id = paged.plot.id ∧ (p.tiles[chainTile ((relaying 0).chain.getD 0 0)]?).isSome = true ∧ (working (relaying 0)).tileHeld p.id 1 500 = false) | _ => false) = true
    ∧ (match (working (relaying 1)).hopPlot (relaying 1) ((relaying 1).chain.getD 1 0) with | .here _ => false | _ => true) = true ∧ (working (relaying 0)).jobNeeds (relaying 0) = none := by decide +kernel

/-- A hop to a plot that is gone, one to a plot that is saved, and the chain's end. -/
theorem witness_EngineJobs_hops :
    (match (working (relaying 1)).hopPlot (relaying 1) ((relaying 1).chain.getD 1 0) with | .gone => true | _ => false) = true ∧ (relaying 1).broken = false ∧ (relaying 1).fault = false
    ∧ (let s := working (relaying 0)
       (match ({ s with plot := { s.plot with status := .saved } } : State).hopPlot (relaying 0) ((relaying 0).chain.getD 0 0) with | .away => true | _ => false) = true)
    ∧ { relaying 1 with broken := true }.kind = .relay ∧ (relaying 0).chain.length = 2
    ∧ (working (relaying 0)).tileShut paged.plot.id (chainTile ((relaying 0).chain.getD 0 0)) (relaying 0) = false := by decide +kernel

def windowed : State := { paged with job := { paged.job with
  slot := 5, windows := setAt paged.job.windows 2 { isOpen := true, base := 0x20000, len := 65536, rd := true, wr := true, host := true, any := false, peer := 4 } } }
def transfer : Transfer := { asid := 1, window := 2, offset := 0x6000, slot := 5, isHost := true, peer := 0 }
theorem witness_WindowsAndChannels : windowed.memWf ∧ windowed.jobOfAsid 1 = some windowed.job
    ∧ (let w := windowed.job.windows.getD 2 {}
       w.isOpen = true ∧ transfer.offset + 16 ≤ w.len ∧ w.wr = true ∧ w.rd = true ∧ transfer.slot = windowed.job.slot ∧ w.host = true ∧ windowed.job.live = true
       ∧ w.base.toNat + transfer.offset = 0x26000 ∧ 70000 > w.len) ∧ windowed.jobOf windowed.job.id = some windowed.job
    ∧ (∀ k < 4, (windowed.jobPa windowed.job .store (0x26000 + k)).isSome = true ∧ (windowed.jobPa windowed.job .load (0x26000 + k)).isSome = true) := by unfold State.memWf; decide +kernel
theorem witness_WindowsAndChannels_bytes : windowed.bytesAt windowed.job .store 0x26000 4 0x26000 := by
  intro u hp hm k hk
  refine mapped u hp (fun a h => (hm a (by omega)).trans ?_) _ rfl .store (.inr rfl) _ (by omega)
  rfl
theorem witness_WindowsAndChannels_peer : (windowed.windowWrite { transfer with isHost := false, peer := 4 } [1, 2]).isSome = true
    ∧ (windowed.windowAt { transfer with isHost := false, peer := 4 } true 0x40 16).isSome = true := by decide +kernel
theorem witness_WindowsAndChannels_stores : engines.Focused ∧ engines.rets = [] ∧ engines.pairOpen = false ∧ (∀ x ∈ engines.ejobs, x.id < engines.nextId)
    ∧ (∀ k < 16, windowed.fixedByte (0x26000 + k) = 0) := ⟨engines_focused, by decide +kernel, by decide +kernel, by decide +kernel, by decide +kernel⟩
theorem witness_WindowsAndChannels_copy :
    let s : State := { engines with plot := { engines.plot with chans := setAt engines.plot.chans 3 { index := 0, valid := true, got := 3 } } }
    s.plot.chans.length = 16 ∧ (s.plot.chans.getD 3 {}).valid = true ∧ (s.plot.chans.getD 3 {}).got ≠ 0xFF ∧ (s.plot.chans.getD 4 {}).valid = false ∧ s.rets = []
    ∧ s.checkBlocked = false
    ∧ (let u := s.beforeEffect.setChan 3 fun c => { c with addr := 0x21000, got := 0xFF }
       (match u.copyJob 0 none 3 0 0x21000 with | .ok (e, _) => decide (u.issueStop e = none) | .error _ => false) = true) := by decide +kernel

def op (k : SeqKind) (tiles bins : List Nat) : SeqOp :=
  { id := 300, plot := tiled.plot.id, fur := tiled.fur.id, logical := 0, pc := 0x10000, off := 0, kind := k, tiles := tiles, bins := bins, issuers := 1, before := 1 }
def sequenced (o : SeqOp) : State := { tiled with core := { tiled.core with seq := [o, { o with id := 301, running := false }] } }
theorem witness_SequencerSteps : ∀ o ∈ [op (.bclr 0) [] [0], op (.mma 0 (.tile 0) (.tile 1) false false false 16 16 16) [0, 1] [0]],
    (sequenced o).parkedOps 1 = [] ∧ (((sequenced o).coreOf 1).seq.any (·.running)) = false ∧ (sequenced o).pickOp [] ((sequenced o).coreOf 1).seq = some o ∧ o.started = false
    ∧ 0 < ((sequenced o).focusPlot o.plot).plot.bins.length := by decide +kernel
/-- A projection that has not started, and one that has. -/
theorem witness_SequencerSteps_adjoint : let o := op (.prjadj 0 1 0) [0] [1]
    (sequenced o).parkedOps 1 = [] ∧ (sequenced o).pickOp [] ((sequenced o).coreOf 1).seq = some o ∧ o.started = false ∧ { o with started := true }.kind = .prjadj 0 1 0 := by decide +kernel
theorem witness_SequencerSteps_done : ∀ o ∈ [op (.bclr 0) [] [0], op (.mma 0 (.tile 0) (.tile 1) false false false 16 16 16) [0, 1] [0]],
    let p : SeqOp := { o with running := true }
    ((sequenced p).coreOf 1).seq.find? (·.running) = some p ∧ ((sequenced p).focusPlot p.plot).core.id = 1 ∧ ((sequenced p).focusPlot p.plot).plot.id ≠ 0
    ∧ ((sequenced p).focusPlot p.plot).plot.status = .resident ∧ p.steps ≤ p.step + 1 := by decide +kernel

/-- Operations of one step at work: a drain with its counts asked for by a furrow, an adjoint, sums, and a transposition. -/
theorem witness_SequencerSteps_single : ∀ o ∈ [{ op (.drain 0 16 false 0 0 0 (.slice 40 7)) [0] [0] with listed := [(tiled.fur.id, 0xF)] }, op (.drain 0 16 false 0 0 0 .none) [0] [0],
      { op (.prjadj 16 0 0) [0] [0] with tiles2 := [1] }, op (.prjsum 1 16 0) [] [0], op (.ttrans 0 1) [0, 1] []],
    let p : SeqOp := { o with running := true }
    let t0 := (sequenced p).focusPlot p.plot
    p.steps = 1 ∧ p.step = 0 ∧ p.bins.Nodup ∧ (∀ n ∈ p.bins, n < t0.plot.bins.length) ∧ p.tiles.Nodup ∧ (∀ k ∈ p.tiles, k < t0.plot.tiles.length)
    ∧ (∀ b ∈ t0.plot.bins, swf (0 : BitVec 32) b.elems = true ∧ swf (0 : BitVec 256) b.recs = true)
    ∧ (∀ u ∈ t0.plot.tiles, swf (0 : Byte) u.bytes = true ∧ swf (0x7F : Byte) u.scales = true)
    ∧ ((sequenced p).coreOf 1).seq.find? (·.running) = some p ∧ t0.core.id = 1 ∧ t0.plot.status = .resident := by decide +kernel
theorem witness_SequencerSteps_counts : let t0 := (sequenced (op (.drain 0 16 false 0 0 0 (.slice 40 7)) [0] [0])).focusPlot tiled.plot.id
    t0.allFurs.map (·.id) = [tiled.fur.id] ∧ (t0.allFurs.map (·.id)).Nodup ∧ tiled.fur.id ≠ 0 ∧ (∀ g ∈ t0.allFurs, g.lanes.length = 32) ∧ codeBits 7 = 64 := by decide +kernel
theorem witness_SequencerSteps_transposed : (tiled.tile 0).isSome = true ∧ (tiled.tile 1).isSome = true ∧ tileFmt (tile 19 16 32) = 19 ∧ [8, 16, 32].contains (fmtBits 19) = true
    ∧ tileRows (tile 19 16 32) = tileCols (tile 19 16 32) := by decide +kernel
/-- Both halves of a backward product. -/
theorem witness_SequencerSteps_backward : ∀ k ∈ [0, 1], let p : SeqOp := { op (.dmma 0 1 (.tile 0) (.tile 1) (.tile 3) 16 16 16) [0, 1, 3] [0, 1] with running := true, steps := 2, step := k }
    ((sequenced p).coreOf 1).seq.find? (·.running) = some p ∧ (decide (k < (16 + 31) / 32) = decide (k = 0)) ∧ 1 < ((sequenced p).focusPlot p.plot).plot.bins.length := by decide +kernel
/-- A product whose left operand comes from memory. -/
def streamed : SeqOp := { op (.mma 0 (.stream 0x21000 (BitVec.ofNat 512 (0x24000 + 19 * 2 ^ 64 + 2 ^ 69 + 2 * 2 ^ 128 + 2 * 2 ^ 160 + 32 * 2 ^ 256))) (.tile 1) false false false 2 2 2) [1] [0] with started := true }
theorem witness_SequencerSteps_streamed :
    let s : State := { sequenced streamed with mem := tables (sequenced streamed).mem, job := { (sequenced streamed).job with root := 0x40000 } }
    let t0 := s.focusPlot streamed.plot
    s.parkedOps 1 = [] ∧ s.pickOp [] (s.coreOf 1).seq = some streamed
    ∧ streamed.seg.any (fun g => let bytes := streamBytes g.a g.elemsA ++ streamBytes g.b g.elemsB
        bytes.length == 4 && bytes.all fun p => t0.jobMiss t0.job .load p.1 p.2 == none && t0.jobSick t0.job p.1 p.2 == []) = true := by decide +kernel

/-! Steps -/

/-- The demonstration whose next turn lets its furrow issue the word at its program counter: add.n64 s16:64, s0:64, s8:64. -/
def ready : State := { demo with
  agenda := [.furrow demo.fur.id], mem := Memory.writeN demo.mem 0x10000 8 (sWord 0x080 0 29 0 0x087 0x007 0x047).toNat }
def readied : State := { ready with agenda := [] }
theorem ready_issues : ready.Issues { readied with fur := { readied.fur with cur := 0 } } :=
  ⟨0, [], rfl, by decide +kernel, by decide +kernel, by decide +kernel, rfl⟩
theorem witness_StepRunsDecoded : ({ readied with fur := { readied.fur with cur := 0 } } : State).holdsCode (.one (sWord 0x080 0 29 0 0x087 0x007 0x047)) :=
  ⟨⟨by decide +kernel, 0x10000, by decide +kernel, by decide +kernel⟩, by decide +kernel⟩
theorem witness_StepRunsDecoded_instruction : decodeCode (.one (sWord 0x080 0 29 0 0x087 0x007 0x047)) = .ok (.addInt { fmt := 29, a := .slice 16 7, b := .slice 0 7, c := .slice 8 7 })
    ∧ ready.fur.overdue = false ∧ ready.fur.splits.length = 4
    ∧ ∀ j < 4, ∀ k < j, ¬((ready.fur.splits.getD k {}).valid = true ∧ (ready.fur.splits.getD j {}).valid = true ∧ (ready.fur.splits.getD k {}).pc = (ready.fur.splits.getD j {}).pc) := by decide +kernel
theorem witness_DecodeEncode : Instr.wellFormed (.addInt { fmt := 29, a := .slice 16 7, b := .slice 0 7, c := .slice 8 7 }) = true
    ∧ encode (.addInt { fmt := 29, a := .slice 16 7, b := .slice 0 7, c := .slice 8 7 }) = some (.one (sWord 0x080 0 29 0 0x087 0x007 0x047)) := by decide +kernel
theorem witness_StepKeepsMemory : ready.memWf ∧ (match step ready with | .next _ => true | _ => false) = true := by unfold State.memWf; decide +kernel
theorem witness_PrivilegeGuards : demo.fur.priv = false ∧ (match exec (.addInt { fmt := 29, a := .slice 16 7, b := .slice 0 7, c := .slice 8 7 }) demo with | .next _ => true | _ => false) = true := by decide +kernel


/-! ### More words: those that the spec works out, hints, kernel calls, halves -/

theorem test_decode_spec_words : ∀ p ∈ ([
      (0x4800D00850014045, .addInt { fmt := 26, a := .slice 16 5, b := .slice 0 5, c := .slice 8 5 }),
      (0x404000003E004000, .brd { a := .raw 3, b := .mask 1 }),
      (0x6610E8107A080007, .rngHi { fmt := 29, a := .slice 32 7, b := .xreg 1 0 0, c := .slice 0 7 }),
      (0x6620A4087A080007, .rngu { fmt := 20, ext := true, a := .slice 16 7, b := .xreg 1 0 0, c := .slice 0 7 }),
      (0x6C01D8005A203001, .atomAddRet { guard := 1, fmt := 27, a := .slice 0 5, b := .xreg 4 0 0, c := .imm 1 }),
      (0x7430980000000001, .mma { fmt := 19, a := .raw 0, b := .raw 0, c := .raw 1 }),
      (0x7600980020000000, .drain { fmt := 19, a := .raw 2, b := .raw 0, c := .raw 0 }),
      (0x741000000C00C000, .team { b := .imm 3 }),
      (0x7620980060000005, .prjadj { fmt := 19, a := .raw 6, b := .raw 0, c := .raw 5 }),
      (0x441000001A503001, .yieldW { a := .raw 1, b := .xreg 10 0 0, c := .imm 1 }),
      (0x4D50D380100168C0, .cmpGeInt { fmt := 26, a := .mask 1, b := .slice 0 5, c := .xreg 6 0 0 }),
      (0x40200000CE004000, .brany { a := .raw 12, b := .mask 1 }),
      (0x4430000000003000, .bar { c := .imm 0 }),
      (0x442000000A080000, .waitt { b := .xreg 1 0 0 }),
      (0x721000000A180000, .nwr { b := .xreg 3 0 0 }),
      (0x6E0000000A403001, .waitv { b := .xreg 8 0 0, c := .imm 1 }),
      (0x780002940C000000, .mfs { a := .xreg 10 0 0, b := .imm 0 }),
      (0x7A2000000C046840, .sluice { b := .imm 17, c := .xreg 2 0 0 })] : List (Word × Instr)),
    decodeFrame false p.1 0 = .ok p.2 8 := by decide +kernel
/-- `st.n32.rel.die [x5], 1` and `drain.bf16 t3, b0, simplex, 8, x2, s200:64` (R193, R246). -/
theorem test_decode_spec_pairs :
    decodeFrame false 0x8A0700100D800009 0xC0A2800000000000 = .ok (.st { wide := true, fmt := 27, a := .imm 1, b := .xreg 5 0 0, ord := 1, scope := 2 }) 16
    ∧ decodeFrame false 0x8D80003009800000 0xC00000041A100647 =
      .ok (.drain { wide := true, fmt := 19, a := .raw 3, b := .raw 0, c := .raw 0x41, d := .xreg 2 0 0, e := .slice 200 7 }) 16 := by decide +kernel
theorem test_decode_hints : decodeFrame false (sWord 0x3C0 0 0 0 0 0 0) 0 = .ok .nop 8 ∧ decodeFrame false (sWord 0x3C1 0 0 0 0 0 0) 0 = .ok .hreuse 8
    ∧ decodeFrame false (sWord 0x3C2 0 0 0 0 0 0) 0 = .ok .hlikely 8 := by decide +kernel
/-- The immediates of `trap` that call the kernel are instructions of their own (R226). -/
theorem test_decode_traps : ∀ p ∈ ([(511, .trap { c := .imm 511 }), (512, .kmap), (513, .kunmap), (514, .kmove), (515, .kend), (516, .kevent), (517, .kretire), (518, .trap { c := .imm 518 })] : List (Nat × Instr)),
    decodeFrame false (sWord 0x381 0 0 0 0 0 (0x3000 + p.1)) 0 = .ok p.2 8 := by decide +kernel
/-- The pair 0x0401_1002_0802_1002 (R119), and halves written as [31:25] opcode, [24:22] guard, [21:11] destination, [10:0] source. -/
theorem test_decode_pair : decodeFrame true 0x0401100208021002 0 = .ok (.pMovN32 { half := true, dst := ⟨false, 8, 2⟩, src := ⟨false, 0, 2⟩ }) 4
    ∧ decodeFrame false 0x0401100208021002 0 = .ok (.pAddI32 { dst := ⟨false, 16, 2⟩, src := ⟨false, 0, 2⟩ }) 4 := by decide +kernel
theorem test_decode_halves : ∀ p ∈ ([(2, .pMovN32), (3, .pMovN64), (4, .pAddI32), (5, .pAddI64), (6, .pSubI32), (7, .pSubI64), (8, .pMulI32), (9, .pAndN64), (10, .pOrN64), (11, .pXorN64),
      (16, .pAddF32), (17, .pSubF32), (18, .pMulF32), (19, .pMaxF32), (20, .pMinF32), (21, .pMovN8), (22, .pMovN16), (23, .pAddI16), (32, .pAddF64), (33, .pMulF64), (34, .pAddBf16),
      (35, .pMulBf16), (36, .pAddF16), (37, .pMulF16)] : List (Nat × (PArgs → Instr))),
    decodeFrame false (BitVec.ofNat 64 (p.1 * 2 ^ 25 + 2 * 2 ^ 22 + 0b10000010010 * 2 ^ 11 + 0b00000100011)) 0 = .ok (p.2 { guard := 2, dst := ⟨true, 4, 2⟩, src := ⟨false, 8, 3⟩ }) 4 := by decide +kernel
theorem test_decode_halves_imm : (∀ p ∈ ([(12, .pAddI32Imm), (13, .pShlN32Imm), (14, .pShrN32Imm), (15, .pSarI32Imm), (38, .pMovI32Imm)] : List (Nat × (PImm → Instr))),
    decodeFrame false (BitVec.ofNat 64 (p.1 * 2 ^ 25 + 3 * 2 ^ 22 + 0b10000010010 * 2 ^ 11 + 31)) 0 = .ok (p.2 { guard := 3, dst := ⟨true, 4, 2⟩, imm := 31 }) 4)
    ∧ decodeFrame false (BitVec.ofNat 64 (2 ^ 25 + 5 * 2 ^ 22)) 0 = .ok (.pNop false 5) 4 := by decide +kernel
/-- Words that name nothing, each refused by name. -/
theorem test_decode_refused : (match decodeFrame false (sWord 0x006 0 0 0 0 0 0) 0 with | .bad (.unclaimed _) => true | _ => false) = true
    ∧ (match decodeFrame false (3 <<< 62) 0 with | .bad _ => true | _ => false) = true ∧ (match decodeFrame false (wWord0 0x281 0 0 27 0 0 0) 0 with | .bad _ => true | _ => false) = true
    ∧ (match decodeFrame false (sWord 0x080 0 20 0 0x85 0x5 0x45) 0 with | .bad (.field _) => true | _ => false) = true := by decide +kernel

/-! ### Terms that are not well formed, one for each check -/

def plain : Args := { fmt := 26, a := .slice 16 5, b := .slice 0 5, c := .slice 8 5 }
theorem test_illFormed : (Instr.addInt plain).wellFormed = true ∧ ∀ i ∈ ([
      -- a destination that is an immediate, a source that is missing, a format of no integer
      .addInt { plain with a := .imm 3 }, .addInt { plain with c := .none }, .addInt { plain with fmt := 20 },
      -- two x-registers, fields of a W word in an S word, a rounding mode, a memory order, a scope, an extension
      .addInt { plain with b := .xreg 3 0 0, c := .xreg 4 0 0 }, .addInt { plain with d := .slice 0 5 }, .addInt { plain with wide := true, rnd := 1 },
      .addInt { plain with wide := true, ord := 1 }, .addInt { plain with wide := true, scope := 2 }, .addInt { plain with wide := true, xmod := 1 },
      .addInt { plain with wide := true, g1 := 1 }, .addInt { plain with wide := true, f1 := 1 }, .addInt { plain with wide := true, ua := true },
      .addInt { plain with wide := true, lu := true }, .br { guard := 3, a := .imm 1 }, .mad plain, .team { guard := 1, b := .imm 3 }, .trap { c := .imm 512 },
      -- halves
      .pShlN32Imm { dst := ⟨false, 0, 2⟩, imm := 32 }, .pAddF64 { half := true, dst := ⟨false, 0, 3⟩, src := ⟨false, 8, 3⟩ },
      .pMovI32Imm { half := true, dst := ⟨false, 0, 2⟩, imm := 1 }] : List Instr), i.wellFormed = false := by decide +kernel

/-! ### First steps after reset -/

/-- The furrow after the first step from reset on a word. -/
def first (nbits w : Nat) : Furrow := match step (State.reset.withFetchWord nbits w) with | .next t => t.fur | _ => {}
theorem test_step_add : (first 64 (sWord 0x080 0 26 0 0x85 0x3005 0x3005).toNat).lanes.map (fun l => (l.data.extractLsb' 64 32).toNat) = List.replicate 32 10 := by decide +kernel
/-- `mov.i32 s1040:32, #-1` in a half: the immediate is sign-extended, and the program counter goes to the other half (R112, R120). -/
theorem test_step_half : let f := first 32 (38 * 2 ^ 25 + 0b10000010010 * 2 ^ 11 + 0x7FF)
    (f.splits.getD 0 {}).pc = 0x10004 ∧ f.lanes.map (fun l => (l.data.extractLsb' (4 * 260) 32).toNat) = List.replicate 32 0xFFFFFFFF := by decide +kernel
theorem test_step_illegal : (match step (State.reset.withFetchWord 64 (3 * 2 ^ 62)) with | .next t => decide (t.fur.status = .ready) | _ => true) = false := by decide +kernel
theorem test_tableWord : decodeTableWord 32 (4 * 2 ^ 25) = some (.pAddI32 { dst := ⟨false, 0, 0⟩, src := ⟨false, 0, 0⟩ }) ∧ (decodeTableWord 64 (3 * 2 ^ 62)).isNone = true := by decide +kernel

/-! ### Values that the spec works out -/

/-- The demonstration with a value in the first slices of every lane. -/
def holding (v : Nat) : State := { demo with fur := { demo.fur with lanes := List.replicate 32 { data := BitVec.ofNat 4096 v } } }
/-- `n` bits of lane 5 from slice 16 on, after an instruction. -/
def result (n : Nat) (i : Instr) (s : State) : Nat := match exec i s with | .next t => ((t.fur.lanes.getD 5 {}).data.extractLsb' 64 n).toNat | _ => 0
/-- File 01, Fragment 1: 5 + 100 is 0x69 in lane 5. -/
theorem test_lane_sum : result 32 (.addInt { fmt := 26, a := .slice 16 5, b := .lane, c := .imm 100 }) demo = 0x69 := by decide +kernel
/-- File 03: a source of 8 bits is extended by sign, and by zero with `.zx`. -/
theorem test_extension : result 32 (.addInt { fmt := 26, a := .slice 16 5, b := .slice 0 1, c := .imm 5 }) (holding 0xF0) = 0xFFFFFFF5
    ∧ result 32 (.addInt { fmt := 26, ext := true, a := .slice 16 5, b := .slice 0 1, c := .imm 5 }) (holding 0xF0) = 0xF5 := by decide +kernel
/-- File 07, Integer arithmetic: saturation. -/
theorem test_saturation : result 8 (.subs { fmt := 23, a := .slice 16 1, b := .imm 5, c := .imm 9 }) demo = 0 ∧ result 8 (.adds { fmt := 22, a := .slice 16 1, b := .imm 100, c := .imm 100 }) demo = 127 := by decide +kernel
/-- File 08: the approximate reciprocal of 3.0 is 1365/4096. -/
theorem test_rcpa : (fRcpa (decodeNum 20 0x40400000)).1 = 0x3EAAA000 := by decide +kernel
/-- File 04: worked conversions. -/
theorem test_conversions : (convElem 18 20 0x34600000 0 0 (ieeeMax 18)).1 = 4 ∧ (convElem 18 20 0x7FC12345 0 0 (ieeeMax 18)).1 = 0x7E09 ∧ (convElem 17 20 0x7FC12345 0 0 (capOf 17 0)).1 = 0x80
    ∧ (convElem 20 16 0x20 0 0 (ieeeMax 20)).1 = 0x7FC00000 ∧ (convElem 17 20 0x3F860000 0 0 (capOf 17 0)).1 = 0x41 := by decide +kernel
/-- File 04: worked T8 codes, 3.25, 0.59375, 12 and -3.25. -/
theorem test_t8 : [0x5A, 0x33, 0x6C, 0xA6].map (decodeNum 17) = [.fin false 26 (-3), .fin false 19 (-5), .fin false 12 0, .fin true 26 (-3)] := by decide +kernel
/-- File 18: a worked walk. -/
theorem test_walk : walkFrom [(0x8000100000, 3), (0x8000100001, 0x40), (0x8000100002, 0x10), (0x8000100004, 0x80), (0x8000104080, 3), (0x8000104081, 0x80), (0x8000104082, 0x10), (0x8000104084, 0x80),
      (0x8000108488, 3), (0x8000108489, 0x90), (0x800010848A, 0x10), (0x800010848C, 0x80), (0x8000109088, 0x31), (0x800010908A, 0x34), (0x800010908B, 0x12), (0x800010908D, 1), (0x800010908E, 0x2A)] [] 1 0x412310004 3 0x8000100000
    = .leaf { asid := 1, va := 0x412310000, size := 0x10000, pa := 0x10012340000, r := true, w := true, x := false, p := false } := by decide +kernel

end Sys2Proof.Tests
end

section
/-! How a fetched word decodes by its frame bits (R112, R114), and what a step does with a word that no frame begins with. -/

namespace Sys2Proof

/-! ### The frame bits (R112, R114) -/

theorem decodeFrame_half {w0 : Word} (h : w0.extractLsb' 62 2 = 0) (half1 : Bool) (w1 : Word) :
    decodeFrame half1 w0 w1 = .ofExcept 4 (decodeHalf half1 (if half1 then w0.extractLsb' 32 32 else w0.extractLsb' 0 32)) := by
  unfold decodeFrame
  rw [h]
  cases half1 <;> rfl

theorem decodeFrame_one {w0 : Word} (h : w0.extractLsb' 62 2 = 1) (half1 : Bool) (w1 : Word) :
    decodeFrame half1 w0 w1 = .ofExcept 8 (decodeS w0) := by
  unfold decodeFrame
  rw [h]
  rfl

theorem decodeFrame_two {w0 w1 : Word} (h : w0.extractLsb' 62 2 = 2) (half1 : Bool) (h1 : w1.extractLsb' 62 2 = 3) :
    decodeFrame half1 w0 w1 = .ofExcept 16 (decodeW w0 w1) := by
  unfold decodeFrame
  rw [h, h1]
  rfl

theorem decodeFrame_noContinuation {w0 w1 : Word} (h : w0.extractLsb' 62 2 = 2) (half1 : Bool) (h1 : w1.extractLsb' 62 2 ≠ 3) :
    decodeFrame half1 w0 w1 = .bad .noContinuation := by
  unfold decodeFrame
  rw [h]
  exact if_neg (by simpa using h1)

theorem decodeFrame_continuation {w0 : Word} (h : w0.extractLsb' 62 2 = 3) (half1 : Bool) (w1 : Word) :
    decodeFrame half1 w0 w1 = .bad .continuation := by
  unfold decodeFrame
  rw [h]
  rfl

end Sys2Proof

namespace Sys2Proof.Machine

/-! ### Fetch of words that are there (R112 to R114) -/

/-- What fetch makes of a decoded frame. -/
def Fetched.ofDecoded : Decoded → Fetched
  | .ok i n => .instr i n
  | .bad r => .bad r

/-- One word is fetched where its frame bits are not those of a W frame. -/
theorem State.fetch_of_wordAt {u : State} {w0 : Word} (h0 : u.wordAt (u.split.pc &&& ~~~7#64) w0) (hw : w0.extractLsb' 62 2 ≠ 2) :
    u.fetch = .ofDecoded (decodeFrame (u.split.pc.getLsbD 2) w0 0) := by
  obtain ⟨hout, a, ha, rfl⟩ := h0
  simp only [State.fetch, hout, ha, beq_eq_false_iff_ne.2 hw, Bool.false_eq_true, if_false]
  cases decodeFrame (u.split.pc.getLsbD 2) (Memory.word u.mem a) 0 <;> rfl

/-- Two words are fetched where the first has the frame bits of a W frame. -/
theorem State.fetch_of_wordAt_two {u : State} {w0 w1 : Word} (h0 : u.wordAt (u.split.pc &&& ~~~7#64) w0)
    (hw : w0.extractLsb' 62 2 = 2) (h1 : u.wordAt ((u.split.pc &&& ~~~7#64) + 8) w1) :
    u.fetch = .ofDecoded (decodeFrame false w0 w1) := by
  obtain ⟨hout, a, ha, rfl⟩ := h0
  obtain ⟨hout1, b, hb, rfl⟩ := h1
  simp only [State.fetch, hout, ha, hout1, hb, beq_iff_eq.2 hw, Bool.false_eq_true, if_false, if_true]
  cases decodeFrame false (Memory.word u.mem a) (Memory.word u.mem b) <;> rfl

/-! ### A furrow's turn to issue (R21, R26) -/

theorem State.deliverWhere_of_none {s : State} {pick : Nat → Bool} (h : ∀ r ∈ s.rets, pick r.fur = false) :
    s.deliverWhere pick = s := by
  have hnil : (s.rets.filter fun r => pick r.fur) = [] := List.filter_eq_nil_iff.2 fun r hr => by simp [h r hr]
  rw [State.deliverWhere, hnil, List.foldl_nil]

/-- The step of a furrow that issues is one issue, with the wait counts and the time that follow it. -/
theorem State.Issues.step_eq {s u : State} (h : s.Issues u) :
    ∃ v k, v.fur.nextSplit = some k ∧ u = v.setFur { v.fur with cur := k } ∧
      step s = onNext State.tick (onNext (s.counted ·) (issue v)) := by
  obtain ⟨k, rest, hag, hcan, hk, hrets, rfl⟩ := h
  refine ⟨{ s with agenda := rest }, k, hk, rfl, ?_⟩
  have hd : ({ s with agenda := rest } : State).deliverWhere (· = s.fur.id) = { s with agenda := rest } :=
    State.deliverWhere_of_none fun r hr => decide_eq_false (hrets r hr)
  have hturn : furrowTurn s.fur.id { s with agenda := rest } = onNext (s.counted ·) (issue { s with agenda := rest }) := by
    simp only [furrowTurn, if_true, hcan, hd, State.counted, hag, List.drop_succ_cons, List.drop_zero]
  simp only [step, hag, hturn]

/-- A fetch that comes to no instruction, for another reason than the code range, is handed to `reservedOpcode` before the
deadline. -/
theorem issue_of_bad {v : State} {k : Nat} {r : Reject} (hk : v.fur.nextSplit = some k) (ho : v.fur.overdue = false)
    (hf : (v.setFur { v.fur with cur := k }).fetch = .bad r) (hr : r ≠ .outsideRange) :
    issue v = exec .reservedOpcode { v.setFur { v.fur with cur := k } with input := .reservedOpcode r } := by
  have ho' : (v.setFur { v.fur with cur := k }).fur.overdue = false := ho
  simp only [issue, hk, hf, ho', Bool.false_eq_true, if_false]

/-! ### ILLEGAL by the frame bits (R114) -/

theorem exec_reservedOpcode_frame {u : State} {r : Reject} (hr : r = .continuation ∨ r = .noContinuation) :
    exec .reservedOpcode { u with input := .reservedOpcode r } =
      ({ u with input := .reservedOpcode r } : State).takeFault { cause := .illegal } := by
  obtain rfl | rfl := hr <;> rfl

/-- A continuation as the first word, or a word after a W frame's first that is no continuation: fetch names which. -/
theorem State.fetch_frame_bad {u : State} {w0 w1 : Word} (h0 : u.wordAt (u.split.pc &&& ~~~7#64) w0)
    (hbad : w0.extractLsb' 62 2 = 3 ∨
      (w0.extractLsb' 62 2 = 2 ∧ u.wordAt ((u.split.pc &&& ~~~7#64) + 8) w1 ∧ w1.extractLsb' 62 2 ≠ 3)) :
    ∃ r, (r = .continuation ∨ r = .noContinuation) ∧ u.fetch = .bad r := by
  obtain h3 | ⟨h2, h1, hn⟩ := hbad
  · refine ⟨.continuation, .inl rfl, ?_⟩
    rw [State.fetch_of_wordAt h0 (by rw [h3]; decide), decodeFrame_continuation h3]
    rfl
  · refine ⟨.noContinuation, .inr rfl, ?_⟩
    rw [State.fetch_of_wordAt_two h0 h2 h1, decodeFrame_noContinuation h2 false hn]
    rfl

/-- The step of a furrow whose fetch finds no frame takes ILLEGAL. -/
theorem step_of_frame_bad {s u : State} {r : Reject} (h : s.Issues u) (ho : u.fur.overdue = false) (hf : u.fetch = .bad r)
    (hr : r = .continuation ∨ r = .noContinuation) :
    step s = onNext State.tick (onNext (s.counted ·)
      (({ u with input := .reservedOpcode r } : State).takeFault { cause := .illegal })) := by
  obtain ⟨v, k, hk, rfl, hstep⟩ := h.step_eq
  have hin : r ≠ .outsideRange := by obtain rfl | rfl := hr <;> decide
  rw [hstep, issue_of_bad hk ho hf hin, exec_reservedOpcode_frame hr]

/-! The first furrow after reset meets what `State.fetch_frame_bad` and `step_of_frame_bad` ask, with each of the two words that
R114 refuses. -/

/-- The state in which the furrow of `State.withFetchWord` issues the word at its program counter. -/
def fetchingWord (w : Nat) : State :=
  let s := State.reset.withFetchWord 64 w
  { s with agenda := [], fur := { s.fur with cur := 0 } }

theorem fetchingWord_issues (w : Nat) : (State.reset.withFetchWord 64 w).Issues (fetchingWord w) := by
  have hfur : (State.reset.withFetchWord 64 w).fur = (State.reset.withFetchWord 64 0).fur := rfl
  refine ⟨0, [], rfl, ?_, ?_, fun _ hr => absurd hr List.not_mem_nil, rfl⟩ <;> rw [hfur] <;> decide +kernel

theorem fetchingWord_continuation :
    let u := fetchingWord (3 * 2 ^ 62)
    u.fur.overdue = false ∧ u.wordAt (u.split.pc &&& ~~~7#64) (3 <<< 62) ∧ (3 <<< 62 : Word).extractLsb' 62 2 = 3 :=
  ⟨by decide +kernel, ⟨by decide +kernel, codeAt, by decide +kernel, by decide +kernel⟩, by decide⟩

theorem fetchingWord_noContinuation :
    let u := fetchingWord (2 * 2 ^ 62)
    u.fur.overdue = false ∧ u.wordAt (u.split.pc &&& ~~~7#64) (2 <<< 62) ∧ (2 <<< 62 : Word).extractLsb' 62 2 = 2 ∧
      u.wordAt ((u.split.pc &&& ~~~7#64) + 8) 0 ∧ (0 : Word).extractLsb' 62 2 ≠ 3 :=
  ⟨by decide +kernel, ⟨by decide +kernel, codeAt, by decide +kernel, by decide +kernel⟩, by decide,
    ⟨by decide +kernel, codeAt + 8, by decide +kernel, by decide +kernel⟩, by decide⟩

/-- Settles O55: the frame bits choose the decoder, a word that no frame begins with takes ILLEGAL, and the words of the
examples are decoded by evaluation. -/
theorem decodeWords : Obligations.DecodeWords := by
  unfold Obligations.DecodeWords
  refine ⟨fun half1 w0 w1 => ⟨fun h => decodeFrame_half h half1 w1, fun h => decodeFrame_one h half1 w1,
      fun h => decodeFrame_two h half1, fun h => decodeFrame_noContinuation h half1, fun h => decodeFrame_continuation h half1 w1⟩,
    fun s u w0 w1 hi ho h0 hbad => ?_, by decide, by decide, by decide, by decide, by decide, by decide⟩
  obtain ⟨r, hr, hf⟩ := State.fetch_frame_bad h0 hbad
  exact ⟨r, step_of_frame_bad hi ho hf hr⟩

end Sys2Proof.Machine
end

section
/-! Sources and the shapes of integer instructions: what is read, what is written, and that nothing stops them (R46, R151). -/

namespace Sys2Proof.Machine

/-! ### Instructions that nothing stops -/

/-- An instruction whose checks pass completes with its effect. -/
theorem completes_of_guarded {i : Instr} {s body : State} {chk : Option Stop} {P : State → Prop} (he : exec i s = guarded chk s body)
    (hc : chk = none) (hP : P body) : Completes i s P :=
  ⟨body, by rw [he, hc, guarded_none], hP⟩

theorem State.intStop_of_readable {s : State} {f : Args} (hf : fmtIsClass f.fmt = false) (hr : Readable s f.operands) :
    s.intStop f = none := by
  simp only [State.intStop, hf, stopIf, Bool.false_eq_true, if_false, Option.none_or, namesStop_of_readable hr]

/-! ### The range of a source (R46) -/

theorem wrap_lt (w : Nat) (z : Int) : wrap w z < 2 ^ w := by
  have hpos : (0 : Int) < ((2 ^ w : Nat) : Int) := by exact_mod_cast Nat.two_pow_pos w
  have hlt := Int.emod_lt_of_pos z hpos
  have hnn := Int.emod_nonneg z (ne_of_gt hpos)
  unfold wrap
  omega

@[simp] theorem wrap_natCast (w n : Nat) : wrap w (n : Int) = n % 2 ^ w := by
  rw [wrap, ← Int.natCast_mod, Int.toNat_natCast]

theorem extend_lt (sg : Bool) (n m v : Nat) : extend sg n m v < 2 ^ m := by
  unfold extend
  cases sg
  · exact Nat.mod_lt _ (Nat.two_pow_pos m)
  · exact wrap_lt m _

theorem State.src_lt (s : State) (sx : Bool) (w : Nat) (o : Operand) (i : Nat) : (s.src sx w o i).v < 2 ^ w := by
  simp only [State.src]
  split
  · exact extend_lt _ _ _ _
  · exact Nat.mod_lt _ (Nat.two_pow_pos w)

/-! ### Numbers given by their bits -/

theorem bitsNat_lt (n : Nat) (p : Nat → Bool) : bitsNat n p < 2 ^ n := by
  induction n with
  | zero => exact Nat.one_pos
  | succ n ih =>
    rw [bitsNat, pow_succ]
    split <;> omega

theorem testBit_bitsNat (n : Nat) (p : Nat → Bool) (j : Nat) : (bitsNat n p).testBit j = (decide (j < n) && p j) := by
  induction n with
  | zero => simp [bitsNat]
  | succ n ih =>
    have hsum : bitsNat (n + 1) p = 2 ^ n * (p n).toNat + bitsNat n p := by
      rw [bitsNat]
      cases p n <;> simp [Nat.add_comm]
    rw [hsum, Nat.testBit_two_pow_mul_add _ (bitsNat_lt n p), ih]
    obtain hj | rfl | hj := lt_trichotomy j n
    · simp [hj, Nat.lt_succ_of_lt hj]
    · cases p j <;> simp
    · have h1 : ¬ j < n := by omega
      have h2 : ¬ j < n + 1 := by omega
      obtain ⟨k, hk⟩ : ∃ k, j - n = k + 1 := ⟨j - n - 1, by omega⟩
      cases p n <;> simp [h1, h2, hk, Nat.testBit_succ]

/-- A number below `2^n` is what its bits make. -/
theorem eq_bitsNat {n v : Nat} {p : Nat → Bool} (hv : v < 2 ^ n) (hp : ∀ j < n, v.testBit j = p j) : v = bitsNat n p := by
  apply Nat.eq_of_testBit_eq
  intro j
  rw [testBit_bitsNat]
  by_cases hj : j < n
  · simp [hj, hp j hj]
  · simp [hj, Nat.testBit_lt_two_pow (hv.trans_le (Nat.pow_le_pow_right Nat.two_pos (Nat.le_of_not_lt hj)))]

theorem mod_eq_bitsNat {n v : Nat} {p : Nat → Bool} (hp : ∀ j < n, v.testBit j = p j) : v % 2 ^ n = bitsNat n p :=
  eq_bitsNat (Nat.mod_lt _ (Nat.two_pow_pos n)) fun j hj => by simp [Nat.testBit_mod_two_pow, hj, hp j hj]

theorem testBit_of_le {n v j : Nat} (hv : v < 2 ^ n) (hj : n ≤ j) : v.testBit j = false :=
  Nat.testBit_lt_two_pow (hv.trans_le (Nat.pow_le_pow_right Nat.two_pos hj))

/-! ### Shifts and rotates by their bits (R153) -/

theorem shlN_bits {w a : Nat} (c : Nat) :
    shlN w a c % 2 ^ w = bitsNat w fun j => decide (c ≤ j) && decide (j < w) && a.testBit (j - c) :=
  mod_eq_bitsNat fun j hj => by
    unfold shlN
    split
    next h => simp [show ¬ c ≤ j by omega]
    next h => simp [Nat.testBit_mod_two_pow, Nat.testBit_mul_two_pow, hj]

theorem shrN_bits {w a : Nat} (ha : a < 2 ^ w) (c : Nat) :
    shrN w a c % 2 ^ w = bitsNat w fun j => decide (j + c < w) && a.testBit (j + c) :=
  mod_eq_bitsNat fun j hj => by
    unfold shrN
    split
    next h => simp [show ¬ j + c < w by omega]
    next h =>
      by_cases hjc : j + c < w
      · simp [Nat.testBit_div_two_pow, hjc]
      · simp [Nat.testBit_div_two_pow, hjc, testBit_of_le ha (Nat.le_of_not_lt hjc)]

theorem wrap_eq_ofInt (w : Nat) (z : Int) : wrap w z = (BitVec.ofInt w z).toNat := by
  rw [BitVec.toNat_ofInt, wrap]

theorem toSigned_eq_toInt (w v : Nat) : toSigned w v = (BitVec.ofNat w v).toInt := by
  rw [BitVec.toInt_eq_toNat_cond, BitVec.toNat_ofNat, toSigned]
  cases w with
  | zero => simp [Nat.mod_one]
  | succ n =>
    rw [if_neg (Nat.succ_ne_zero n), Nat.add_sub_cancel]
    have h2 : 2 ^ (n + 1) = 2 * 2 ^ n := pow_succ' 2 n
    by_cases h : v % 2 ^ (n + 1) < 2 ^ n
    · rw [if_pos h, if_pos (by omega)]
    · rw [if_neg h, if_neg (by omega)]

/-- The arithmetic shift is that of bit vectors, by at most `w - 1`. -/
theorem sarN_eq_sshiftRight (w a c : Nat) : sarN w a c = ((BitVec.ofNat w a).sshiftRight (min c (w - 1))).toNat := by
  rw [sarN, wrap_eq_ofInt, toSigned_eq_toInt, BitVec.sshiftRight, Int.shiftRight_eq_div_pow]

theorem testBit_sarN {w a j : Nat} (hj : j < w) (c : Nat) : (sarN w a c).testBit j = a.testBit (min (j + c) (w - 1)) := by
  rw [sarN_eq_sshiftRight, BitVec.testBit_toNat, BitVec.getLsbD_sshiftRight, BitVec.msb_eq_getLsbD_last]
  simp only [BitVec.getLsbD_ofNat]
  have hnw : ¬ w ≤ j := by omega
  by_cases h : min c (w - 1) + j < w
  · have e : min (j + c) (w - 1) = min c (w - 1) + j := by omega
    simp [h, hnw, e]
  · have e : min (j + c) (w - 1) = w - 1 := by omega
    simp [h, hnw, e, show w - 1 < w by omega]

theorem sarN_bits (w a c : Nat) : sarN w a c % 2 ^ w = bitsNat w fun j => a.testBit (min (j + c) (w - 1)) :=
  mod_eq_bitsNat fun _ hj => testBit_sarN hj c

/-- The upper `k` of `w` bits put below the others. -/
theorem testBit_rotate {w a j k : Nat} (ha : a < 2 ^ w) (hk : k ≤ w) (hj : j < w) :
    (2 ^ k * a + a / 2 ^ (w - k)).testBit j = a.testBit ((j + w - k) % w) := by
  have hlow : a / 2 ^ (w - k) < 2 ^ k := Nat.div_lt_of_lt_mul (by rwa [← pow_add, Nat.sub_add_cancel hk])
  rw [Nat.testBit_two_pow_mul_add _ hlow, Nat.testBit_div_two_pow]
  split
  · rw [Nat.mod_eq_of_lt (by omega), show j + w - k = j + (w - k) by omega]
  · rw [show j + w - k = j - k + w by omega, Nat.add_mod_right, Nat.mod_eq_of_lt (by omega)]

theorem rotlN_bits {w a : Nat} (ha : a < 2 ^ w) (c : Nat) :
    rotlN w a c % 2 ^ w = bitsNat w fun j => a.testBit ((j + w - c % w) % w) := by
  rw [rotlN, Nat.mod_mod, Nat.mul_comm]
  exact mod_eq_bitsNat fun j hj => testBit_rotate ha (Nat.mod_lt c (by omega)).le hj

theorem rotrN_bits {w a : Nat} (ha : a < 2 ^ w) (c : Nat) :
    rotrN w a c % 2 ^ w = bitsNat w fun j => a.testBit ((j + c) % w) := by
  rw [rotrN, Nat.mod_mod, Nat.add_comm, Nat.mul_comm]
  refine mod_eq_bitsNat fun j hj => ?_
  have hk : c % w < w := Nat.mod_lt c (by omega)
  have h := testBit_rotate ha (Nat.sub_le w (c % w)) hj
  rw [Nat.sub_sub_self hk.le] at h
  rw [h, show j + w - (w - c % w) = j + c % w by omega, Nat.add_mod_mod]

/-! ### Counts of bits (R153) -/

theorem countBits_succ (n : Nat) (p : Nat → Bool) : countBits (n + 1) p = (p 0).toNat + countBits n fun k => p (k + 1) := by
  rw [countBits, List.range_succ_eq_map, List.filter_cons, List.filter_map, countBits]
  cases p 0 <;> simp [Nat.add_comm, Function.comp_def]

theorem firstBit_succ (n : Nat) (p : Nat → Bool) :
    firstBit (n + 1) p = if p 0 then 0 else (firstBit n fun k => p (k + 1)) + 1 := by
  rw [firstBit, List.range_succ_eq_map, List.find?_cons, List.find?_map, firstBit]
  cases p 0
  · cases h : List.find? (fun k => p (k + 1)) (List.range n) <;> simp [h]
  · rfl

theorem countBits_le (n : Nat) (p : Nat → Bool) : countBits n p ≤ n := by
  simpa [countBits] using List.length_filter_le p (List.range n)

theorem firstBit_le (n : Nat) (p : Nat → Bool) : firstBit n p ≤ n := by
  induction n generalizing p with
  | zero => rfl
  | succ n ih =>
    rw [firstBit_succ]
    split
    · omega
    · have := ih fun k => p (k + 1); omega

theorem popcount_eq_countBits (v n : Nat) : popcount v n = countBits n v.testBit := by
  induction n generalizing v with
  | zero => rfl
  | succ n ih =>
    rw [popcount, ih, countBits_succ, Nat.testBit_zero]
    congr 1
    · rcases Nat.mod_two_eq_zero_or_one v with h | h <;> simp [h]
    · simp only [Nat.testBit_succ]

theorem clzN_eq_firstBit (n a : Nat) : clzN n a = firstBit n fun k => a.testBit (n - 1 - k) := by
  induction n with
  | zero => rfl
  | succ n ih =>
    rw [clzN, ih, firstBit_succ]
    simp only [Nat.add_sub_cancel, Nat.sub_zero, Nat.sub_sub, Nat.add_comm 1]

theorem ctzN_eq_firstBit (n a : Nat) : ctzN n a = firstBit n a.testBit := by
  induction n generalizing a with
  | zero => rfl
  | succ n ih =>
    rw [ctzN, ih, firstBit_succ, Nat.testBit_zero]
    simp only [Nat.testBit_succ, decide_eq_true_eq]

/-! ### Instructions on the bits of their sources (R153) -/

section
variable {mk : Args → Instr}

/-- An integer instruction that nothing stops writes its results, each given by its value and its poison. -/
theorem completes_intDone {i : Instr} {f : Args} {s : State} {w : Nat} {r v : Nat → Src}
    (hf : fmtIsClass f.fmt = false) (hr : Readable s f.operands) (he : exec i s = guarded (s.intStop f) s (intDone f s w r)) (hv : ∀ k, r k = v k) :
    Completes i s (Writes s f.a (s.active f.guard) fun k => wide64 f.sx w (v k)) := by
  obtain rfl : r = v := funext hv
  exact completes_of_guarded he (State.intStop_of_readable hf hr) (writes_result s f.a f.sx w _ r)

theorem completes_intBits {op : Nat → Nat → Nat → Nat} {g : Bool → Bool → Bool}
    (he : ∀ f s, exec (mk f) s = guarded (s.intStop f) s (intBits f s op))
    (hop : ∀ w a b, b < 2 ^ w → ∀ j < w, (op w a b).testBit j = g (a.testBit j) (b.testBit j))
    (f : Args) (s : State) (hf : fmtIsClass f.fmt = false) (hr : Readable s f.operands) :
    Completes (mk f) s (Writes s f.a (s.active f.guard) fun i =>
      let b := s.src f.sx f.w f.b i
      let c := s.src f.sx f.w f.c i
      wide64 f.sx f.w ⟨bitsNat f.w fun j => g (b.v.testBit j) (c.v.testBit j), b.p || c.p⟩) :=
  completes_intDone hf hr (he f s) fun i =>
    congrArg (Src.mk · _) (mod_eq_bitsNat (hop f.w _ _ (s.src_lt f.sx f.w f.c i)))

theorem completes_intShift {op : Nat → Nat → Nat → Nat} {g : Nat → Nat → Nat → Nat → Bool}
    (he : ∀ f s, exec (mk f) s = guarded (s.intStop f) s (intShift f s op))
    (hop : ∀ w a c, a < 2 ^ w → op w a c % 2 ^ w = bitsNat w (g w a c))
    (f : Args) (s : State) (hf : fmtIsClass f.fmt = false) (hr : Readable s f.operands) :
    Completes (mk f) s (Writes s f.a (s.active f.guard) fun i =>
      let b := s.src f.sx f.w f.b i
      let c := s.own f.w f.c i
      wide64 f.sx f.w ⟨bitsNat f.w (g f.w b.v c.v), b.p || c.p⟩) :=
  completes_intDone hf hr (he f s) fun i => congrArg (Src.mk · _) (hop f.w _ _ (s.src_lt f.sx f.w f.b i))

theorem completes_int1 {op : Nat → Bool → Nat → Int} {g : Nat → Nat → Nat}
    (he : ∀ f s, exec (mk f) s = guarded (s.intStop f) s (int1 f s op))
    (hop : ∀ w sg a, a < 2 ^ w → wrap w (op w sg a) = g w a)
    (f : Args) (s : State) (hf : fmtIsClass f.fmt = false) (hr : Readable s f.operands) :
    Completes (mk f) s (Writes s f.a (s.active f.guard) fun i =>
      let b := s.src f.sx f.w f.b i
      wide64 f.sx f.w ⟨g f.w b.v, b.p⟩) :=
  completes_intDone hf hr (he f s) fun i => congrArg (Src.mk · _) (hop f.w _ _ (s.src_lt f.sx f.w f.b i))

end

/-- A count of at most `w` fits `w` bits. -/
theorem wrap_count {w n : Nat} (h : n ≤ w) : wrap w (n : Int) = n := by
  rw [wrap_natCast, Nat.mod_eq_of_lt (h.trans_lt Nat.lt_two_pow_self)]

/-- Settles O2: every operation is one of bits, and a number below `2^w` is what its bits make. -/
theorem integerBits : Obligations.IntegerBits := by
  unfold Obligations.IntegerBits
  refine ⟨?_, ?_, ?_⟩
  · refine List.forall_mem_cons.2 ⟨?_, List.forall_mem_cons.2 ⟨?_, List.forall_mem_cons.2 ⟨?_, List.forall_mem_singleton.2 ?_⟩⟩⟩
    · exact completes_intBits (fun _ _ => rfl) fun w a b _ j _ => Nat.testBit_and a b j
    · exact completes_intBits (fun _ _ => rfl) fun w a b _ j _ => Nat.testBit_or a b j
    · exact completes_intBits (fun _ _ => rfl) fun w a b _ j _ => Nat.testBit_xor a b j
    · refine completes_intBits (fun _ _ => rfl) fun w a b hb j hj => ?_
      rw [Nat.testBit_and, Nat.sub_sub, Nat.add_comm 1, Nat.testBit_two_pow_sub_succ hb]
      simp [hj]
  · refine List.forall_mem_cons.2 ⟨?_, List.forall_mem_cons.2 ⟨?_, List.forall_mem_cons.2 ⟨?_, List.forall_mem_cons.2 ⟨?_,
      List.forall_mem_singleton.2 ?_⟩⟩⟩⟩
    · exact completes_intShift (fun _ _ => rfl) fun _ _ c _ => shlN_bits c
    · exact completes_intShift (fun _ _ => rfl) fun _ _ c ha => shrN_bits ha c
    · exact completes_intShift (fun _ _ => rfl) fun w a c _ => sarN_bits w a c
    · exact completes_intShift (fun _ _ => rfl) fun _ _ c ha => rotlN_bits ha c
    · exact completes_intShift (fun _ _ => rfl) fun _ _ c ha => rotrN_bits ha c
  · refine List.forall_mem_cons.2 ⟨?_, List.forall_mem_cons.2 ⟨?_, List.forall_mem_cons.2 ⟨?_, List.forall_mem_singleton.2 ?_⟩⟩⟩
    · refine completes_int1 (fun _ _ => rfl) fun w _ a ha => ?_
      rw [wrap_natCast, Nat.mod_eq_of_lt (by omega)]
    · refine completes_int1 (fun _ _ => rfl) fun w _ a _ => ?_
      rw [popcount_eq_countBits, wrap_count (countBits_le w _)]
    · refine completes_int1 (fun _ _ => rfl) fun w _ a _ => ?_
      rw [clzN_eq_firstBit, wrap_count (firstBit_le w _)]
    · refine completes_int1 (fun _ _ => rfl) fun w _ a _ => ?_
      rw [ctzN_eq_firstBit, wrap_count (firstBit_le w _)]

end Sys2Proof.Machine
end

section
/-! What decoding asks of the fields of an opcode that has an entry (R55, R131, order 7). -/

namespace Sys2Proof

/-! ### Forms of an operand field (R11, R12, R56) -/

/-- The form bits [13:11] of a field by its bits [13] and [12:11]. -/
theorem formBits_eq {v : Field} {k : Nat} (h13 : ¬ (v.getLsbD 13 == false) = true) (h : (v.extractLsb' 11 2).toNat = k) :
    v.extractLsb' 11 3 = BitVec.ofNat 3 (k + 4) := by
  have h1 : v.toNat / 2 ^ 13 % 2 = 1 := by
    simpa [BitVec.getLsbD, Nat.testBit_eq_decide_div_mod_eq] using h13
  rw [BitVec.extractLsb'_toNat, Nat.shiftRight_eq_div_pow] at h
  apply BitVec.eq_of_toNat_eq
  rw [BitVec.extractLsb'_toNat, Nat.shiftRight_eq_div_pow, BitVec.toNat_ofNat]
  omega

namespace Slot

/-- A field that is read as an x-register has the form of one, with its number in bits [10:5]. -/
theorem parse_xreg {s : Slot} {v : Field} {i : BitVec 6} {sz : BitVec 2} {el : BitVec 3} (h : s.parse v = some (.xreg i sz el)) :
    v.extractLsb' 11 3 = 5 ∧ v.extractLsb' 5 6 = i := by
  unfold parse at h
  repeat' split at h
  all_goals cases h
  exact ⟨formBits_eq (by assumption) (by assumption), rfl⟩

theorem parse_imm {s : Slot} {v : Field} {k : BitVec 11} (h : s.parse v = some (.imm k)) : v.extractLsb' 11 3 = 6 := by
  unfold parse at h
  repeat' split at h
  all_goals cases h
  exact formBits_eq (by assumption) (by assumption)

end Slot

/-! ### What an accepted instruction satisfies -/

/-- The fields `h` of a frame are accepted under the rules of an entry, as the instruction with the fields `f`. -/
structure OpSpec.Takes (sp : OpSpec) (h f : Args) : Prop where
  parseA : sp.a.parse h.a.rawBits = some f.a
  parseB : sp.b.parse h.b.rawBits = some f.b
  parseC : sp.c.parse h.c.rawBits = some f.c
  admitsA : sp.a.admits f.a = true
  admitsB : sp.b.admits f.b = true
  admitsC : sp.c.admits f.c = true
  guard : sp.guard0 = true → h.guard = 0
  fmt : sp.fmt.testBit h.fmt.toNat = true
  oneX : oneX sp f = true

theorem OpSpec.takes_of_ok {sp : OpSpec} {h f : Args} (hp : sp.parseOperands h = some f) (hok : sp.ok f = true) : sp.Takes h f := by
  simp only [OpSpec.ok, Bool.and_eq_true, Bool.or_eq_true, Bool.not_eq_true', beq_iff_eq] at hok
  obtain ⟨⟨⟨⟨⟨⟨⟨hA, hB⟩, hC⟩, hg⟩, hf⟩, hx⟩, -⟩, -⟩ := hok
  unfold OpSpec.parseOperands at hp
  dsimp only at hp
  split at hp
  next ha hb hc _ _ =>
    cases hp
    exact ⟨ha, hb, hc, hA, hB, hC, fun h0 => hg.resolve_left (by simp [h0]), hf, hx⟩
  next => cases hp

/-- Where the entry of an opcode accepts nothing with these fields, decoding refuses them. -/
theorem decodeFields_refused {op : Nat} {h : Args} {sp : OpSpec} {mk : Args → Instr} (he : entry op = some (.mk' sp mk)) (hop : op < 0x3A0)
    (hno : ∀ f, ¬ sp.Takes h f) : decodeFields op h = .error (.field op) := by
  have hh : isHint op = false := by simp [isHint]; omega
  have hp : rejectField op = .field op := by simp [rejectField, isPrivOp]; omega
  simp only [decodeFields, hh, he, hp, Bool.false_eq_true, if_false]
  split
  · rfl
  next f hf => rw [if_neg fun hok => hno f (OpSpec.takes_of_ok hf hok)]

/-! ### The entries of the compares, the scalar side and the mask algebra (R156, R158, R160) -/

theorem entry_compare {op : Nat} (h0 : 0xD0 ≤ op) (h1 : op ≤ 0xD5) : ∃ mk, entry op = some (.mk' spec_cmpEqInt mk) := by
  interval_cases op <;> exact ⟨_, rfl⟩

theorem entry_scalar {op : Nat} (h0 : 0xE8 ≤ op) (h1 : op ≤ 0xEE) : ∃ mk, entry op = some (.mk' spec_xadd mk) := by
  interval_cases op <;> exact ⟨_, rfl⟩

theorem entry_maskAlgebra {op : Nat} (h0 : 0x100 ≤ op) (h1 : op ≤ 0x107) :
    ∃ sp mk, entry op = some (.mk' sp mk) ∧ sp.guard0 = true ∧ sp.fmt = 1 := by
  interval_cases op <;> exact ⟨_, _, rfl, rfl, rfl⟩

theorem entry_maskCount {op : Nat} (h0 : 0x108 ≤ op) (h1 : op ≤ 0x109) : ∃ mk, entry op = some (.mk' spec_mpopc mk) := by
  interval_cases op <;> exact ⟨_, rfl⟩

end Sys2Proof

namespace Sys2Proof.Machine

/-! ### Compares into a mask (R156) -/

theorem mem_lanesOf {m : Mask} {i : Nat} : i ∈ lanesOf m ↔ i < 32 ∧ m.getLsbD i = true := by
  simp [lanesOf]

theorem State.poisonedIn_eq_true {s : State} {act : Mask} {v : Nat → Src} :
    s.poisonedIn act v = true ↔ ∃ i < 32, act.getLsbD i = true ∧ (v i).p = true := by
  simp [State.poisonedIn, mem_lanesOf, and_assoc]

theorem State.poisonedIn_eq_false {s : State} {act : Mask} {v : Nat → Src}
    (h : ∀ i < 32, act.getLsbD i = true → (v i).p = false) : s.poisonedIn act v = false := by
  rw [← Bool.not_eq_true, State.poisonedIn_eq_true]
  rintro ⟨i, hi, ha, hp⟩
  simp [h i hi ha] at hp

section
variable {mk : Args → Instr} {rel : Int → Int → Bool} (he : ∀ f s, exec (mk f) s = guarded (s.compareStop f) s (intCompare f s rel))
include he

/-- A compare whose operands are clean in the active lanes writes their bits of its mask. -/
theorem completes_intCompare (f : Args) (s : State) (k : BitVec 4) (hf : fmtIsClass f.fmt = false) (hr : Readable s f.operands)
    (ha : f.a = .mask k) (hk : k ≠ 0)
    (hp : ∀ i < 32, (s.active f.guard).getLsbD i = true → (s.src f.sx f.w f.b i).p = false ∧ (s.src f.sx f.w f.c i).p = false) :
    Completes (mk f) s (WritesMask s k.toNat (s.active f.guard) (maskOf fun i =>
      rel (typed f.sg f.w (s.src f.sx f.w f.b i).v) (typed f.sg f.w (s.src f.sx f.w f.c i).v))) := by
  have hb := State.poisonedIn_eq_false (s := s) (v := s.src f.sx f.w f.b) fun i hi h => (hp i hi h).1
  have hc := State.poisonedIn_eq_false (s := s) (v := s.src f.sx f.w f.c) fun i hi h => (hp i hi h).2
  have hpos : 1 ≤ k.toNat := Nat.one_le_iff_ne_zero.2 fun h => hk (BitVec.eq_of_toNat_eq h)
  refine completes_of_guarded (he f s) ?_ ?_
  · simp [State.compareStop, State.intStop_of_readable hf hr, hb, hc, rollIf]
  · simp only [intCompare, ha]
    exact writesMask_setMask s k.toNat hpos _ _

/-- A compare with a poisoned operand in an active lane rolls the plot back (R38). -/
theorem exec_intCompare_poisoned (f : Args) (s : State) (i : Nat) (hf : fmtIsClass f.fmt = false) (hr : Readable s f.operands)
    (hi : i < 32) (ha : (s.active f.guard).getLsbD i = true)
    (hp : (s.src f.sx f.w f.b i).p = true ∨ (s.src f.sx f.w f.c i).p = true) : exec (mk f) s = .next s.rollback := by
  have hroll : (s.poisonedIn (s.active f.guard) (s.src f.sx f.w f.b) || s.poisonedIn (s.active f.guard) (s.src f.sx f.w f.c)) = true := by
    rw [Bool.or_eq_true, State.poisonedIn_eq_true, State.poisonedIn_eq_true]
    exact hp.imp (fun h => ⟨i, hi, ha, h⟩) fun h => ⟨i, hi, ha, h⟩
  have hstop : s.compareStop f = some .rollback := by
    simp [State.compareStop, State.intStop_of_readable hf hr, hroll, rollIf]
  rw [he, hstop]
  rfl

end

/-- `m0` is no destination of a compare. -/
theorem decodeFields_compare_m0 (op : Nat) (h : Args) (h0 : 0xD0 ≤ op) (h1 : op ≤ 0xD5) (ha : h.a.rawBits = 0x3800) :
    decodeFields op h = .error (.field op) := by
  obtain ⟨mk, he⟩ := entry_compare h0 h1
  refine decodeFields_refused he (by omega) fun f hf => ?_
  have hm0 : Slot.maskD.parse 0x3800 = some (.mask 0) := by decide
  have hfa : f.a = .mask 0 := Option.some.inj (hf.parseA.symm.trans (ha ▸ hm0))
  have hadm := hf.admitsA
  rw [hfa] at hadm
  cases hadm

/-- Settles O4: a compare is one relation on the sources by type, checked for poison before it writes. -/
theorem integerCompares : Obligations.IntegerCompares := by
  unfold Obligations.IntegerCompares
  refine ⟨?_, ?_, decodeFields_compare_m0⟩
  · refine List.forall_mem_cons.2 ⟨?_, List.forall_mem_cons.2 ⟨?_, List.forall_mem_cons.2 ⟨?_, List.forall_mem_cons.2 ⟨?_,
      List.forall_mem_cons.2 ⟨?_, List.forall_mem_singleton.2 ?_⟩⟩⟩⟩⟩
    · exact completes_intCompare fun _ _ => rfl
    · refine completes_intCompare fun f s => ?_
      simp only [← decide_not]
      rfl
    · exact completes_intCompare fun _ _ => rfl
    · exact completes_intCompare fun _ _ => rfl
    · exact completes_intCompare fun _ _ => rfl
    · exact completes_intCompare fun _ _ => rfl
  · refine List.forall_mem_cons.2 ⟨?_, List.forall_mem_cons.2 ⟨?_, List.forall_mem_cons.2 ⟨?_, List.forall_mem_cons.2 ⟨?_,
      List.forall_mem_cons.2 ⟨?_, List.forall_mem_singleton.2 ?_⟩⟩⟩⟩⟩
    all_goals exact exec_intCompare_poisoned fun _ _ => rfl

end Sys2Proof.Machine
end

section
/-! The scalar side (R158): its operations at 64 bits, and what decoding refuses of it. -/

namespace Sys2Proof

/-! ### The forms of the scalar side's operands -/

theorem Slot.xd_takes {v : Field} {o : Operand} (hp : Slot.xd.parse v = some o) (ha : Slot.xd.admits o = true) : v.extractLsb' 11 3 = 5 := by
  cases o with
  | xreg i sz el => exact (Slot.parse_xreg hp).1
  | _ => cases ha

theorem Slot.xe_takes {v : Field} {o : Operand} (hp : Slot.xe.parse v = some o) (ha : Slot.xe.admits o = true) :
    v.extractLsb' 11 3 = 5 ∧ ∃ sz el, o = .xreg (v.extractLsb' 5 6) sz el := by
  cases o with
  | xreg i sz el =>
    obtain ⟨hform, rfl⟩ := Slot.parse_xreg hp
    exact ⟨hform, _, _, rfl⟩
  | _ => cases ha

theorem Slot.immOrXe_takes {v : Field} {o : Operand} (hp : Slot.immOrXe.parse v = some o) (ha : Slot.immOrXe.admits o = true) :
    v.extractLsb' 11 3 = 6 ∨ v.extractLsb' 11 3 = 5 ∧ ∃ sz el, o = .xreg (v.extractLsb' 5 6) sz el := by
  cases o with
  | xreg i sz el =>
    obtain ⟨hform, rfl⟩ := Slot.parse_xreg hp
    exact .inr ⟨hform, _, _, rfl⟩
  | imm k => exact .inl (Slot.parse_imm hp)
  | _ => cases ha

theorem fmtW64_testBit {k : BitVec 5} (h : fmtW64.testBit k.toNat = true) : k = 28 ∨ k = 29 := by
  revert k; decide

/-- Two x-registers among the sources B and C are the same (R57). -/
theorem oneX_xadd {f : Args} {i j : BitVec 6} {sz sz' : BitVec 2} {el el' : BitVec 3} (h : oneX spec_xadd f = true)
    (hb : f.b = .xreg i sz el) (hc : f.c = .xreg j sz' el') : j = i := by
  unfold oneX at h
  have ha : readsX spec_xadd.a f.a = none := by cases f.a <;> rfl
  rw [ha, hb, hc] at h
  simp [readsX, spec_xadd, Slot.xe, Slot.immOrXe] at h
  exact h.1

/-- What the entries of two operands take. -/
theorem spec_xadd_takes {h f : Args} (hf : spec_xadd.Takes h f) :
    (h.fmt = 28 ∨ h.fmt = 29) ∧ h.a.rawBits.extractLsb' 11 3 = 5 ∧ h.b.rawBits.extractLsb' 11 3 = 5
      ∧ (h.c.rawBits.extractLsb' 11 3 = 6 ∨ h.c.rawBits.extractLsb' 11 3 = 5)
      ∧ (h.c.rawBits.extractLsb' 11 3 = 5 → h.c.rawBits.extractLsb' 5 6 = h.b.rawBits.extractLsb' 5 6) := by
  obtain ⟨hb, sz, el, hfb⟩ := Slot.xe_takes hf.parseB hf.admitsB
  refine ⟨fmtW64_testBit hf.fmt, Slot.xd_takes hf.parseA hf.admitsA, hb, ?_, ?_⟩
  · exact (Slot.immOrXe_takes hf.parseC hf.admitsC).imp_right And.left
  · intro h5
    obtain h6 | ⟨-, sz', el', hfc⟩ := Slot.immOrXe_takes hf.parseC hf.admitsC
    · rw [h5] at h6; cases h6
    · exact oneX_xadd hf.oneX hfb hfc

theorem spec_xmov_takes {h f : Args} (hf : spec_xmov.Takes h f) :
    (h.fmt = 28 ∨ h.fmt = 29) ∧ h.a.rawBits.extractLsb' 11 3 = 5
      ∧ (h.b.rawBits.extractLsb' 11 3 = 6 ∨ h.b.rawBits.extractLsb' 11 3 = 5) :=
  ⟨fmtW64_testBit hf.fmt, Slot.xd_takes hf.parseA hf.admitsA, (Slot.immOrXe_takes hf.parseB hf.admitsB).imp_right And.left⟩

theorem decodeFields_scalar_refused (op : Nat) (h : Args) (h0 : 0xE8 ≤ op) (h1 : op ≤ 0xEF)
    (hno : (h.fmt ≠ 28 ∧ h.fmt ≠ 29) ∨ ¬ h.a.rawBits.extractLsb' 11 3 = 5
      ∨ ¬ (h.b.rawBits.extractLsb' 11 3 = 5 ∨ (op = 0xEF ∧ h.b.rawBits.extractLsb' 11 3 = 6))
      ∨ (op ≠ 0xEF ∧ ¬ (h.c.rawBits.extractLsb' 11 3 = 6 ∨ h.c.rawBits.extractLsb' 11 3 = 5))
      ∨ (op ≠ 0xEF ∧ h.c.rawBits.extractLsb' 11 3 = 5 ∧ h.c.rawBits.extractLsb' 5 6 ≠ h.b.rawBits.extractLsb' 5 6)) :
    decodeFields op h = .error (.field op) := by
  by_cases hop : op = 0xEF
  · subst hop
    refine decodeFields_refused (sp := spec_xmov) rfl (by omega) fun f hf => ?_
    obtain ⟨hfmt, ha, hb⟩ := spec_xmov_takes hf
    tauto
  · obtain ⟨mk, he⟩ := entry_scalar h0 (by omega)
    refine decodeFields_refused he (by omega) fun f hf => ?_
    obtain ⟨hfmt, ha, hb, hc, hcb⟩ := spec_xadd_takes hf
    tauto

end Sys2Proof

namespace Sys2Proof.Machine

/-! ### Operations on 64-bit words -/

/-- A source at 64 bits is the word it makes. -/
theorem State.src_toNat_ofNat (s : State) (sx : Bool) (o : Operand) (i : Nat) :
    (BitVec.ofNat 64 (s.src sx 64 o i).v).toNat = (s.src sx 64 o i).v := by
  rw [BitVec.toNat_ofNat, Nat.mod_eq_of_lt (s.src_lt sx 64 o i)]

theorem shlN_eq_shiftLeft (a b : Word) : shlN 64 a.toNat b.toNat = (a <<< b.toNat).toNat := by
  rw [BitVec.toNat_shiftLeft, Nat.shiftLeft_eq, shlN]
  split
  next h => rw [Nat.mod_eq_zero_of_dvd ((Nat.pow_dvd_pow 2 h).mul_left _)]
  next => rfl

theorem shrN_eq_ushiftRight (a b : Word) : shrN 64 a.toNat b.toNat = (a >>> b.toNat).toNat := by
  rw [BitVec.toNat_ushiftRight, Nat.shiftRight_eq_div_pow, shrN]
  split
  next h => rw [Nat.div_eq_of_lt (a.isLt.trans_le (Nat.pow_le_pow_right Nat.two_pos h))]
  next => rfl

theorem sarN_lt (w a c : Nat) : sarN w a c < 2 ^ w := wrap_lt w _

theorem sarN_eq_sshiftRight_word (a b : Word) : sarN 64 a.toNat b.toNat = (a.sshiftRight b.toNat).toNat := by
  apply Nat.eq_of_testBit_eq
  intro j
  by_cases hj : j < 64
  · rw [testBit_sarN hj, BitVec.testBit_toNat, BitVec.testBit_toNat, BitVec.getLsbD_sshiftRight, BitVec.msb_eq_getLsbD_last]
    by_cases h : b.toNat + j < 64
    · simp [h, show ¬ 64 ≤ j by omega, show min (j + b.toNat) 63 = b.toNat + j by omega]
    · simp [h, show ¬ 64 ≤ j by omega, show min (j + b.toNat) 63 = 63 by omega]
  · rw [testBit_of_le (sarN_lt 64 _ _) (Nat.le_of_not_lt hj), testBit_of_le (BitVec.isLt _) (Nat.le_of_not_lt hj)]

/-! ### The scalar side (R158) -/

section
variable {mk : Args → Instr} {op : Args → Nat → Nat → Nat} (he : ∀ f s, exec (mk f) s = guarded (s.intStop f) s (scalar f s (op f)))
include he

theorem completes_scalar_idle {f : Args} {s : State} (hf : fmtIsClass f.fmt = false) (hr : Readable s f.operands)
    (hact : s.active f.guard = 0) : Completes (mk f) s (GoesOn s) := by
  refine completes_of_guarded (he f s) (State.intStop_of_readable hf hr) ?_
  simp only [scalar, hact, if_true]
  exact goesOn_advance s

theorem completes_scalar {f : Args} {s : State} {n : BitVec 6} {sz : BitVec 2} {el : BitVec 3} {v : Src} (hf : fmtIsClass f.fmt = false)
    (hr : Readable s f.operands) (ha : f.a = .xreg n sz el) (hact : s.active f.guard ≠ 0)
    (hv : op f (s.src f.sx 64 f.b 0).v (s.src f.sx 64 f.c 0).v % 2 ^ 64 = v.v)
    (hp : ((s.src f.sx 64 f.b 0).p || (s.src f.sx 64 f.c 0).p) = v.p) : Completes (mk f) s (WritesX s n.toNat v) := by
  refine completes_of_guarded (he f s) (State.intStop_of_readable hf hr) ?_
  simp only [scalar, hact, if_false, ha, hv, hp]
  exact writesX_setX s n.toNat v

/-- An operation on two words, beside `XMOV`, in the form of the statement. -/
theorem completes_scalar_word {g : Bool → Word → Word → Word}
    (hop : ∀ f (a b : Word), op f a.toNat b.toNat % 2 ^ 64 = (g f.sg a b).toNat)
    (f : Args) (s : State) (n : BitVec 6) (sz : BitVec 2) (el : BitVec 3) (hf : fmtIsClass f.fmt = false)
    (hr : Readable s f.operands) (ha : f.a = .xreg n sz el) :
    let a := s.src f.sx 64 f.b 0
    let b := s.src f.sx 64 f.c 0
    if s.active f.guard = 0 then Completes (mk f) s (GoesOn s) ∧ Completes (.xmov f) s (GoesOn s)
    else Completes (mk f) s (WritesX s n.toNat ⟨(g f.sg (BitVec.ofNat 64 a.v) (BitVec.ofNat 64 b.v)).toNat, a.p || b.p⟩)
      ∧ (f.c = .none → Completes (.xmov f) s (WritesX s n.toNat a)) := by
  have hmov : ∀ f s, exec (.xmov f) s = guarded (s.intStop f) s (scalar f s fun a _ => a) := fun _ _ => rfl
  intro a b
  split
  next hact => exact ⟨completes_scalar_idle he hf hr hact, completes_scalar_idle (op := fun _ a _ => a) hmov hf hr hact⟩
  next hact =>
    refine ⟨completes_scalar he hf hr ha hact ?_ rfl, fun hc => completes_scalar (op := fun _ a _ => a) hmov hf hr ha hact ?_ ?_⟩
    · rw [← hop, State.src_toNat_ofNat, State.src_toNat_ofNat]
    · exact Nat.mod_eq_of_lt (s.src_lt f.sx 64 f.b 0)
    · rw [hc]; exact Bool.or_false _

end

/-- Settles O5: each operation is the one on words, and an accepted entry has the forms that R158 asks. -/
theorem scalarSide : Obligations.ScalarSide := by
  unfold Obligations.ScalarSide
  refine ⟨?_, decodeFields_scalar_refused⟩
  refine List.forall_mem_cons.2 ⟨?_, List.forall_mem_cons.2 ⟨?_, List.forall_mem_cons.2 ⟨?_, List.forall_mem_cons.2 ⟨?_,
    List.forall_mem_cons.2 ⟨?_, List.forall_mem_cons.2 ⟨?_, List.forall_mem_singleton.2 ?_⟩⟩⟩⟩⟩⟩
  · exact completes_scalar_word (op := fun _ a b => a + b) (fun _ _ => rfl) fun f a b => (BitVec.toNat_add a b).symm
  · refine completes_scalar_word (op := fun _ a b => a + 2 ^ 64 - b) (fun _ _ => rfl) fun f a b => ?_
    rw [BitVec.toNat_sub]
    congr 1
    omega
  · exact completes_scalar_word (op := fun _ a b => a * b) (fun _ _ => rfl) fun f a b => (BitVec.toNat_mul a b).symm
  · refine completes_scalar_word (op := fun _ a b => a &&& b) (fun _ _ => rfl) fun f a b => ?_
    rw [← BitVec.toNat_and, Nat.mod_eq_of_lt (BitVec.isLt _)]
  · refine completes_scalar_word (op := fun _ a b => a ||| b) (fun _ _ => rfl) fun f a b => ?_
    rw [← BitVec.toNat_or, Nat.mod_eq_of_lt (BitVec.isLt _)]
  · refine completes_scalar_word (op := fun _ a b => shlN 64 a b) (fun _ _ => rfl) fun f a b => ?_
    rw [shlN_eq_shiftLeft, Nat.mod_eq_of_lt (BitVec.isLt _)]
  · refine completes_scalar_word (op := fun f a b => if f.sg then sarN 64 a b else shrN 64 a b) (fun _ _ => rfl) fun f a b => ?_
    rw [sarN_eq_sshiftRight_word, shrN_eq_ushiftRight, ← apply_ite BitVec.toNat, Nat.mod_eq_of_lt (BitVec.isLt _)]

end Sys2Proof.Machine
end

section
/-! Masks (R160): algebra, moves between masks and x-registers, counts, and what decoding refuses of them. -/

namespace Sys2Proof

theorem decodeFields_maskAlgebra_refused {op : Nat} {h : Args} (h0 : 0x100 ≤ op) (h1 : op ≤ 0x107) (hno : h.guard ≠ 0 ∨ h.fmt ≠ 0) :
    decodeFields op h = .error (.field op) := by
  obtain ⟨sp, mk, he, hguard, hfmt⟩ := entry_maskAlgebra h0 h1
  refine decodeFields_refused he (by omega) fun f hf => ?_
  have h0 : h.fmt = 0 := by
    have ht := hf.fmt
    rw [hfmt, Nat.testBit_one_eq_true_iff_self_eq_zero] at ht
    exact BitVec.eq_of_toNat_eq ht
  exact hno.elim (· (hf.guard hguard)) (· h0)

theorem decodeFields_maskCount_refused {op : Nat} {h : Args} (h0 : 0x108 ≤ op) (h1 : op ≤ 0x109) (hno : h.fmt.toNat < 22) :
    decodeFields op h = .error (.field op) := by
  obtain ⟨mk, he⟩ := entry_maskCount h0 h1
  refine decodeFields_refused he (by omega) fun f hf => ?_
  have hint : ∀ k : BitVec 5, fmtIntN.testBit k.toNat = true → 22 ≤ k.toNat := by decide
  exact absurd (hint h.fmt hf.fmt) (by omega)

end Sys2Proof

namespace Sys2Proof.Machine

/-! ### Counts over a mask (R160) -/

theorem testBit_toNat_eq (m : Mask) : m.toNat.testBit = m.getLsbD := funext fun _ => BitVec.testBit_toNat m

theorem popcount_mask (m : Mask) : popcount m.toNat 32 = countBits 32 m.getLsbD := by
  rw [popcount_eq_countBits, testBit_toNat_eq]

theorem ffs32_eq_firstBit (m : Mask) : ffs32 m = firstBit 32 m.getLsbD := by
  rw [ffs32, lowest, lanesOf, List.head?_filter, firstBit]

/-! ### What MSET reads (R12, R46, R160) -/

theorem State.src_imm_signed (s : State) (v : BitVec 11) (i : Nat) :
    BitVec.ofNat 32 (s.src true 64 (.imm v) i).v = v.signExtend 32 := by
  have hv : (s.src true 64 (.imm v) i).v = wrap 64 v.toInt % 2 ^ 64 := rfl
  apply BitVec.eq_of_toNat_eq
  rw [hv, BitVec.signExtend, BitVec.toNat_ofInt, BitVec.toNat_ofNat, wrap]
  omega

/-- An `n`-bit value adapted to 64 bits without its sign is itself. -/
theorem adapt_unsigned {n v : Nat} (hn : n ≤ 64) (hv : v < 2 ^ n) : (if n < 64 then extend false n 64 v else v % 2 ^ 64) = v := by
  have hlt : v < 2 ^ 64 := hv.trans_le (Nat.pow_le_pow_right Nat.two_pos hn)
  simp only [extend, Bool.false_eq_true, if_false, Nat.mod_eq_of_lt hv, Nat.mod_eq_of_lt hlt, ite_self]

theorem State.src_xreg (s : State) (n : BitVec 6) (sz : BitVec 2) (el : BitVec 3) (i : Nat) :
    (s.src false 64 (.xreg n sz el) i).v = (s.x n.toNat).toNat / 2 ^ ((64 >>> sz.toNat) * el.toNat) % 2 ^ (64 >>> sz.toNat) :=
  adapt_unsigned (Nat.shiftRight_le 64 sz.toNat) (Nat.mod_lt _ (Nat.two_pow_pos _))

theorem State.src_xreg_elem (s : State) (n : BitVec 6) (sz : BitVec 2) (el : BitVec 3) (i : Nat) :
    BitVec.ofNat 32 (s.src false 64 (.xreg n sz el) i).v =
      ((s.x n.toNat >>> ((64 >>> sz.toNat) * el.toNat)).setWidth (64 >>> sz.toNat)).setWidth 32 := by
  apply BitVec.eq_of_toNat_eq
  rw [State.src_xreg, BitVec.toNat_ofNat, BitVec.toNat_setWidth, BitVec.toNat_setWidth, BitVec.toNat_ushiftRight,
    Nat.shiftRight_eq_div_pow (s.x n.toNat).toNat]

theorem State.src_xreg_poison (s : State) (sx : Bool) (w : Nat) (n : BitVec 6) (sz : BitVec 2) (el : BitVec 3) (i : Nat) :
    (s.src sx w (.xreg n sz el) i).p = s.xp n.toNat := rfl

/-! ### Meanings -/

theorem writesMask_maskOp {f : Args} {k : BitVec 4} (s : State) (ha : f.a = .mask k) (hk : k ≠ 0) (v : Mask) :
    WritesMask s k.toNat 0xFFFFFFFF v (maskOp f s v) := by
  have hpos : 1 ≤ k.toNat := Nat.one_le_iff_ne_zero.2 fun h => hk (BitVec.eq_of_toNat_eq h)
  simp only [maskOp, ha, maskNo]
  exact writesMask_setMask s k.toNat hpos _ v

section
variable {f : Args} {s : State} {k : BitVec 4} (ha : f.a = .mask k) (hk : k ≠ 0)
include ha hk

theorem completes_maskOp {i : Instr} {v : Mask} (he : exec i s = .next (maskOp f s v)) :
    Completes i s (WritesMask s k.toNat 0xFFFFFFFF v) :=
  ⟨_, he, writesMask_maskOp s ha hk v⟩

theorem completes_mset_imm {v : BitVec 11} (hb : f.b = .imm v) :
    Completes (.mset f) s (WritesMask s k.toNat 0xFFFFFFFF (v.signExtend 32)) := by
  have he : exec (.mset f) s = execMset f s := rfl
  refine completes_maskOp ha hk ?_
  rw [he, execMset, hb, ← s.src_imm_signed v 0]
  rfl

theorem completes_mset_xreg {n : BitVec 6} {sz : BitVec 2} {el : BitVec 3} (hb : f.b = .xreg n sz el) (hp : s.xp n.toNat = false) :
    Completes (.mset f) s (WritesMask s k.toNat 0xFFFFFFFF
      (((s.x n.toNat >>> ((64 >>> sz.toNat) * el.toNat)).setWidth (64 >>> sz.toNat)).setWidth 32)) := by
  have he : exec (.mset f) s = execMset f s := rfl
  refine completes_maskOp ha hk ?_
  rw [he, execMset, hb, State.src_xreg_poison, hp, ← s.src_xreg_elem n sz el 0]
  rfl

end

theorem exec_mset_poisoned {f : Args} {s : State} {n : BitVec 6} {sz : BitVec 2} {el : BitVec 3} (hb : f.b = .xreg n sz el)
    (hp : s.xp n.toNat = true) : exec (.mset f) s = .next s.rollback := by
  have he : exec (.mset f) s = execMset f s := rfl
  rw [he, execMset, hb, State.src_xreg_poison, hp]
  rfl

theorem completes_mget {f : Args} {s : State} {n : BitVec 6} {sz : BitVec 2} {el : BitVec 3} (ha : f.a = .xreg n sz el) :
    Completes (.mget f) s (WritesX s n.toNat ⟨(s.mask (maskNo f.b)).toNat, false⟩) := by
  have he : exec (.mget f) s = execMget f s := rfl
  refine ⟨_, ?_, writesX_setX s n.toNat _⟩
  rw [he, execMget, ha]

/-- A count of the bits of a mask, of at most 32, is the result of every active lane as it is. -/
theorem completes_maskCount {i : Instr} {f : Args} {s : State} {v c : Nat} (he : exec i s = guarded (s.namesStop f.operands) s (maskCount f s v))
    (hr : Readable s f.operands) (hv : v = c) (hc : c ≤ 32) : Completes i s (Writes s f.a (s.active f.guard) fun _ => ⟨c, false⟩) := by
  subst hv
  have hw : wide64 false 32 ⟨v, false⟩ = ⟨v, false⟩ := by
    simp [wide64, extend]
    omega
  refine completes_of_guarded he (namesStop_of_readable hr) ?_
  have h := writes_result s f.a false 32 (s.active f.guard) fun _ => ⟨v, false⟩
  rwa [hw] at h

/-- Settles O6: the algebra is one write of all 32 bits, and a count of bits is at most 32. -/
theorem masks : Obligations.Masks := by
  unfold Obligations.Masks
  refine ⟨fun f s k ha hk => ⟨completes_maskOp ha hk rfl, completes_maskOp ha hk rfl, completes_maskOp ha hk rfl, completes_maskOp ha hk rfl,
      completes_maskOp ha hk rfl, completes_maskOp ha hk rfl, fun v hb => completes_mset_imm ha hk hb,
      fun n sz el hb hp => completes_mset_xreg ha hk hb hp⟩,
    fun f s => ⟨fun n sz el ha => completes_mget ha, fun hr => ⟨?_, ?_⟩⟩, fun f s n sz el hb hp => exec_mset_poisoned hb hp,
    fun op h h0 => ⟨fun h1 => decodeFields_maskAlgebra_refused h0 h1, fun h8 h9 => decodeFields_maskCount_refused h8 h9⟩⟩
  · exact completes_maskCount rfl hr (popcount_mask _) (countBits_le 32 _)
  · exact completes_maskCount rfl hr (ffs32_eq_firstBit _) (firstBit_le 32 _)

end Sys2Proof.Machine
end

section
/-! The end of a plot whose area has no tables on the way to its pages (R321, R330): releasing the area makes them first, and the
kernel takes their frames from the ones that it has been given back. -/

namespace Sys2Proof.Machine

/-- A plot with one furrow and one area. No table stands on the way to the area's page, and a frame of the size of such a table is
free. -/
def tablelessEnd : State :=
  let s := State.reset.withFetchWord 64 0
  { s with
    job := { s.job with areas := [{ va := 0x90000, pa := 2 ^ 39 + 0x200000, pages := 1, plot := s.plot.id }], pagesNear := 1 }
    freed := [(2 ^ 39 + 0x100000, 2 ^ 14)] }

theorem tablelessEnd_focused : tablelessEnd.Focused := ⟨by decide, by decide, by decide⟩

theorem tablelessEnd_memWf : tablelessEnd.memWf := by
  unfold State.memWf
  decide +kernel

/-- The frames that are free after an instruction. -/
def freedAfter : Out → List (Nat × Nat)
  | .next t => t.freed
  | _ => []

/-- The frame that was free is a table now: only the area's own frame is free. -/
theorem tablelessEnd_freed : freedAfter (exec .endAll tablelessEnd) = [(2 ^ 39 + 0x200000, pageSize)] := by decide +kernel

/-- Refutes O27: where the tables on the way to a released area are missing, `END` takes the frame of one from those that were free
before, so that the free frames afterwards are not the area's and all of those. -/
theorem not_ends : ¬ Obligations.Ends := by
  unfold Obligations.Ends
  rintro ⟨hends, -, -⟩
  obtain ⟨-, -, hlast⟩ := hends tablelessEnd tablelessEnd_focused tablelessEnd_memWf
  obtain ⟨t, hexec, -, -, -, -, -, -, -, -, -, hfreed, -⟩ :=
    hlast rfl (by decide) (by decide) rfl rfl rfl rfl rfl rfl rfl rfl
  have h : t.freed = [(2 ^ 39 + 0x200000, pageSize)] := by
    rw [← tablelessEnd_freed, hexec]
    rfl
  exact absurd (h.symm.trans hfreed) (by decide)

end Sys2Proof.Machine
end
